-- ==== Sys2Proof/Word.lean ====
section
/-! DEFINITION. The words of the Igmar Z9 and the one shape in which the model keeps sparse data. -/

namespace Sys2Proof

abbrev Byte := BitVec 8
abbrev Word16 := BitVec 16
abbrev Word32 := BitVec 32
abbrev Word64 := BitVec 64

/-- Sparse data by key: a list of keys and values. What a key that is not listed reads as is named where it is read. -/
abbrev SMap (α : Type) := List (Nat × α)

end Sys2Proof
end

