-- ==== Sys2Proof/Machine/Types.lean ====
section
/-! DEFINITION. Small named types of numbers, rounding and flags (13_numbers.md). -/

namespace Sys2Proof.Machine
open Sys2Proof

/-- The rounding modes of R221. -/
inductive RMode | rne | rz | rd | ru | rna
deriving DecidableEq, Repr

/-- The sticky flags of GSTAT, R224. -/
structure Flags where
  iv : Bool := false
  dz : Bool := false
  ovf : Bool := false
  uf : Bool := false
  nx : Bool := false
deriving DecidableEq, Repr

/-- A binary floating format: precision with the implicit bit, least and greatest exponent of a normal number,
width in bits (R216). -/
structure FFmt where
  prec : Nat
  emin : Int
  emax : Int
  width : Nat
deriving DecidableEq, Repr

/-- A number as the arithmetic sees it: a NaN (signalling or quiet), an infinity, or ±m × 2^e exactly. -/
inductive Num
  | nan (signalling : Bool)
  | inf (neg : Bool)
  | fin (neg : Bool) (m : Nat) (e : Int)
deriving DecidableEq, Repr

/-- A magnitude m × 2^e; `sticky` says that the exact magnitude lies above it by less than one unit of m. -/
structure Mag where
  m : Nat
  e : Int
  sticky : Bool
deriving DecidableEq, Repr

/-- What rounding a magnitude to a grid gives: the code (without sign), whether it was inexact, whether the exact value
lay below the normal range, and whether the rounded magnitude exceeds the largest finite one. -/
structure Rounded where
  code : Nat
  inexact : Bool
  tiny : Bool
  overflow : Bool
deriving DecidableEq, Repr

/-- A binary8 format of R7 and R217. -/
structure B8Fmt where
  signed : Bool
  infs : Bool
  prec : Nat
deriving DecidableEq, Repr

/-- What a walk of a context's table ends in (R244, R245): an entry with V = 0 or a malformed one, with its level, or a
leaf with its level, or an entry that its controller holds back (R258). -/
inductive Walk
  | held
  | absent (level : Nat)
  | malformed (level : Nat)
  | leaf (w : Word64) (level : Nat)
deriving DecidableEq, Repr

/-- Where a global address lies: its leaf, its physical address, its home module and its key, home × 2^52 + the address under
DIL = 0 of its DRAM byte. -/
structure Place where
  leaf : Word64
  level : Nat
  pa : Nat
  home : Nat
  key : Nat
deriving DecidableEq, Repr

/-- One active lane's global access: the lane, its virtual address, and where that lies. -/
structure GLane where
  lane : Nat
  va : Nat
  at_ : Place
deriving DecidableEq, Repr

/-- One active lane's local access: the lane, its local address, the place where the state keeps its first byte, and
whether it is a SELF address (R100). -/
structure LLane where
  lane : Nat
  addr : Nat
  at_ : Nat
  self : Bool
deriving DecidableEq, Repr

/-- The prefixes and fields that an instruction accepts (R293): IMM; OP for a guard, and for a fourth operand; the MOD
fields RND, scope, cache policy, the values of SAT, the negate bits and the abs bits; `stream` is its own Q = 1. -/
structure Acc where
  imm : Bool := false
  guard : Bool := false
  fourth : Bool := false
  rnd : Bool := false
  scope : Bool := false
  policy : Bool := false
  sat : Option (List Nat) := none
  neg : Nat := 0
  abs : Bool := false
  stream : Bool := false
deriving DecidableEq, Repr

end Sys2Proof.Machine
end

