-- ==== Sys2Proof/Machine/Float.lean ====
section
/-! DEFINITION. Exact arithmetic on numbers and its one rounding (13_numbers.md, R216 to R223, R225, R226): a value is
decoded to a number m × 2^e, combined exactly, and rounded once to a format. -/

namespace Sys2Proof.Machine
open Sys2Proof

/-- The native formats of R216. -/
def f32 : FFmt := ⟨24, -126, 127, 32⟩
def bf16 : FFmt := ⟨8, -126, 127, 16⟩
def f16 : FFmt := ⟨11, -14, 15, 16⟩

def Flags.or (a b : Flags) : Flags :=
  ⟨a.iv || b.iv, a.dz || b.dz, a.ovf || b.ovf, a.uf || b.uf, a.nx || b.nx⟩

/-- Trailing bits, exponent codes, canonical NaN (R222), infinity and the largest finite magnitude of a format. -/
def FFmt.tBits (f : FFmt) : Nat := f.prec - 1
def FFmt.expCodes (f : FFmt) : Nat := 2 ^ (f.width - f.prec)
def FFmt.infCode (f : FFmt) : Nat := (f.expCodes - 1) * 2 ^ f.tBits
def FFmt.nanCode (f : FFmt) : Nat := f.infCode + 2 ^ (f.tBits - 1)
def FFmt.maxCode (f : FFmt) : Nat := f.infCode - 1
def FFmt.signBit (f : FFmt) : Nat := 2 ^ (f.width - 1)

/-- A magnitude with the sign bit of `f`. -/
def FFmt.signed (f : FFmt) (neg : Bool) (mag : Nat) : Nat := if neg then f.signBit + mag else mag

/-- The number that a bit pattern of `f` stands for (R216). -/
def FFmt.toNum (f : FFmt) (b : Nat) : Num :=
  let neg := b / f.signBit % 2 = 1
  let ex := b / 2 ^ f.tBits % f.expCodes
  let fr := b % 2 ^ f.tBits
  if ex = f.expCodes - 1 then
    if fr = 0 then .inf neg else .nan (fr < 2 ^ (f.tBits - 1))
  else if ex = 0 then .fin neg fr (f.emin - f.tBits)
  else .fin neg (2 ^ f.tBits + fr) (f.emin + (ex - 1 : Int) - f.tBits)

/-- Whether a magnitude between two neighbours goes to the upper one, in mode `rm` (R221): `gt` and `eq` compare what is
cut off with a half, `odd` is the lower neighbour's last bit. -/
def goesUp (rm : RMode) (neg odd gt eq inexact : Bool) : Bool :=
  match rm with
  | .rne => gt || (eq && odd)
  | .rna => gt || eq
  | .rz => false
  | .rd => neg && inexact
  | .ru => !neg && inexact

/-- Rounds a magnitude to the grid of precision `p` and least normal exponent `emin`. The code counts the grid upward
from zero, and a tie goes to the even code, with one bit of precision too (R227; DEDUCED, unsafe: assumption log, 17). -/
def roundGrid (p : Nat) (emin : Int) (maxCode : Nat) (rm : RMode) (neg : Bool) (x : Mag) : Rounded :=
  if x.m = 0 ∧ x.sticky = false then ⟨0, false, false, false⟩ else
  let top : Int := x.e + (if x.m = 0 then (-1 : Int) else (Nat.log2 x.m : Int))
  let q : Int := max top emin - (p - 1 : Nat)
  let qmin : Int := emin - (p - 1 : Nat)
  let sh : Int := q - x.e
  let big := if sh ≤ 0 then x.m * 2 ^ (-sh).toNat else x.m / 2 ^ sh.toNat
  let rem := if sh ≤ 0 then 0 else x.m % 2 ^ sh.toNat
  let half := if sh ≤ 0 then 1 else 2 ^ (sh.toNat - 1)
  let base := (q - qmin).toNat * 2 ^ (p - 1) + big
  let inexact := rem ≠ 0 || x.sticky
  let gt := rem > half || (rem = half && x.sticky)
  let eq := rem = half && !x.sticky
  let code := if goesUp rm neg (base % 2 = 1) gt eq inexact then base + 1 else base
  ⟨code, inexact, top < emin, code > maxCode⟩

/-- Whether an overflow in mode `rm` gives an infinity, and not the largest finite value (R222). -/
def overflowsToInf (rm : RMode) (neg : Bool) : Bool :=
  match rm with
  | .rne | .rna => true
  | .rz => false
  | .rd => neg
  | .ru => !neg

/-- Round(±x, f, rm) with its flags (R222). -/
def FFmt.round (f : FFmt) (rm : RMode) (neg : Bool) (x : Mag) : Nat × Flags :=
  let r := roundGrid f.prec f.emin f.maxCode rm neg x
  if r.overflow then
    (f.signed neg (if overflowsToInf rm neg then f.infCode else f.maxCode), { ovf := true, nx := true })
  else (f.signed neg r.code, { uf := r.tiny && r.inexact, nx := r.inexact })

/-- Round of an exact number; a NaN gives the canonical one, and whoever met it raises IV. -/
def FFmt.ofNum (f : FFmt) (rm : RMode) : Num → Nat × Flags
  | .nan _ => (f.nanCode, {})
  | .inf neg => (f.signed neg f.infCode, {})
  | .fin neg m e => f.round rm neg ⟨m, e, false⟩

def Num.isNan : Num → Bool
  | .nan _ => true
  | .inf _ => false
  | .fin _ _ _ => false

def Num.isSnan : Num → Bool
  | .nan sig => sig
  | .inf _ => false
  | .fin _ _ _ => false

def Num.isZero : Num → Bool
  | .nan _ => false
  | .inf _ => false
  | .fin _ m _ => m = 0

def Num.neg? : Num → Bool
  | .nan _ => false
  | .inf n => n
  | .fin n _ _ => n

/-- The value of ±m × 2^e in units of 2^d, for d ≤ e. -/
def scaled (neg : Bool) (m : Nat) (e d : Int) : Int :=
  let v : Int := (m : Int) * 2 ^ (e - d).toNat
  if neg then -v else v

/-- Exact sum; the second part says that the operation is invalid (R222). A zero sum of two signs is −0 only in RD. -/
def Num.add (rm : RMode) : Num → Num → Num × Bool
  | .nan x, b => (.nan false, x || b.isSnan)
  | a, .nan y => (.nan false, a.isSnan || y)
  | .inf x, .inf y => if x = y then (.inf x, false) else (.nan false, true)
  | .inf x, .fin _ _ _ => (.inf x, false)
  | .fin _ _ _, .inf y => (.inf y, false)
  | .fin x m e, .fin y n g =>
    let d := min e g
    let v := scaled x m e d + scaled y n g d
    if v = 0 then (.fin (if x = y then x else decide (rm = .rd)) 0 d, false)
    else (.fin (decide (v < 0)) v.natAbs d, false)

/-- Exact product (R222). -/
def Num.mul : Num → Num → Num × Bool
  | .nan x, b => (.nan false, x || b.isSnan)
  | a, .nan y => (.nan false, a.isSnan || y)
  | .inf x, b => if b.isZero then (.nan false, true) else (.inf (x ^^ b.neg?), false)
  | .fin x m _, .inf y => if m = 0 then (.nan false, true) else (.inf (x ^^ y), false)
  | .fin x m e, .fin y n g => (.fin (x ^^ y) (m * n) (e + g), false)

def Num.negate : Num → Num
  | .nan s => .nan s
  | .inf n => .inf (!n)
  | .fin n m e => .fin (!n) m e

/-- a × b + c exactly; 0 × ∞ is invalid even when c is a quiet NaN (R328). -/
def Num.fma (rm : RMode) (a b c : Num) : Num × Bool :=
  let (p, iv) := a.mul b
  let (r, jv) := p.add rm c
  (r, iv || jv)

/-- −1, 0 or 1 as a is below, equal to or above b; −0 = +0. None of a NaN. -/
def Num.compare? : Num → Num → Option Int
  | .nan _, _ => none
  | _, .nan _ => none
  | .inf x, .inf y => some (if x = y then 0 else if x then -1 else 1)
  | .inf x, .fin _ _ _ => some (if x then -1 else 1)
  | .fin _ _ _, .inf y => some (if y then 1 else -1)
  | .fin x m e, .fin y n g =>
    let d := min e g
    let v := scaled x m e d - scaled y n g d
    some (if v < 0 then -1 else if v = 0 then 0 else 1)

/-- Whether a is below b in the order of minimumNumber, where −0 < +0 (R225). -/
def Num.below (a b : Num) : Bool :=
  match a.compare? b with
  | none => false
  | some v => if v = 0 then a.neg? && !b.neg? else v < 0

/-- An operation on bit patterns of `f` with its flags. -/
def FFmt.binop (f : FFmt) (rm : RMode) (op : Num × Bool) : Nat × Flags :=
  let (r, fl) := f.ofNum rm op.1
  (r, { fl with iv := op.2 })

def FFmt.add (f : FFmt) (rm : RMode) (a b : Nat) : Nat × Flags := f.binop rm ((f.toNum a).add rm (f.toNum b))
def FFmt.sub (f : FFmt) (rm : RMode) (a b : Nat) : Nat × Flags :=
  f.binop rm ((f.toNum a).add rm (f.toNum b).negate)
def FFmt.mul (f : FFmt) (rm : RMode) (a b : Nat) : Nat × Flags := f.binop rm ((f.toNum a).mul (f.toNum b))
def FFmt.fma (f : FFmt) (rm : RMode) (a b c : Nat) : Nat × Flags :=
  f.binop rm (Num.fma rm (f.toNum a) (f.toNum b) (f.toNum c))

/-- minimumNumber (`max` false) or maximumNumber on bit patterns (R225). -/
def FFmt.minmax (f : FFmt) (max : Bool) (a b : Nat) : Nat × Flags :=
  let x := f.toNum a
  let y := f.toNum b
  let iv := x.isSnan || y.isSnan
  if x.isNan && y.isNan then (f.nanCode, { iv := iv })
  else if x.isNan then (b, { iv := iv })
  else if y.isNan then (a, { iv := iv })
  else if (if max then y.below x else x.below y) then (a, {}) else (b, {})

/-- Round(±m × 2^e) to an integer magnitude, and whether it was inexact (R226). -/
def roundInt (rm : RMode) (neg : Bool) (m : Nat) (e : Int) : Nat × Bool :=
  if 0 ≤ e then (m * 2 ^ e.toNat, false) else
  let sh := (-e).toNat
  let big := m / 2 ^ sh
  let rem := m % 2 ^ sh
  let half := 2 ^ (sh - 1)
  let up := goesUp rm neg (big % 2 = 1) (rem > half) (rem = half) (rem ≠ 0)
  ((if up then big + 1 else big), decide (rem ≠ 0))

/-- f32 to an integer in [lo, hi]: saturates with IV, a NaN gives 0 with IV (R226, functions 0 and 1). -/
def toIntSat (rm : RMode) (lo hi : Int) : Num → Int × Flags
  | .nan _ => (0, { iv := true })
  | .inf neg => (if neg then lo else hi, { iv := true })
  | .fin neg m e =>
    let (k, inexact) := roundInt rm neg m e
    let v : Int := if neg then -(k : Int) else k
    if v < lo then (lo, { iv := true }) else if hi < v then (hi, { iv := true })
    else (v, { nx := inexact })

/-- An integer times 2^e, rounded to f32 (R226, functions 2, 3 and 12). -/
def ofIntScaled (rm : RMode) (v e : Int) : Nat × Flags :=
  f32.round rm (decide (v < 0)) ⟨v.natAbs, e, false⟩

/-- FRND (R226, R332): the sign of a zero result is the operand's. -/
def frnd (rm : RMode) (x : Nat) : Nat × Flags :=
  match f32.toNum x with
  | .nan sig => (f32.nanCode, { iv := sig })
  | .inf _ => (x, {})
  | .fin neg m e =>
    let (k, inexact) := roundInt rm neg m e
    let r := f32.round rm neg ⟨k, 0, false⟩
    (r.1, { nx := inexact })

/-- FCLASS (R226): exactly one bit. -/
def fclass (x : Nat) : Nat :=
  match f32.toNum x with
  | .nan sig => if sig then 2 ^ 8 else 2 ^ 9
  | .inf neg => if neg then 1 else 2 ^ 7
  | .fin neg m _ =>
    if m = 0 then (if neg then 2 ^ 3 else 2 ^ 4)
    else if m < 2 ^ 23 then (if neg then 2 ^ 2 else 2 ^ 5)
    else (if neg then 2 else 2 ^ 6)

/-- Conversion between native formats: a NaN is canonical, a signalling one sets IV (R222, R226). -/
def convert (src dst : FFmt) (rm : RMode) (x : Nat) : Nat × Flags :=
  let n := src.toNum x
  let (r, fl) := dst.ofNum rm n
  (r, { fl with iv := n.isSnan })

end Sys2Proof.Machine
end

