-- ==== Sys2Proof/Config.lean ====
section
/-! DEFINITION. What one module fixes: the sizes the spec gives it, and the values it leaves open, as opaque constants
that nothing can evaluate (each named in the assumption log). -/

namespace Sys2Proof.Config

/-- Compute cores, and all cores (R10, R11). -/
def computeCores : Nat := 256
def cores : Nat := 260
/-- The first address of the control range (R255). -/
def controlBase : Nat := 0x000FF00000000000
/-- Entries of a core's deferred log, its SFU queue, miss-status entries, watch table, TLB (R144, R75, R85, R95, R244). -/
def logSize : Nat := 8192
def sfuQueue : Nat := 32
def missEntries : Nat := 256
def watchEntries : Nat := 64
def tlbEntries : Nat := 2048
/-- Sectors of 16 bytes that an L1 holds: 128 KB (R10). -/
def l1Sectors : Nat := 8192
/-- Engines of a core (R110), records of a bin (R146), lines that a release marks at most (R175). -/
def engines : Nat := 16
def binSize : Nat := 256
def markLines : Nat := 64
/-- Cycles of a merge window (R174), and of 1 ms at 1.8 GHz (R78). -/
def mergeWindow : Nat := 64
def ageing : Nat := 1800000
/-- Cycles after which claims are a deadlock (R93), a pinned line is unpinned (R176), a full polder overflows (R158). -/
def deadlockCycles : Nat := 65536
def pinCycles : Nat := 65536
def overflowCycles : Nat := 16777216
/-- Cycles of 20, 100 and 8 microseconds (R179, R180, R252). -/
def replayCycles : Nat := 36000
def roundCycles : Nat := 180000
def grantCycles : Nat := 14400
/-- Entries of a cluster's pool and of a steward pool (R76, R398). -/
def poolSize : Nat := 4096
def stewardPoolSize : Nat := 256

/-- Where the numbers of task-set handles start (DESIGN CHOICE, safe: assumption log, 7). -/
opaque handleBase : Nat
/-- Whether a sector of a core's L1 has been evicted by the time a load looks for it, by core, sector and the state's
counter of free values (DESIGN CHOICE, safe: assumption log, 6). -/
opaque l1Evicts : Nat → Nat → Nat → Bool
/-- The place of the sector that a full L1 gives up, by core and counter (DESIGN CHOICE, safe: assumption log, 6). -/
opaque l1Victim : Nat → Nat → Nat
/-- Whether fetch finds a word in the instruction buffer to have been evicted, likewise (DESIGN CHOICE, safe: assumption log, 6). -/
opaque ibufEvicts : Nat → Nat → Nat → Bool
/-- Whether the bits sampled on a wire at a tap all match in a read check (false) or a write check (true), by
pseudo-channel, wire, tap and counter (DESIGN CHOICE, safe: assumption log, 8). -/
opaque wirePasses : Bool → Nat → Nat → Nat → Nat → Bool
/-- Failing rows that a bank test finds, and the first of them, by pseudo-channel, bank, test and counter (DESIGN CHOICE, safe: assumption log, 8). -/
opaque bistFails : Nat → Nat → Nat → Nat → Nat
opaque bistFirst : Nat → Nat → Nat → Nat → Nat
/-- Symbol errors that the reads of a row correct as it is copied for a bank test, and whether its counter's parity fails, by
pseudo-channel, bank, row and counter (DESIGN CHOICE, safe: assumption log, 8). -/
opaque copyCorrected : Nat → Nat → Nat → Nat → Nat
opaque copyParity : Nat → Nat → Nat → Nat → Bool
/-- What a bank test leaves in a row's counter, by pseudo-channel, bank, row and counter (DESIGN CHOICE, safe: assumption log, 8). -/
opaque bistCounts : Nat → Nat → Nat → Nat → Nat
/-- The SM3 digest of some bytes, whether the SM2 signature that an image carries verifies, and the SM2 signature of some
bytes under the module's identity key (DESIGN CHOICE, safe: assumption log, 9). -/
opaque sm3 : List Byte → List Byte
opaque sm2Verifies : List Byte → Bool
opaque sm2Sign : List Byte → List Byte
/-- What the boot ROM and the service configuration measure (R279; DESIGN CHOICE, safe: assumption log, 9). -/
opaque romBytes : List Byte
opaque configBytes : List Byte

/-- Which of the 48 L2 slices of its die is the home of a line (R16; DESIGN CHOICE, safe: assumption log, 7). -/
opaque sliceOf : Nat → Nat
/-- The access table of the signed firmware configuration (R274): endpoints with OPERATE, STEWARD and MAINTAIN (DESIGN CHOICE, safe: assumption log, 15). -/
opaque accessTable : List (Nat × Bool × Bool × Bool)
/-- The service's own vector table (R231; DESIGN CHOICE, safe: assumption log, 15). -/
opaque serviceTvec : Word64
/-- The cause in the completion reply of a launch whose context the service ends for a full polder (DESIGN CHOICE, safe: assumption log, 25). -/
opaque overflowCause : Byte
/-- What an engine reads of an address in the control range where no register takes the read, by address and the state's
counter of free values (DESIGN CHOICE, safe: assumption log, 36). -/
opaque openSource : Nat → Nat → Nat
/-- What the service sets at boot: a channel's polder in units of 16 MB, and the sets that the spill queue holds; none is the
default (R148, R81; DESIGN CHOICE, safe: assumption log, 15). -/
opaque polderSetting : Nat → Option Nat
opaque spillSetting : Option Nat
/-- The place in its channel's polder of the slot with a SEQ, by channel, and of the slots of a parked bank, by pseudo-channel,
bank and number (R148, R261; DESIGN CHOICE, unsafe: assumption log, 43). -/
opaque slotPlace : Nat → Nat → Nat
opaque copyPlace : Nat → Nat → Nat → Nat
/-- The physical address at which the service keeps the launch records (R276; DESIGN CHOICE, safe: assumption log, 41). -/
opaque ringAt : Nat
/-- What the flash holds after power has failed while an image is written over another (R278; DESIGN CHOICE, safe: assumption log, 9). -/
opaque halfWritten : List Byte → List Byte → List Byte
/-- The level that TINFO reports where no table entry was read, by cause and address (DESIGN CHOICE, safe: assumption log, 13). -/
opaque openLevel : Nat → Nat → Nat

end Sys2Proof.Config
end

