-- ==== Sys2Proof/Syntax.lean ====
section
/-! DEFINITION. The instructions and events of the Igmar Z9: one constructor for each row of spec/opcode_table.json. The
first 210, in its order, have a word (17_encoding.md); the last 86 are steps of the module's other agents, with what
reaches them from outside the machine as their arguments (DESIGN CHOICE, safe: assumption log, 2 and 3). -/

namespace Sys2Proof

/-- A vector register v0 to v127 (R26). -/
abbrev VReg := Fin 128
/-- A scalar s0 to s63 (R26). -/
abbrev SReg := Fin 64
/-- A predicate p0 to p15 (R26). -/
abbrev PReg := Fin 16
/-- An accumulator tile a0 to a15 (R186). -/
abbrev TReg := Fin 16
/-- A generator register g0 to g7 (R201). -/
abbrev GReg := Fin 8
/-- A window W0 to W15 (R110). -/
abbrev WReg := Fin 16

/-- Operand b of the V and C forms: a vector, or a scalar broadcast to every lane (R66, R284). -/
inductive VSrc
  | vec (r : VReg)
  | sca (r : SReg)
deriving DecidableEq, Repr

/-- Operand OA or OB of the X form: a scalar, or a generator when G = 1 (R284). -/
inductive XSrc
  | sca (r : SReg)
  | gen (r : GReg)
deriving DecidableEq, Repr

/-- The conditions of SCMP and VCMP (R65). -/
inductive SCond | eq | ne | lt | le | gt | ge | ltn | len | gtn | gen | test
deriving DecidableEq, Repr

/-- The conditions of FCMP (R330). -/
inductive FCond | eq | ne | lt | le | gt | ge | un | ord
deriving DecidableEq, Repr

/-- CMB of the C form (R68). -/
inductive Cmb | set | and | or
deriving DecidableEq, Repr

/-- The access widths of the M form (R287), without the touch. -/
inductive Width | b8 | b8s | b16 | b16s | b32 | b64 | b128
deriving DecidableEq, Repr

/-- OP of the A form (R288). -/
inductive AOp | add | min | max | and | or | xor | xchg | cas
deriving DecidableEq, Repr

/-- TY of the A form (R288). -/
inductive ATy | i32 | n32 | f32 | i64
deriving DecidableEq, Repr

/-- The kinds of MMA (R188). -/
inductive MKind | e8 | e8bs | bf16 | f16 | i8 | f32x3
deriving DecidableEq, Repr

/-- SD[1:0] of FENCE (R333). -/
inductive FenceKind | acq | rel | both
deriving DecidableEq, Repr

/-- `n` bytes of a message from offset `a` on, as a little-endian number. -/
def leField (bs : List Byte) (a n : Nat) : Nat := ((bs.drop a).take n).foldr (fun b v => b.toNat + 256 * v) 0

/-- The header of a service request on an ROD connection, in bytes, with the connection it arrives on (R271). -/
structure ReqHdr where
  conn : Nat
  bytes : List Byte
deriving DecidableEq, Repr

/-! The fields of the header, at the offsets of R271. -/

def ReqHdr.opc (h : ReqHdr) : Nat := leField h.bytes 0x00 2
def ReqHdr.flags (h : ReqHdr) : Nat := leField h.bytes 0x02 2
def ReqHdr.tag (h : ReqHdr) : Nat := leField h.bytes 0x04 4
def ReqHdr.ctx (h : ReqHdr) : Nat := leField h.bytes 0x08 8
def ReqHdr.bodyLen (h : ReqHdr) : Nat := leField h.bytes 0x10 4
def ReqHdr.status (h : ReqHdr) : Nat := leField h.bytes 0x14 4
def ReqHdr.reserved (h : ReqHdr) : Nat := leField h.bytes 0x18 8

/-- A request of a core of another module at a home slice here: its sequence number for that core, by which a request that
is replayed is known, and the address at its home (R179). -/
structure FarReq where
  module : Nat
  core : Nat
  seq : Nat
  pa : Nat
deriving DecidableEq, Repr

/-- Where a plain store that reaches a home slice comes from (R174): place `i` of the store buffer of a core of this
module, place `i` of the service's writes that have not reached their homes, or a core of another module of the pod, with
its bytes and, where a release has marked it, its group (R175); or it is a write of another module to a home that is not here,
which names the home and the address there (R172). -/
inductive StoreSrc
  | own (core i : Nat)
  | service (i : Nat)
  | other (r : FarReq) (bytes : List Byte) (marked : Option Nat)
  | away (home pa : Nat) (bytes : List Byte)
deriving DecidableEq, Repr

/-- Whose atomic or non-deferred reduction is accepted (R311): one that group `g` waits for, or one lane's of a core of
another module, with its operation, whether its minimum is unsigned, its data, its new value and its age. -/
inductive AtomSrc
  | own (g : Nat)
  | other (r : FarReq) (op : AOp) (ty : ATy) (n64 : Bool) (data new since : Nat)
deriving DecidableEq, Repr

/-- Whose load a home slice answers (R174, R344): one that group `g` waits for, or one of `n` bytes of a core of another
module. -/
inductive LoadSrc
  | own (g : Nat)
  | other (r : FarReq) (n : Nat)
deriving DecidableEq, Repr

/-- What a core does to pinned lines (R175, R176): its marked stores are home and pin `line`; as one of another module, a release
of its group marks a store to `line` that is home here already, it opens its lines here to a scope, or a group of it exits. -/
inductive PinSrc
  | own (line : Nat)
  | marked (module grp line : Nat)
  | opened (module scope : Nat)
  | exited (module grp : Nat)
deriving DecidableEq, Repr

/-- What a binning unit takes (R146, R239): the oldest record of core `core`'s log, which is lost where `fails` says that the
log or the bin has an uncorrectable error there. -/
structure Drain where
  core : Nat
  fails : Bool
deriving DecidableEq, Repr

/-- A grant of channel `ch`, and whether a P2 request waits there (R252). -/
structure GrantAsk where
  ch : Nat
  p2 : Bool
deriving DecidableEq, Repr

/-- What the apply engine of channel `ch` does in one grant (R154, R239, R252): the rows that it works on at most, the
places of the records that it loses for an error in the polder or its sort SRAM, the symbol errors that its reads correct
(R23), and the places of the rows, among those that it opens, whose counter's parity fails (R254). -/
structure ApplyWork where
  ch : Nat
  rows : Nat
  lost : List Nat
  corrected : Nat := 0
  parity : List Nat := []
deriving DecidableEq, Repr

/-- A word of a multicast-reduce page (R180): the key of this module's copy and its member set. -/
structure RoundWord where
  key : Nat
  mset : Nat
deriving DecidableEq, Repr

/-- A module bin on its way (R19): the module that sent it and its tag, by which it is accepted at most once, and the plane on
which it comes. -/
structure FarBin where
  module : Nat
  tag : Nat
  plane : Nat
deriving DecidableEq, Repr

/-- Who acknowledges a commit (R151): a channel here, whose records are applied; another module, which has received its notice,
or has applied what it covers but for the records at these places, each with whether its destination was uncorrectable (R155,
R239). -/
inductive AckSrc
  | chan (ch : Nat)
  | receipt (m : Nat)
  | applied (m : Nat) (gone : List (Nat × Bool))
deriving DecidableEq, Repr

/-- A commit notice (R151): the module and the commit it comes from, the channel it is for, and the origins it covers, an
origin being (core × 8 + stream) × 2 + generation. -/
structure Notice where
  module : Nat
  commit : Nat
  chan : Nat
  origins : List Nat
deriving DecidableEq, Repr

/-- One row activation that a channel's batch makes: pseudo-channel of the module, bank, row, and whether the counter's
parity failed at precharge (R254). -/
structure RowAct where
  pch : Nat
  bank : Nat
  row : Nat
  parityFails : Bool
deriving DecidableEq, Repr

/-- A request that a channel's controller accepts (R250): its core, or none for scrub's catch-up, its class (R86), the rows that
its lines lie in, the symbol errors that its reads correct (R23), and the uncorrectable words that scrub finds (R263). -/
structure MemReq where
  core : Option Nat
  cls : Nat
  acts : List RowAct
  corrected : Nat
  bad : List Nat := []
deriving DecidableEq, Repr

/-- The instructions, then the events. -/
inductive Instr
  | nop
  | bkpt
  | trap (c : BitVec 12)
  | eret
  | yield
  | mfsr (d : SReg) (n : BitVec 12)
  | mtsr (a : SReg) (n : BitVec 12)
  | cinv (a : SReg) (b : SReg)
  | cinvAll
  | fence (k : FenceKind) (sc : Fin 16)
  | emget (d : SReg)
  | emset (a : SReg)
  | merge
  | leave
  | cbar
  | cbara
  | ret (a : SReg)
  | bras (a : SReg)
  | calls (a : SReg)
  | exit
  | exitH (a : SReg)
  | spawn (d : SReg) (a : SReg) (b : SReg)
  | join (a : SReg)
  | joinNb (a : SReg) (p : Fin 8)
  | waitx (d : SReg) (a : SReg) (b : SReg)
  | commit (sc : Fin 16)
  | qpush (a : SReg) (q : Fin 64)
  | qpushNb (a : SReg) (q : Fin 64) (p : Fin 8)
  | qpop (d : SReg) (q : Fin 64)
  | qpopNb (d : SReg) (q : Fin 64) (p : Fin 8)
  | vclaim (n : Fin 64)
  | vclaimNb (n : Fin 64) (p : Fin 8)
  | vgive (n : Fin 64)
  | bra (disp : BitVec 18)
  | braIf (p : PReg) (disp : BitVec 18)
  | braIfNot (p : PReg) (disp : BitVec 18)
  | brany (p : PReg) (disp : BitVec 18)
  | branyNot (p : PReg) (disp : BitVec 18)
  | brall (p : PReg) (disp : BitVec 18)
  | brallNot (p : PReg) (disp : BitVec 18)
  | call (disp : BitVec 18)
  | split (p : PReg) (disp : BitVec 18)
  | splitNot (p : PReg) (disp : BitVec 18)
  | flip (disp : BitVec 18)
  | brx (a : VReg) (disp : BitVec 19)
  | pfxImm (p : BitVec 24)
  | pfxOp (vc : VReg) (valid : Bool) (neg : Bool) (g : PReg)
  | pfxMod (rnd : Fin 8) (sc : Fin 16) (pol : Fin 4) (sat : Fin 4) (neg : Fin 8) (abs : Fin 4)
  | sadd (d : SReg) (a : SReg) (b : SReg)
  | ssub (d : SReg) (a : SReg) (b : SReg)
  | smul (d : SReg) (a : SReg) (b : SReg)
  | smulh (d : SReg) (a : SReg) (b : SReg) (u : Bool)
  | sdiv (d : SReg) (a : SReg) (b : SReg) (u : Bool)
  | srem (d : SReg) (a : SReg) (b : SReg) (u : Bool)
  | sand (d : SReg) (a : SReg) (b : SReg)
  | sor (d : SReg) (a : SReg) (b : SReg)
  | sxor (d : SReg) (a : SReg) (b : SReg)
  | sshl (d : SReg) (a : SReg) (b : SReg)
  | sshr (d : SReg) (a : SReg) (b : SReg)
  | ssra (d : SReg) (a : SReg) (b : SReg)
  | smin (d : SReg) (a : SReg) (b : SReg) (u : Bool)
  | smax (d : SReg) (a : SReg) (b : SReg) (u : Bool)
  | ssel (d : SReg) (a : SReg) (b : SReg) (p : PReg)
  | saddImm (d : SReg) (a : SReg) (imm : BitVec 12)
  | sandImm (d : SReg) (a : SReg) (imm : BitVec 12)
  | sorImm (d : SReg) (a : SReg) (imm : BitVec 12)
  | sxorImm (d : SReg) (a : SReg) (imm : BitVec 12)
  | sshlImm (d : SReg) (a : SReg) (n : Fin 64)
  | sshrImm (d : SReg) (a : SReg) (n : Fin 64)
  | ssraImm (d : SReg) (a : SReg) (n : Fin 64)
  | smov (d : SReg) (imm : BitVec 12)
  | scmp (c : SCond) (p : PReg) (a : SReg) (b : SReg)
  | scmpImm (c : SCond) (p : PReg) (a : SReg) (imm : BitVec 6)
  | sld (d : SReg) (a : SReg) (imm : BitVec 12)
  | sst (d : SReg) (a : SReg) (imm : BitVec 12)
  | sldL (d : SReg) (a : SReg) (imm : BitVec 12)
  | sstL (d : SReg) (a : SReg) (imm : BitVec 12)
  | movs (a : VReg) (d : SReg) (lane : Fin 64)
  | vadd (d : VReg) (a : VReg) (b : VSrc)
  | vsub (d : VReg) (a : VReg) (b : VSrc)
  | vmul (d : VReg) (a : VReg) (b : VSrc)
  | vmulhI32 (d : VReg) (a : VReg) (b : VSrc)
  | vmulhN32 (d : VReg) (a : VReg) (b : VSrc)
  | vmad (d : VReg) (a : VReg) (b : VSrc)
  | vand (d : VReg) (a : VReg) (b : VSrc)
  | vor (d : VReg) (a : VReg) (b : VSrc)
  | vxor (d : VReg) (a : VReg) (b : VSrc)
  | vshl (d : VReg) (a : VReg) (b : VSrc)
  | vshr (d : VReg) (a : VReg) (b : VSrc)
  | vsra (d : VReg) (a : VReg) (b : VSrc)
  | vminI32 (d : VReg) (a : VReg) (b : VSrc)
  | vminN32 (d : VReg) (a : VReg) (b : VSrc)
  | vmaxI32 (d : VReg) (a : VReg) (b : VSrc)
  | vmaxN32 (d : VReg) (a : VReg) (b : VSrc)
  | vaddImm (d : VReg) (a : VReg) (imm : BitVec 9)
  | vandImm (d : VReg) (a : VReg) (imm : BitVec 9)
  | vorImm (d : VReg) (a : VReg) (imm : BitVec 9)
  | vxorImm (d : VReg) (a : VReg) (imm : BitVec 9)
  | vshlImm (d : VReg) (a : VReg) (n : Fin 32)
  | vshrImm (d : VReg) (a : VReg) (n : Fin 32)
  | vsraImm (d : VReg) (a : VReg) (n : Fin 32)
  | vmovImm (d : VReg) (imm : BitVec 9)
  | vmov (d : VReg) (a : VReg)
  | vmovS (d : VReg) (b : SReg)
  | vnot (d : VReg) (a : VReg)
  | vabs (d : VReg) (a : VReg)
  | vclz (d : VReg) (a : VReg)
  | vpopc (d : VReg) (a : VReg)
  | vbfxI32 (d : VReg) (a : VReg) (b : VSrc)
  | vbfxN32 (d : VReg) (a : VReg) (b : VSrc)
  | vbfi (d : VReg) (a : VReg) (b : VSrc)
  | vlane (d : VReg)
  | vdivI32 (d : VReg) (a : VReg) (b : VSrc)
  | vdivN32 (d : VReg) (a : VReg) (b : VSrc)
  | vremI32 (d : VReg) (a : VReg) (b : VSrc)
  | vremN32 (d : VReg) (a : VReg) (b : VSrc)
  | vcmp (c : SCond) (p : PReg) (m : Cmb) (a : VReg) (b : VSrc)
  | vsel (p : PReg) (d : VReg) (a : VReg) (b : VSrc)
  | shflIdx (d : VReg) (a : VReg) (b : VSrc)
  | shflUp (d : VReg) (a : VReg) (b : VSrc)
  | shflDown (d : VReg) (a : VReg) (b : VSrc)
  | shflXor (d : VReg) (a : VReg) (b : VSrc)
  | voteAny (d : PReg) (a : PReg)
  | voteAll (d : PReg) (a : PReg)
  | voteBallot (d : SReg) (a : PReg)
  | lredAddI32 (d : SReg) (a : VReg)
  | lredMinI32 (d : SReg) (a : VReg)
  | lredMaxI32 (d : SReg) (a : VReg)
  | lredAddF32 (d : SReg) (a : VReg)
  | lredMinF32 (d : SReg) (a : VReg)
  | lredMaxF32 (d : SReg) (a : VReg)
  | lscanAddI32 (d : VReg) (a : VReg)
  | lscanAddF32 (d : VReg) (a : VReg)
  | lredAnd (d : SReg) (a : VReg)
  | lredOr (d : SReg) (a : VReg)
  | pset (d : PReg) (a : SReg)
  | plog (t : BitVec 4) (d : PReg) (a : PReg) (b : PReg)
  | faddF32 (d : VReg) (a : VReg) (b : VSrc)
  | fsubF32 (d : VReg) (a : VReg) (b : VSrc)
  | fmulF32 (d : VReg) (a : VReg) (b : VSrc)
  | fmaF32 (d : VReg) (a : VReg) (b : VSrc)
  | fmin (d : VReg) (a : VReg) (b : VSrc)
  | fmax (d : VReg) (a : VReg) (b : VSrc)
  | faddBf16x2 (d : VReg) (a : VReg) (b : VSrc)
  | fmulBf16x2 (d : VReg) (a : VReg) (b : VSrc)
  | fmaBf16x2 (d : VReg) (a : VReg) (b : VSrc)
  | faddF16x2 (d : VReg) (a : VReg) (b : VSrc)
  | fmulF16x2 (d : VReg) (a : VReg) (b : VSrc)
  | fmaF16x2 (d : VReg) (a : VReg) (b : VSrc)
  | fcmp (c : FCond) (p : PReg) (m : Cmb) (a : VReg) (b : VSrc)
  | fcvtF32I32 (d : VReg) (a : VReg)
  | fcvtF32N32 (d : VReg) (a : VReg)
  | fcvtI32F32 (d : VReg) (a : VReg)
  | fcvtN32F32 (d : VReg) (a : VReg)
  | fcvtF32Bf16 (d : VReg) (a : VReg)
  | fcvtBf16F32 (d : VReg) (a : VReg)
  | fcvtF32F16 (d : VReg) (a : VReg)
  | fcvtF16F32 (d : VReg) (a : VReg)
  | fcvtF32E8 (d : VReg) (a : VReg) (c : Fin 128) (o : Bool)
  | fcvtE8F32 (d : VReg) (a : VReg) (c : Fin 128)
  | frnd (d : VReg) (a : VReg)
  | fclass (d : VReg) (a : VReg)
  | fcvtFx64F32 (d : VReg) (a : VReg) (e : BitVec 7)
  | fcvtF32Bf16x2 (d : VReg) (a : VReg) (b : VSrc)
  | xrcp (d : VReg) (a : VReg)
  | xrsq (d : VReg) (a : VReg)
  | xsqrt (d : VReg) (a : VReg)
  | xexp (d : VReg) (a : VReg)
  | xlog (d : VReg) (a : VReg)
  | xsin (d : VReg) (a : VReg)
  | xcos (d : VReg) (a : VReg)
  | xtanh (d : VReg) (a : VReg)
  | ldg (w : Width) (q : Bool) (r : VReg) (b : SReg) (o : VReg) (s : Bool)
  | ldgAcq (w : Width) (r : VReg) (b : SReg) (o : VReg) (s : Bool)
  | ldgTouch (b : SReg) (o : VReg) (s : Bool)
  | stg (w : Width) (q : Bool) (r : VReg) (b : SReg) (o : VReg) (s : Bool)
  | stgRel (w : Width) (r : VReg) (b : SReg) (o : VReg) (s : Bool)
  | ldl (w : Width) (r : VReg) (b : SReg) (o : VReg) (s : Bool)
  | ldlFe (w : Width) (r : VReg) (b : SReg) (o : VReg) (s : Bool)
  | ldlFec (w : Width) (r : VReg) (b : SReg) (o : VReg) (s : Bool)
  | ldlFb (r : VReg) (b : SReg) (o : VReg) (s : Bool)
  | ldlTouch (b : SReg) (o : VReg) (s : Bool)
  | stl (w : Width) (r : VReg) (b : SReg) (o : VReg) (s : Bool)
  | stlFull (w : Width) (r : VReg) (b : SReg) (o : VReg) (s : Bool)
  | stlFw (w : Width) (r : VReg) (b : SReg) (o : VReg) (s : Bool)
  | stlFb (r : VReg) (b : SReg) (o : VReg) (s : Bool)
  | atom (op : AOp) (d : VReg) (b : SReg) (o : VReg) (ty : ATy)
  | red (op : AOp) (d : VReg) (b : SReg) (o : VReg) (ty : ATy)
  | latom (op : AOp) (d : VReg) (b : SReg) (o : VReg) (ty : ATy)
  | mma (t : Bool) (k : MKind) (c : TReg) (a : XSrc) (b : XSrc) (n : Fin 16)
  | mmas (t : Bool) (k : MKind) (c : TReg) (a : XSrc) (b : XSrc) (n : Fin 16)
  | mzero (c : TReg)
  | mdrain (c : TReg) (a : SReg) (b : SReg) (t : Bool) (g : Bool) (o : Bool)
  | msta (c : TReg) (a : SReg)
  | mlda (c : TReg) (a : SReg)
  | gset (g : GReg) (a : SReg)
  | gget (g : GReg) (d : SReg)
  | gseed (g : GReg) (a : SReg)
  | geval (g : GReg) (d : VReg) (a : VReg) (b : VReg) (t : Bool)
  | wset (w : WReg) (a : SReg)
  | wsetG (w : WReg) (a : SReg)
  | wdrop (w : WReg)
  | wstat (w : WReg) (d : SReg)
  | wmark (w : WReg) (d : SReg)
  | wwait (w : WReg)
  | wwaitMark (w : WReg) (a : SReg)
  | txinit (a : SReg) (b : SReg)
  | txarrive (a : SReg)
  | txexpect (a : SReg) (b : SReg)
  | txwait (a : SReg) (b : SReg)

  /-- Service request LAUNCH; the service puts the set into the pool of cluster or die `pool` (R272, R46). -/
  | launch (h : ReqHdr) (body : List Byte) (pool : Nat)
  /-- Service request MAPMEM: the frames and table space the service chooses, the pages' home module, and the member set
  of a multicast-reduce page (R272, R267). -/
  | mapmem (h : ReqHdr) (body : List Byte) (frames tables home : Nat) (members : List Nat)
  /-- Service request UNMAP (R272). -/
  | unmap (h : ReqHdr) (body : List Byte)
  /-- Service request PUT (R270). -/
  | put (h : ReqHdr) (body : List Byte)
  /-- Service request GET (R270). -/
  | get (h : ReqHdr) (body : List Byte)
  /-- Service request PREEMPT with REASON 0 (R240). -/
  | preemptSuspend (h : ReqHdr) (body : List Byte)
  /-- Service request PREEMPT with REASON 1 (R272). -/
  | preemptEnd (h : ReqHdr) (body : List Byte)
  /-- Service request PREEMPT with REASON 2 (R272). -/
  | preemptHalt (h : ReqHdr) (body : List Byte)
  /-- Service request ATTEST (R279). -/
  | attest (h : ReqHdr) (body : List Byte)
  /-- Service request HEALTH with CLEAR = 0 (R275). -/
  | healthRead (h : ReqHdr) (body : List Byte)
  /-- Service request HEALTH with CLEAR = 1 (R275). -/
  | healthClear (h : ReqHdr) (body : List Byte)
  /-- Service request UPDATE (R278). -/
  | update (h : ReqHdr) (body : List Byte)
  /-- Group `g` takes cause `cause`, found by another agent, with the TADDR and TINFO of R236 (R233). -/
  | trapEntry (g cause : Nat) (taddr tinfo : Word64)
  /-- Instance `idx` of set `set` is placed on core `core` (R44). -/
  | instancePlacement (core set idx : Nat)
  /-- Core `core` asks its cluster's pool (R77). -/
  | poolRequest (core : Nat)
  /-- Core `core` asks the other cluster's pool (R80). -/
  | stealRequest (core : Nat)
  /-- Steward core `core` asks its die's steward pool, or the other die's (R398). -/
  | stewardPoolRequest (core : Nat)
  /-- Set `set` moves up one level (R78). -/
  | setAgeing (set : Nat)
  /-- Pool `pool` reserves a core for its oldest level-0 set (R79). -/
  | setReservation (pool : Nat)
  /-- The service sets the placement limit of `core` (R12). -/
  | placementLimitChange (core courses tslots gslots : Nat)
  /-- The service moves spilled sets into pool `pool` (R81). -/
  | spillRefill (pool : Nat)
  /-- Graph `graph` completes (R46). -/
  | graphComplete (graph : Nat)
  /-- The claims of core `core` are granted oldest first (R54). -/
  | claimGrant (core : Nat)
  /-- The open phase of crew slot `slot` of core `core` completes (R320). -/
  | crewPhaseComplete (core slot : Nat)
  /-- Waiting JOINs of core `core` proceed (R340). -/
  | crewSlotFree (core : Nat)
  /-- Waiting QPUSH and QPOP of queue `q` of core `core` re-test (R364). -/
  | queueWake (core q : Nat)
  /-- Instructions waiting on full-empty bits of core `core` are tested, oldest first (R107). -/
  | fullEmptyWake (core : Nat)
  /-- Group `g`'s accesses that wait on landing marks are compared again (R120). -/
  | markWaitRelease (g : Nat)
  /-- Miss-status entries of core `core` go to its oldest rejected instruction (R85). -/
  | missEntryGrant (core : Nat)
  /-- The data of a group's waiting loads arrives, or a home slice here answers another module's load (R343). -/
  | loadDataReturn (src : LoadSrc)
  /-- The results at place `i` of core `core`'s SFU queue are written (R75). -/
  | sfuResult (core i : Nat)
  /-- The watchdog counter of context `ctx` on core `core` reaches its limit (R92). -/
  | watchdogExpiry (core ctx : Nat)
  /-- The claim-deadlock count of core `core` reaches 65,536 (R93). -/
  | claimDeadlock (core : Nat)
  /-- A notice for group `g`'s WAITX arrives (R95). -/
  | watchNotice (g : Nat)
  /-- Group `g`'s WAITX without a watch entry re-reads (R96). -/
  | waitxPoll (g : Nat)
  /-- A freed engine of core `core` goes to its oldest waiting WSET (R110). -/
  | engineGrant (core : Nat)
  /-- The engine of window `w` of task slot `slot` of core `core` lands its next granule (R118). -/
  | granuleLanding (core slot w : Nat)
  /-- The read of granule `k` of a window meets cause `cause`, 0x09 or 0x0A, found outside translation (R128). -/
  | sourceFault (core slot w k cause : Nat)
  /-- The steward resumes a FROZEN window (R129). -/
  | windowResume (core slot w : Nat)
  /-- A FROZEN window becomes STRANDED (R129). -/
  | windowStrand (core slot w : Nat)
  /-- A binning unit takes the oldest record of a core's log (R146). -/
  | binDrain (d : Drain)
  /-- Bin `bin` of binning unit `unit` ships: a channel below 256, else 256 + module (R146). -/
  | binShip (unit bin : Nat)
  /-- A module bin of (header, value) records arrives from another module (R19). -/
  | moduleBinIngress (src : FarBin) (recs : List (Word64 × Word64))
  /-- The packet at place `i` of those in transit is parked in its channel's polder (R148). -/
  | polderPark (i : Nat)
  /-- A commit notice reaches its channel (R151). -/
  | commitNotice (n : Notice)
  /-- A channel grants its apply engine a period (R252). -/
  | applyGrant (a : GrantAsk)
  /-- A channel's apply engine applies records that its oldest notice covers (R154). -/
  | apply (a : ApplyWork)
  /-- An acknowledgement of commit `commit` arrives, with whether records were lost (R151, R155). -/
  | commitAck (commit : Nat) (src : AckSrc) (lost : Bool)
  /-- The polder of channel `ch` has been full for 2^24 cycles; the service enlarges it or ends the context (R158). -/
  | polderOverflow (ch : Nat) (enlarge : Bool)
  /-- The current merge window ends (R174). -/
  | mergeWindowEnd
  /-- Marked stores at home pin a global line to their core, or pins of another module's cores change (R175, R176). -/
  | pinLine (core : Nat) (src : PinSrc)
  /-- Pinned line `line` has refused a request for 65,536 cycles (R176). -/
  | pinForcedWidening (line : Nat)
  /-- The lanes of a group's waiting atomic are all accepted, or the home accepts one of another module (R311). -/
  | atomicAccept (src : AtomSrc)
  /-- A walker walks context `ctx`'s table for `va` for the TLB of core `core` (R244). -/
  | pageWalk (core ctx : Nat) (va : Word64)
  /-- The steward services the fault of group `g` (R246). -/
  | faultService (g : Nat)
  /-- Instances that were suspended together are placed again on core `core`; `saves` are the save areas of the groups of each
  (R240, R241). -/
  | suspendedRestore (core : Nat) (insts : List Nat) (saves : List (List Word64))
  /-- The steward raises the throttle fraction of die `die` to `n` sixteenths (R25). -/
  | throttleSet (die n : Nat)
  /-- The steward lowers the throttle fraction of die `die` to `n` sixteenths (R25). -/
  | throttleLift (die n : Nat)
  /-- Channel `ch` marks its accepted requests, oldest first, into a batch (R250, R251). -/
  | batchForm (ch : Nat) (reqs : List MemReq)
  /-- Bank `bank` of pseudo-channel `pch` owes a refresh (R253). -/
  | refreshDue (pch bank : Nat)
  /-- Channel `ch` makes a forced all-bank refresh (R253). -/
  | allBankRefresh (ch : Nat)
  /-- The scrub engine reads a row, finding `corrected` symbol errors and these uncorrectable words (R263). -/
  | scrubRow (act : RowAct) (corrected : Nat) (bad : List Nat)
  /-- OWN = 1 is written to pseudo-channel `pch` (R258). -/
  | trainOwn (pch : Nat)
  /-- OWN = 0 is written to pseudo-channel `pch` (R258). -/
  | trainRelease (pch : Nat)
  /-- A read check starts on pseudo-channel `pch` (R259). -/
  | readCheck (pch : Nat)
  /-- A write check starts on pseudo-channel `pch` (R259). -/
  | writeCheck (pch : Nat)
  /-- A read check and then a write check start on pseudo-channel `pch` (R259). -/
  | readWriteCheck (pch : Nat)
  /-- The check running on pseudo-channel `pch` ends (R259). -/
  | checkDone (pch : Nat)
  /-- LREP of pseudo-channel `pch` is written (R260). -/
  | laneRepair (pch : Nat) (v : Word64)
  /-- A March C− test of `bank` starts (R261). -/
  | bistMarch (pch bank : Nat)
  /-- A checkerboard test of `bank` starts (R261). -/
  | bistCheckerboard (pch bank : Nat)
  /-- A retention test of `bank` starts (R261). -/
  | bistRetention (pch bank : Nat)
  /-- The test running on pseudo-channel `pch` ends (R262). -/
  | bistTestDone (pch : Nat)
  /-- A control-range register with no row of its own is written, `n` bytes wide (R256). -/
  | controlRegisterWrite (pch off n : Nat) (v : Word64)
  /-- A flit of 128 bytes arrives at port `port` (R264, R265). -/
  | flitReceive (port : Nat) (flit : List Byte)
  /-- A NAK naming `seq` arrives at port `port` (R265). -/
  | flitReplay (port seq : Nat)
  /-- Remote request `i`, or after these a module bin, has gone 20 microseconds without acknowledgement (R19, R179). -/
  | pathReplay (i : Nat)
  /-- Plane `plane` goes down for module `module` (R266). -/
  | planeDown (module plane : Nat)
  /-- Plane `plane` comes back up for module `module` (R266). -/
  | planeUp (module plane : Nat)
  /-- Contributions of other members to the round of a word reach the switch, as (module, f32); it closes the round where it
  holds one from every member (R180). -/
  | multicastRoundClose (word : RoundWord) (others : List (Nat × Word32))
  /-- Round `round` has gone 100 microseconds without its last contribution (R180). -/
  | multicastTimeout (round : Nat)
  /-- A packet of another delivery mode arrives at Ultra Ethernet port `port` (R268). -/
  | uePacketDrop (port : Nat)
  /-- An RUD data message of the connection's requester arrives: the 16 bytes of its data header, as two little-endian words (the
  32-bit XFER and four zero bytes in `xfer`, the offset in `off`), and the data (R271). -/
  | dataMessage (conn : Nat) (xfer off : Word64) (bytes : List Byte)
  /-- Reset: the boot ROM runs, with the image that network recovery would receive (R277, R278). -/
  | boot (recovery : List Byte)
  /-- Core `core` is mapped out (R10). -/
  | coreMappedOut (core : Nat)
  /-- A plain store arrives at its home slice (R174). -/
  | plainStoreArrival (src : StoreSrc)
deriving DecidableEq, Repr

end Sys2Proof
end

