-- ==== Sys2Proof/WellFormed.lean ====
section
/-! DEFINITION. The words that R284, R287, R288, R291, R192, R195 and R350 refuse with an illegal-instruction trap although each
of their fields is in range: spans of registers that are not aligned, and combinations that no row allows. -/

namespace Sys2Proof

/-- The first register of a span of `n` registers is a multiple of `n` (R284). -/
def aligned (r : Nat) (n : Nat) : Bool := r % n = 0

/-- The registers that an access of this width spans (R287). -/
def Width.regs : Width → Nat
  | .b8 | .b8s | .b16 | .b16s | .b32 => 1
  | .b64 => 2
  | .b128 => 4

/-- A width that a store may have (R287). -/
def Width.stores : Width → Bool
  | .b8 | .b16 | .b32 | .b64 | .b128 => true
  | .b8s | .b16s => false

/-- The combinations that R288 allows on ATOM and LATOM. -/
def AOp.takes : AOp → ATy → Bool
  | .and, .f32 | .or, .f32 | .xor, .f32 | .cas, .f32 => false
  | .add, _ | .min, _ | .max, _ | .xchg, _ => true
  | .and, .i32 | .and, .n32 | .and, .i64 | .or, .i32 | .or, .n32 | .or, .i64 => true
  | .xor, .i32 | .xor, .n32 | .xor, .i64 | .cas, .i32 | .cas, .n32 | .cas, .i64 => true

/-- The registers that the data of an atomic spans from VD (R288). -/
def AOp.regs : AOp → ATy → Nat
  | .cas, .i64 => 4
  | .cas, .i32 | .cas, .n32 | .cas, .f32 => 2
  | .add, .i64 | .min, .i64 | .max, .i64 | .and, .i64 | .or, .i64 | .xor, .i64 | .xchg, .i64 => 2
  | .add, _ | .min, _ | .max, _ | .and, _ | .or, _ | .xor, _ | .xchg, _ => 1

/-- The operations RED has (R288). -/
def AOp.reduces : AOp → Bool
  | .add | .min | .max | .and | .or | .xor => true
  | .xchg | .cas => false

/-- The kinds MMAS has (R285). -/
def MKind.sparse : MKind → Bool
  | .e8 | .bf16 | .f16 | .i8 => true
  | .e8bs | .f32x3 => false

/-- The operand names a generator. -/
def XSrc.isGen : XSrc → Bool
  | .gen _ => true
  | .sca _ => false

/-- The instruction is one that some word of R283 to R292 spells; an event is one as it stands. -/
def Instr.wf : Instr → Bool
  | .pfxOp _ valid neg g => valid || (!neg && g == 0)
  | .ldg w _ r _ _ _ | .ldgAcq w r _ _ _ | .ldl w r _ _ _ | .ldlFe w r _ _ _ | .ldlFec w r _ _ _ => aligned r w.regs
  | .stg w _ r _ _ _ | .stgRel w r _ _ _ | .stl w r _ _ _ | .stlFull w r _ _ _ | .stlFw w r _ _ _ =>
    w.stores && aligned r w.regs
  | .atom op d _ _ ty | .latom op d _ _ ty => op.takes ty && aligned d (op.regs ty)
  | .red op d _ _ ty => op.takes ty && op.reduces && aligned d (op.regs ty)
  | .fcvtFx64F32 _ a _ => aligned a 2
  | .mma t _ _ a b _ => !(a.isGen && b.isGen) && (!t || a.isGen || b.isGen)
  | .mmas _ k _ a _ _ => k.sparse && !a.isGen
  | .mdrain _ _ b t _ _ => t || b == 0
  | .nop | .bkpt | .trap _ | .eret | .yield | .mfsr _ _ | .mtsr _ _ | .cinv _ _ | .cinvAll | .fence _ _ | .emget _
  | .emset _ | .merge | .leave | .cbar | .cbara | .ret _ | .bras _ | .calls _ | .exit | .exitH _ | .spawn _ _ _
  | .join _ | .joinNb _ _ | .waitx _ _ _ | .commit _ | .qpush _ _ | .qpushNb _ _ _ | .qpop _ _ | .qpopNb _ _ _
  | .vclaim _ | .vclaimNb _ _ | .vgive _ | .bra _ | .braIf _ _ | .braIfNot _ _ | .brany _ _ | .branyNot _ _
  | .brall _ _ | .brallNot _ _ | .call _ | .split _ _ | .splitNot _ _ | .flip _ | .brx _ _ | .pfxImm _
  | .pfxMod _ _ _ _ _ _ | .sadd _ _ _ | .ssub _ _ _ | .smul _ _ _ | .smulh _ _ _ _ | .sdiv _ _ _ _ | .srem _ _ _ _
  | .sand _ _ _ | .sor _ _ _ | .sxor _ _ _ | .sshl _ _ _ | .sshr _ _ _ | .ssra _ _ _ | .smin _ _ _ _ | .smax _ _ _ _
  | .ssel _ _ _ _ | .saddImm _ _ _ | .sandImm _ _ _ | .sorImm _ _ _ | .sxorImm _ _ _ | .sshlImm _ _ _ | .sshrImm _ _ _
  | .ssraImm _ _ _ | .smov _ _ | .scmp _ _ _ _ | .scmpImm _ _ _ _ | .sld _ _ _ | .sst _ _ _ | .sldL _ _ _
  | .sstL _ _ _ | .movs _ _ _ | .vadd _ _ _ | .vsub _ _ _ | .vmul _ _ _ | .vmulhI32 _ _ _ | .vmulhN32 _ _ _
  | .vmad _ _ _ | .vand _ _ _ | .vor _ _ _ | .vxor _ _ _ | .vshl _ _ _ | .vshr _ _ _ | .vsra _ _ _ | .vminI32 _ _ _
  | .vminN32 _ _ _ | .vmaxI32 _ _ _ | .vmaxN32 _ _ _ | .vaddImm _ _ _ | .vandImm _ _ _ | .vorImm _ _ _
  | .vxorImm _ _ _ | .vshlImm _ _ _ | .vshrImm _ _ _ | .vsraImm _ _ _ | .vmovImm _ _ | .vmov _ _ | .vmovS _ _
  | .vnot _ _ | .vabs _ _ | .vclz _ _ | .vpopc _ _ | .vbfxI32 _ _ _ | .vbfxN32 _ _ _ | .vbfi _ _ _ | .vlane _
  | .vdivI32 _ _ _ | .vdivN32 _ _ _ | .vremI32 _ _ _ | .vremN32 _ _ _ | .vcmp _ _ _ _ _ | .vsel _ _ _ _
  | .shflIdx _ _ _ | .shflUp _ _ _ | .shflDown _ _ _ | .shflXor _ _ _ | .voteAny _ _ | .voteAll _ _ | .voteBallot _ _
  | .lredAddI32 _ _ | .lredMinI32 _ _ | .lredMaxI32 _ _ | .lredAddF32 _ _ | .lredMinF32 _ _ | .lredMaxF32 _ _
  | .lscanAddI32 _ _ | .lscanAddF32 _ _ | .lredAnd _ _ | .lredOr _ _ | .pset _ _ | .plog _ _ _ _ | .faddF32 _ _ _
  | .fsubF32 _ _ _ | .fmulF32 _ _ _ | .fmaF32 _ _ _ | .fmin _ _ _ | .fmax _ _ _ | .faddBf16x2 _ _ _
  | .fmulBf16x2 _ _ _ | .fmaBf16x2 _ _ _ | .faddF16x2 _ _ _ | .fmulF16x2 _ _ _ | .fmaF16x2 _ _ _ | .fcmp _ _ _ _ _
  | .fcvtF32I32 _ _ | .fcvtF32N32 _ _ | .fcvtI32F32 _ _ | .fcvtN32F32 _ _ | .fcvtF32Bf16 _ _ | .fcvtBf16F32 _ _
  | .fcvtF32F16 _ _ | .fcvtF16F32 _ _ | .fcvtF32E8 _ _ _ _ | .fcvtE8F32 _ _ _ | .frnd _ _ | .fclass _ _
  | .fcvtF32Bf16x2 _ _ _ | .xrcp _ _ | .xrsq _ _ | .xsqrt _ _ | .xexp _ _ | .xlog _ _ | .xsin _ _ | .xcos _ _
  | .xtanh _ _ | .ldgTouch _ _ _ | .ldlFb _ _ _ _ | .ldlTouch _ _ _ | .stlFb _ _ _ _ | .mzero _
  | .msta _ _ | .mlda _ _ | .gset _ _ | .gget _ _ | .gseed _ _ | .geval _ _ _ _ _ | .wset _ _ | .wsetG _ _ | .wdrop _
  | .wstat _ _ | .wmark _ _ | .wwait _ | .wwaitMark _ _ | .txinit _ _ | .txarrive _ | .txexpect _ _ | .txwait _ _
  | .trapEntry _ _ _ _ | .instancePlacement _ _ _ | .poolRequest _ | .stealRequest _ | .stewardPoolRequest _
  | .setAgeing _ | .setReservation _ | .placementLimitChange _ _ _ _ | .spillRefill _ | .graphComplete _
  | .claimGrant _ | .crewPhaseComplete _ _ | .crewSlotFree _ | .queueWake _ _ | .fullEmptyWake _ | .markWaitRelease _
  | .missEntryGrant _ | .loadDataReturn _ | .sfuResult _ _ | .watchdogExpiry _ _ | .claimDeadlock _ | .watchNotice _
  | .waitxPoll _ | .engineGrant _ | .granuleLanding _ _ _ | .sourceFault _ _ _ _ _ | .windowResume _ _ _
  | .windowStrand _ _ _ | .binDrain _ | .binShip _ _ | .moduleBinIngress _ _ | .polderPark _ | .commitNotice _
  | .applyGrant _ | .apply _ | .commitAck _ _ _ | .polderOverflow _ _ | .mergeWindowEnd | .pinLine _ _
  | .pinForcedWidening _ | .atomicAccept _ | .pageWalk _ _ _ | .faultService _ | .suspendedRestore _ _ _
  | .throttleSet _ _ | .throttleLift _ _ | .batchForm _ _ | .refreshDue _ _ | .allBankRefresh _ | .scrubRow _ _ _
  | .trainOwn _ | .trainRelease _ | .readCheck _ | .writeCheck _ | .readWriteCheck _ | .checkDone _ | .laneRepair _ _
  | .bistMarch _ _ | .bistCheckerboard _ _ | .bistRetention _ _ | .bistTestDone _ | .controlRegisterWrite _ _ _ _
  | .flitReceive _ _ | .flitReplay _ _ | .pathReplay _ | .planeDown _ _ | .planeUp _ _ | .multicastRoundClose _ _
  | .multicastTimeout _ | .uePacketDrop _ | .dataMessage _ _ _ _ | .launch _ _ _ | .mapmem _ _ _ _ _ _ | .unmap _ _
  | .put _ _ | .get _ _ | .preemptSuspend _ _ | .preemptEnd _ _ | .preemptHalt _ _ | .attest _ _ | .healthRead _ _
  | .healthClear _ _ | .update _ _ | .boot _ | .coreMappedOut _ | .plainStoreArrival _ => true

end Sys2Proof
end

