-- ==== Sys2Proof/Decode.lean ====
section
/-! DEFINITION. From words to instructions and back (17_encoding.md): the decoder, total on every word, and the encoder,
both written from the formats of R283 and the opcode map of R285. -/

namespace Sys2Proof

/-- Bits [lo + n − 1 : lo] of a word. -/
def fld (w lo n : Nat) : Nat := w / 2 ^ lo % 2 ^ n

/-- A register number, or another raw number, in bits [lo + n − 1 : lo]. -/
def fin (w lo n : Nat) : Fin (2 ^ n) := ⟨w / 2 ^ lo % 2 ^ n, Nat.mod_lt _ (Nat.two_pow_pos n)⟩

/-- An immediate or displacement in bits [lo + n − 1 : lo], its sign bit not yet extended. -/
def imm (w lo n : Nat) : BitVec n := BitVec.ofNat n (w / 2 ^ lo)

/-- One bit of a word. -/
def flag (w lo : Nat) : Bool := w / 2 ^ lo % 2 = 1

/-- A bit as it stands in a word. -/
def bit (b : Bool) : Nat := if b then 1 else 0

/-- VB and SB of the V and C forms (R284): none when SB = 1 and VB[6] is set. -/
def vsrc? (w : Nat) : Option VSrc :=
  if w % 2 = 0 then some (.vec (fin w 1 7))
  else if fld w 7 1 = 0 then some (.sca (fin w 1 6)) else none

/-- OA or OB of the X form (R284): none when G = 1 and bits [5:3] are not zero. -/
def xsrc? (w lo : Nat) : Option XSrc :=
  if fld w (lo + 6) 1 = 0 then some (.sca (fin w lo 6))
  else if fld w (lo + 3) 3 = 0 then some (.gen (fin w lo 3)) else none

/-- VB and SB as they stand in bits [7:0]. -/
def VSrc.code : VSrc → Nat
  | .vec r => r.val * 2
  | .sca r => r.val * 2 + 1

/-- OA or OB as its seven bits. -/
def XSrc.code : XSrc → Nat
  | .sca r => r.val
  | .gen r => 64 + r.val

def SCond.ofCode : Nat → Option SCond
  | 0 => some .eq | 1 => some .ne | 2 => some .lt | 3 => some .le | 4 => some .gt | 5 => some .ge
  | 6 => some .ltn | 7 => some .len | 8 => some .gtn | 9 => some .gen | 10 => some .test | _ => none

def SCond.code : SCond → Nat
  | .eq => 0 | .ne => 1 | .lt => 2 | .le => 3 | .gt => 4 | .ge => 5
  | .ltn => 6 | .len => 7 | .gtn => 8 | .gen => 9 | .test => 10

def FCond.ofCode : Nat → Option FCond
  | 0 => some .eq | 1 => some .ne | 2 => some .lt | 3 => some .le | 4 => some .gt | 5 => some .ge
  | 6 => some .un | 7 => some .ord | _ => none

def FCond.code : FCond → Nat
  | .eq => 0 | .ne => 1 | .lt => 2 | .le => 3 | .gt => 4 | .ge => 5 | .un => 6 | .ord => 7

def Cmb.ofCode : Nat → Option Cmb
  | 0 => some .set | 1 => some .and | 2 => some .or | _ => none

def Cmb.code : Cmb → Nat
  | .set => 0 | .and => 1 | .or => 2

def Width.ofCode : Nat → Option Width
  | 0 => some .b8 | 1 => some .b8s | 2 => some .b16 | 3 => some .b16s | 4 => some .b32 | 5 => some .b64
  | 6 => some .b128 | _ => none

def Width.code : Width → Nat
  | .b8 => 0 | .b8s => 1 | .b16 => 2 | .b16s => 3 | .b32 => 4 | .b64 => 5 | .b128 => 6

def AOp.ofCode : Nat → Option AOp
  | 0 => some .add | 1 => some .min | 2 => some .max | 3 => some .and | 4 => some .or | 5 => some .xor
  | 6 => some .xchg | 7 => some .cas | _ => none

def AOp.code : AOp → Nat
  | .add => 0 | .min => 1 | .max => 2 | .and => 3 | .or => 4 | .xor => 5 | .xchg => 6 | .cas => 7

def ATy.ofCode : Nat → Option ATy
  | 0 => some .i32 | 1 => some .n32 | 2 => some .f32 | 3 => some .i64 | _ => none

def ATy.code : ATy → Nat
  | .i32 => 0 | .n32 => 1 | .f32 => 2 | .i64 => 3

def MKind.ofCode : Nat → Option MKind
  | 0 => some .e8 | 1 => some .e8bs | 2 => some .bf16 | 3 => some .f16 | 4 => some .i8 | 5 => some .f32x3 | _ => none

def MKind.code : MKind → Nat
  | .e8 => 0 | .e8bs => 1 | .bf16 => 2 | .f16 => 3 | .i8 => 4 | .f32x3 => 5

def FenceKind.ofCode : Nat → Option FenceKind
  | 1 => some .acq | 2 => some .rel | 3 => some .both | _ => none

def FenceKind.code : FenceKind → Nat
  | .acq => 1 | .rel => 2 | .both => 3

/-- The words of major 0x00 (R285). -/
def decodeMajor00 (w : Nat) : Option Instr :=
  if fld w 22 4 = 1 ∧ fld w 18 4 = 0 ∧ fld w 16 2 = 0 ∧ fld w 10 6 = 0 ∧ fld w 4 6 = 0 ∧ fld w 0 4 = 0 then some .nop
  else if fld w 22 4 = 2 ∧ fld w 18 4 = 0 ∧ fld w 16 2 = 0 ∧ fld w 10 6 = 0 ∧ fld w 4 6 = 0 ∧ fld w 0 4 = 0 then some .bkpt
  else if fld w 22 4 = 3 ∧ fld w 18 4 = 0 ∧ fld w 16 2 = 0 ∧ fld w 0 4 = 0 then some (.trap (imm w 4 12))
  else if fld w 22 4 = 4 ∧ fld w 18 4 = 0 ∧ fld w 16 2 = 0 ∧ fld w 10 6 = 0 ∧ fld w 4 6 = 0 ∧ fld w 0 4 = 0 then some .eret
  else if fld w 22 4 = 5 ∧ fld w 18 4 = 0 ∧ fld w 16 2 = 0 ∧ fld w 10 6 = 0 ∧ fld w 4 6 = 0 ∧ fld w 0 4 = 0 then some .yield
  else if fld w 22 4 = 6 ∧ fld w 0 4 = 0 then some (.mfsr (fin w 16 6) (imm w 4 12))
  else if fld w 22 4 = 7 ∧ fld w 0 4 = 0 then some (.mtsr (fin w 16 6) (imm w 4 12))
  else if fld w 22 4 = 8 ∧ fld w 18 4 = 0 ∧ fld w 16 2 = 0 ∧ fld w 0 4 = 0 then some (.cinv (fin w 10 6) (fin w 4 6))
  else if fld w 22 4 = 8 ∧ fld w 18 4 = 0 ∧ fld w 16 2 = 0 ∧ fld w 10 6 = 0 ∧ fld w 4 6 = 0 ∧ fld w 0 4 = 1 then some .cinvAll
  else if fld w 22 4 = 9 ∧ fld w 18 4 = 0 ∧ fld w 10 6 = 0 ∧ fld w 4 6 = 0 then (FenceKind.ofCode (fld w 16 2)).bind fun k => some (.fence k (fin w 0 4))
  else if fld w 22 4 = 10 ∧ fld w 10 6 = 0 ∧ fld w 4 6 = 0 ∧ fld w 0 4 = 0 then some (.emget (fin w 16 6))
  else if fld w 22 4 = 11 ∧ fld w 18 4 = 0 ∧ fld w 16 2 = 0 ∧ fld w 4 6 = 0 ∧ fld w 0 4 = 0 then some (.emset (fin w 10 6))
  else if fld w 22 4 = 12 ∧ fld w 18 4 = 0 ∧ fld w 16 2 = 0 ∧ fld w 10 6 = 0 ∧ fld w 4 6 = 0 ∧ fld w 0 4 = 0 then some .merge
  else if fld w 22 4 = 13 ∧ fld w 18 4 = 0 ∧ fld w 16 2 = 0 ∧ fld w 10 6 = 0 ∧ fld w 4 6 = 0 ∧ fld w 0 4 = 0 then some .leave
  else if fld w 22 4 = 14 ∧ fld w 18 4 = 0 ∧ fld w 16 2 = 0 ∧ fld w 10 6 = 0 ∧ fld w 4 6 = 0 ∧ fld w 0 4 = 0 then some .cbar
  else if fld w 22 4 = 15 ∧ fld w 18 4 = 0 ∧ fld w 16 2 = 0 ∧ fld w 10 6 = 0 ∧ fld w 4 6 = 0 ∧ fld w 0 4 = 0 then some .cbara
  else none
/-- The words of major 0x09 (R285). -/
def decodeMajor09 (w : Nat) : Option Instr :=
  if fld w 22 4 = 0 ∧ fld w 16 6 = 0 ∧ fld w 4 6 = 0 ∧ fld w 3 1 = 0 ∧ fld w 0 3 = 0 then some (.ret (fin w 10 6))
  else if fld w 22 4 = 1 ∧ fld w 16 6 = 0 ∧ fld w 4 6 = 0 ∧ fld w 3 1 = 0 ∧ fld w 0 3 = 0 then some (.bras (fin w 10 6))
  else if fld w 22 4 = 2 ∧ fld w 16 6 = 0 ∧ fld w 4 6 = 0 ∧ fld w 3 1 = 0 ∧ fld w 0 3 = 0 then some (.calls (fin w 10 6))
  else if fld w 22 4 = 3 ∧ fld w 16 6 = 0 ∧ fld w 10 6 = 0 ∧ fld w 4 6 = 0 ∧ fld w 3 1 = 0 ∧ fld w 0 3 = 0 then some .exit
  else if fld w 22 4 = 3 ∧ fld w 16 6 = 0 ∧ fld w 4 6 = 0 ∧ fld w 3 1 = 0 ∧ fld w 0 3 = 1 then some (.exitH (fin w 10 6))
  else if fld w 22 4 = 4 ∧ fld w 3 1 = 0 ∧ fld w 0 3 = 0 then some (.spawn (fin w 16 6) (fin w 10 6) (fin w 4 6))
  else if fld w 22 4 = 5 ∧ fld w 16 6 = 0 ∧ fld w 4 6 = 0 ∧ fld w 3 1 = 0 ∧ fld w 0 3 = 0 then some (.join (fin w 10 6))
  else if fld w 22 4 = 5 ∧ fld w 16 6 = 0 ∧ fld w 4 6 = 0 ∧ fld w 3 1 = 1 then some (.joinNb (fin w 10 6) (fin w 0 3))
  else if fld w 22 4 = 6 ∧ fld w 3 1 = 0 ∧ fld w 0 3 = 0 then some (.waitx (fin w 16 6) (fin w 10 6) (fin w 4 6))
  else if fld w 22 4 = 7 ∧ fld w 16 6 = 0 ∧ fld w 10 6 = 0 ∧ fld w 4 6 = 0 then some (.commit (fin w 0 4))
  else if fld w 22 4 = 8 ∧ fld w 16 6 = 0 ∧ fld w 3 1 = 0 ∧ fld w 0 3 = 0 then some (.qpush (fin w 10 6) (fin w 4 6))
  else if fld w 22 4 = 8 ∧ fld w 16 6 = 0 ∧ fld w 3 1 = 1 then some (.qpushNb (fin w 10 6) (fin w 4 6) (fin w 0 3))
  else if fld w 22 4 = 9 ∧ fld w 10 6 = 0 ∧ fld w 3 1 = 0 ∧ fld w 0 3 = 0 then some (.qpop (fin w 16 6) (fin w 4 6))
  else if fld w 22 4 = 9 ∧ fld w 10 6 = 0 ∧ fld w 3 1 = 1 then some (.qpopNb (fin w 16 6) (fin w 4 6) (fin w 0 3))
  else if fld w 22 4 = 10 ∧ fld w 16 6 = 0 ∧ fld w 10 6 = 0 ∧ fld w 3 1 = 0 ∧ fld w 0 3 = 0 then some (.vclaim (fin w 4 6))
  else if fld w 22 4 = 10 ∧ fld w 16 6 = 0 ∧ fld w 10 6 = 0 ∧ fld w 3 1 = 1 then some (.vclaimNb (fin w 4 6) (fin w 0 3))
  else if fld w 22 4 = 11 ∧ fld w 16 6 = 0 ∧ fld w 10 6 = 0 ∧ fld w 3 1 = 0 ∧ fld w 0 3 = 0 then some (.vgive (fin w 4 6))
  else none
/-- The words of major 0x02 (R285). -/
def decodeMajor02 (w : Nat) : Option Instr :=
  if fld w 22 4 = 0 ∧ fld w 18 4 = 0 then some (.bra (imm w 0 18))
  else if fld w 22 4 = 1 then some (.braIf (fin w 18 4) (imm w 0 18))
  else if fld w 22 4 = 2 then some (.braIfNot (fin w 18 4) (imm w 0 18))
  else none
/-- The words of major 0x03 (R285). -/
def decodeMajor03 (w : Nat) : Option Instr :=
  if fld w 22 4 = 0 then some (.brany (fin w 18 4) (imm w 0 18))
  else if fld w 22 4 = 1 then some (.branyNot (fin w 18 4) (imm w 0 18))
  else none
/-- The words of major 0x04 (R285). -/
def decodeMajor04 (w : Nat) : Option Instr :=
  if fld w 22 4 = 0 then some (.brall (fin w 18 4) (imm w 0 18))
  else if fld w 22 4 = 1 then some (.brallNot (fin w 18 4) (imm w 0 18))
  else none
/-- The words of major 0x05 (R285). -/
def decodeMajor05 (w : Nat) : Option Instr :=
  if fld w 18 8 = 0 then some (.call (imm w 0 18))
  else none
/-- The words of major 0x06 (R285). -/
def decodeMajor06 (w : Nat) : Option Instr :=
  if fld w 22 4 = 0 then some (.split (fin w 18 4) (imm w 0 18))
  else if fld w 22 4 = 1 then some (.splitNot (fin w 18 4) (imm w 0 18))
  else none
/-- The words of major 0x07 (R285). -/
def decodeMajor07 (w : Nat) : Option Instr :=
  if fld w 18 8 = 0 then some (.flip (imm w 0 18))
  else none
/-- The words of major 0x08 (R285). -/
def decodeMajor08 (w : Nat) : Option Instr :=
  some (.brx (fin w 19 7) (imm w 0 19))
/-- The words of major 0x01 (R285). -/
def decodeMajor01 (w : Nat) : Option Instr :=
  if fld w 24 2 = 0 then some (.pfxImm (imm w 0 24))
  else if fld w 24 2 = 1 ∧ fld w 10 1 = 0 ∧ fld w 8 2 = 0 ∧ fld w 0 8 = 0 then some (.pfxOp (fin w 17 7) (flag w 16) (flag w 15) (fin w 11 4))
  else if fld w 24 2 = 2 ∧ fld w 0 8 = 0 then some (.pfxMod (fin w 21 3) (fin w 17 4) (fin w 15 2) (fin w 13 2) (fin w 10 3) (fin w 8 2))
  else none
/-- The words of major 0x0A (R285). -/
def decodeMajor0A (w : Nat) : Option Instr :=
  if fld w 22 4 = 0 ∧ fld w 1 3 = 0 ∧ fld w 0 1 = 0 then some (.sadd (fin w 16 6) (fin w 10 6) (fin w 4 6))
  else if fld w 22 4 = 1 ∧ fld w 1 3 = 0 ∧ fld w 0 1 = 0 then some (.ssub (fin w 16 6) (fin w 10 6) (fin w 4 6))
  else if fld w 22 4 = 2 ∧ fld w 1 3 = 0 ∧ fld w 0 1 = 0 then some (.smul (fin w 16 6) (fin w 10 6) (fin w 4 6))
  else if fld w 22 4 = 3 ∧ fld w 1 3 = 0 then some (.smulh (fin w 16 6) (fin w 10 6) (fin w 4 6) (flag w 0))
  else if fld w 22 4 = 4 ∧ fld w 1 3 = 0 then some (.sdiv (fin w 16 6) (fin w 10 6) (fin w 4 6) (flag w 0))
  else if fld w 22 4 = 5 ∧ fld w 1 3 = 0 then some (.srem (fin w 16 6) (fin w 10 6) (fin w 4 6) (flag w 0))
  else if fld w 22 4 = 6 ∧ fld w 1 3 = 0 ∧ fld w 0 1 = 0 then some (.sand (fin w 16 6) (fin w 10 6) (fin w 4 6))
  else if fld w 22 4 = 7 ∧ fld w 1 3 = 0 ∧ fld w 0 1 = 0 then some (.sor (fin w 16 6) (fin w 10 6) (fin w 4 6))
  else if fld w 22 4 = 8 ∧ fld w 1 3 = 0 ∧ fld w 0 1 = 0 then some (.sxor (fin w 16 6) (fin w 10 6) (fin w 4 6))
  else if fld w 22 4 = 9 ∧ fld w 1 3 = 0 ∧ fld w 0 1 = 0 then some (.sshl (fin w 16 6) (fin w 10 6) (fin w 4 6))
  else if fld w 22 4 = 10 ∧ fld w 1 3 = 0 ∧ fld w 0 1 = 0 then some (.sshr (fin w 16 6) (fin w 10 6) (fin w 4 6))
  else if fld w 22 4 = 11 ∧ fld w 1 3 = 0 ∧ fld w 0 1 = 0 then some (.ssra (fin w 16 6) (fin w 10 6) (fin w 4 6))
  else if fld w 22 4 = 12 ∧ fld w 1 3 = 0 then some (.smin (fin w 16 6) (fin w 10 6) (fin w 4 6) (flag w 0))
  else if fld w 22 4 = 13 ∧ fld w 1 3 = 0 then some (.smax (fin w 16 6) (fin w 10 6) (fin w 4 6) (flag w 0))
  else if fld w 22 4 = 14 then some (.ssel (fin w 16 6) (fin w 10 6) (fin w 4 6) (fin w 0 4))
  else none
/-- The words of major 0x0B (R285). -/
def decodeMajor0B (w : Nat) : Option Instr :=
  if fld w 24 2 = 0 then some (.saddImm (fin w 18 6) (fin w 12 6) (imm w 0 12))
  else if fld w 24 2 = 1 then some (.sandImm (fin w 18 6) (fin w 12 6) (imm w 0 12))
  else if fld w 24 2 = 2 then some (.sorImm (fin w 18 6) (fin w 12 6) (imm w 0 12))
  else if fld w 24 2 = 3 then some (.sxorImm (fin w 18 6) (fin w 12 6) (imm w 0 12))
  else none
/-- The words of major 0x0C (R285). -/
def decodeMajor0C (w : Nat) : Option Instr :=
  if fld w 24 2 = 0 ∧ fld w 6 6 = 0 then some (.sshlImm (fin w 18 6) (fin w 12 6) (fin w 0 6))
  else if fld w 24 2 = 1 ∧ fld w 6 6 = 0 then some (.sshrImm (fin w 18 6) (fin w 12 6) (fin w 0 6))
  else if fld w 24 2 = 2 ∧ fld w 6 6 = 0 then some (.ssraImm (fin w 18 6) (fin w 12 6) (fin w 0 6))
  else if fld w 24 2 = 3 ∧ fld w 12 6 = 0 then some (.smov (fin w 18 6) (imm w 0 12))
  else none
/-- The words of major 0x0D (R285). -/
def decodeMajor0D (w : Nat) : Option Instr :=
  if fld w 0 6 = 0 then (SCond.ofCode (fld w 22 4)).bind fun c => some (.scmp c (fin w 18 4) (fin w 12 6) (fin w 6 6))
  else if fld w 0 6 = 32 then (SCond.ofCode (fld w 22 4)).bind fun c => some (.scmpImm c (fin w 18 4) (fin w 12 6) (imm w 6 6))
  else none
/-- The words of major 0x0E (R285). -/
def decodeMajor0E (w : Nat) : Option Instr :=
  if fld w 24 2 = 0 then some (.sld (fin w 18 6) (fin w 12 6) (imm w 0 12))
  else if fld w 24 2 = 1 then some (.sst (fin w 18 6) (fin w 12 6) (imm w 0 12))
  else if fld w 24 2 = 2 then some (.sldL (fin w 18 6) (fin w 12 6) (imm w 0 12))
  else if fld w 24 2 = 3 then some (.sstL (fin w 18 6) (fin w 12 6) (imm w 0 12))
  else none
/-- The words of major 0x0F (R285). -/
def decodeMajor0F (w : Nat) : Option Instr :=
  if fld w 0 7 = 0 then some (.movs (fin w 19 7) (fin w 13 6) (fin w 7 6))
  else none
/-- The words of major 0x10 (R285). -/
def decodeMajor10 (w : Nat) : Option Instr :=
  if fld w 22 4 = 0 then (vsrc? w).bind fun b => some (.vadd (fin w 15 7) (fin w 8 7) b)
  else if fld w 22 4 = 1 then (vsrc? w).bind fun b => some (.vsub (fin w 15 7) (fin w 8 7) b)
  else if fld w 22 4 = 2 then (vsrc? w).bind fun b => some (.vmul (fin w 15 7) (fin w 8 7) b)
  else if fld w 22 4 = 3 then (vsrc? w).bind fun b => some (.vmulhI32 (fin w 15 7) (fin w 8 7) b)
  else if fld w 22 4 = 4 then (vsrc? w).bind fun b => some (.vmulhN32 (fin w 15 7) (fin w 8 7) b)
  else if fld w 22 4 = 5 then (vsrc? w).bind fun b => some (.vmad (fin w 15 7) (fin w 8 7) b)
  else if fld w 22 4 = 6 then (vsrc? w).bind fun b => some (.vand (fin w 15 7) (fin w 8 7) b)
  else if fld w 22 4 = 7 then (vsrc? w).bind fun b => some (.vor (fin w 15 7) (fin w 8 7) b)
  else if fld w 22 4 = 8 then (vsrc? w).bind fun b => some (.vxor (fin w 15 7) (fin w 8 7) b)
  else if fld w 22 4 = 9 then (vsrc? w).bind fun b => some (.vshl (fin w 15 7) (fin w 8 7) b)
  else if fld w 22 4 = 10 then (vsrc? w).bind fun b => some (.vshr (fin w 15 7) (fin w 8 7) b)
  else if fld w 22 4 = 11 then (vsrc? w).bind fun b => some (.vsra (fin w 15 7) (fin w 8 7) b)
  else if fld w 22 4 = 12 then (vsrc? w).bind fun b => some (.vminI32 (fin w 15 7) (fin w 8 7) b)
  else if fld w 22 4 = 13 then (vsrc? w).bind fun b => some (.vminN32 (fin w 15 7) (fin w 8 7) b)
  else if fld w 22 4 = 14 then (vsrc? w).bind fun b => some (.vmaxI32 (fin w 15 7) (fin w 8 7) b)
  else if fld w 22 4 = 15 then (vsrc? w).bind fun b => some (.vmaxN32 (fin w 15 7) (fin w 8 7) b)
  else none
/-- The words of major 0x11 (R285). -/
def decodeMajor11 (w : Nat) : Option Instr :=
  if fld w 23 3 = 0 then some (.vaddImm (fin w 16 7) (fin w 9 7) (imm w 0 9))
  else if fld w 23 3 = 1 then some (.vandImm (fin w 16 7) (fin w 9 7) (imm w 0 9))
  else if fld w 23 3 = 2 then some (.vorImm (fin w 16 7) (fin w 9 7) (imm w 0 9))
  else if fld w 23 3 = 3 then some (.vxorImm (fin w 16 7) (fin w 9 7) (imm w 0 9))
  else if fld w 23 3 = 4 ∧ fld w 5 4 = 0 then some (.vshlImm (fin w 16 7) (fin w 9 7) (fin w 0 5))
  else if fld w 23 3 = 5 ∧ fld w 5 4 = 0 then some (.vshrImm (fin w 16 7) (fin w 9 7) (fin w 0 5))
  else if fld w 23 3 = 6 ∧ fld w 5 4 = 0 then some (.vsraImm (fin w 16 7) (fin w 9 7) (fin w 0 5))
  else if fld w 23 3 = 7 ∧ fld w 9 7 = 0 then some (.vmovImm (fin w 16 7) (imm w 0 9))
  else none
/-- The words of major 0x12 (R285). -/
def decodeMajor12 (w : Nat) : Option Instr :=
  if fld w 22 4 = 0 ∧ fld w 7 1 = 0 ∧ fld w 1 6 = 0 ∧ fld w 0 1 = 0 then some (.vmov (fin w 15 7) (fin w 8 7))
  else if fld w 22 4 = 0 ∧ fld w 8 7 = 0 ∧ fld w 7 1 = 0 ∧ fld w 0 1 = 1 then some (.vmovS (fin w 15 7) (fin w 1 6))
  else if fld w 22 4 = 1 ∧ fld w 7 1 = 0 ∧ fld w 1 6 = 0 ∧ fld w 0 1 = 0 then some (.vnot (fin w 15 7) (fin w 8 7))
  else if fld w 22 4 = 2 ∧ fld w 7 1 = 0 ∧ fld w 1 6 = 0 ∧ fld w 0 1 = 0 then some (.vabs (fin w 15 7) (fin w 8 7))
  else if fld w 22 4 = 3 ∧ fld w 7 1 = 0 ∧ fld w 1 6 = 0 ∧ fld w 0 1 = 0 then some (.vclz (fin w 15 7) (fin w 8 7))
  else if fld w 22 4 = 4 ∧ fld w 7 1 = 0 ∧ fld w 1 6 = 0 ∧ fld w 0 1 = 0 then some (.vpopc (fin w 15 7) (fin w 8 7))
  else if fld w 22 4 = 5 then (vsrc? w).bind fun b => some (.vbfxI32 (fin w 15 7) (fin w 8 7) b)
  else if fld w 22 4 = 6 then (vsrc? w).bind fun b => some (.vbfxN32 (fin w 15 7) (fin w 8 7) b)
  else if fld w 22 4 = 7 then (vsrc? w).bind fun b => some (.vbfi (fin w 15 7) (fin w 8 7) b)
  else if fld w 22 4 = 8 ∧ fld w 8 7 = 0 ∧ fld w 7 1 = 0 ∧ fld w 1 6 = 0 ∧ fld w 0 1 = 0 then some (.vlane (fin w 15 7))
  else none
/-- The words of major 0x13 (R285). -/
def decodeMajor13 (w : Nat) : Option Instr :=
  if fld w 22 4 = 0 then (vsrc? w).bind fun b => some (.vdivI32 (fin w 15 7) (fin w 8 7) b)
  else if fld w 22 4 = 1 then (vsrc? w).bind fun b => some (.vdivN32 (fin w 15 7) (fin w 8 7) b)
  else if fld w 22 4 = 2 then (vsrc? w).bind fun b => some (.vremI32 (fin w 15 7) (fin w 8 7) b)
  else if fld w 22 4 = 3 then (vsrc? w).bind fun b => some (.vremN32 (fin w 15 7) (fin w 8 7) b)
  else none
/-- The words of major 0x14 (R285). -/
def decodeMajor14 (w : Nat) : Option Instr :=
  (SCond.ofCode (fld w 22 4)).bind fun c => (Cmb.ofCode (fld w 15 3)).bind fun m => (vsrc? w).bind fun b => some (.vcmp c (fin w 18 4) m (fin w 8 7) b)
/-- The words of major 0x15 (R285). -/
def decodeMajor15 (w : Nat) : Option Instr :=
  (vsrc? w).bind fun b => some (.vsel (fin w 22 4) (fin w 15 7) (fin w 8 7) b)
/-- The words of major 0x16 (R285). -/
def decodeMajor16 (w : Nat) : Option Instr :=
  if fld w 22 4 = 0 then (vsrc? w).bind fun b => some (.shflIdx (fin w 15 7) (fin w 8 7) b)
  else if fld w 22 4 = 1 then (vsrc? w).bind fun b => some (.shflUp (fin w 15 7) (fin w 8 7) b)
  else if fld w 22 4 = 2 then (vsrc? w).bind fun b => some (.shflDown (fin w 15 7) (fin w 8 7) b)
  else if fld w 22 4 = 3 then (vsrc? w).bind fun b => some (.shflXor (fin w 15 7) (fin w 8 7) b)
  else none
/-- The words of major 0x17 (R285). -/
def decodeMajor17 (w : Nat) : Option Instr :=
  if fld w 22 4 = 0 ∧ fld w 21 1 = 0 ∧ fld w 19 2 = 0 ∧ fld w 14 1 = 0 ∧ fld w 12 2 = 0 ∧ fld w 0 8 = 0 then some (.voteAny (fin w 15 4) (fin w 8 4))
  else if fld w 22 4 = 1 ∧ fld w 21 1 = 0 ∧ fld w 19 2 = 0 ∧ fld w 14 1 = 0 ∧ fld w 12 2 = 0 ∧ fld w 0 8 = 0 then some (.voteAll (fin w 15 4) (fin w 8 4))
  else if fld w 22 4 = 2 ∧ fld w 21 1 = 0 ∧ fld w 14 1 = 0 ∧ fld w 12 2 = 0 ∧ fld w 0 8 = 0 then some (.voteBallot (fin w 15 6) (fin w 8 4))
  else if fld w 22 4 = 3 ∧ fld w 21 1 = 0 ∧ fld w 0 8 = 0 then some (.lredAddI32 (fin w 15 6) (fin w 8 7))
  else if fld w 22 4 = 4 ∧ fld w 21 1 = 0 ∧ fld w 0 8 = 0 then some (.lredMinI32 (fin w 15 6) (fin w 8 7))
  else if fld w 22 4 = 5 ∧ fld w 21 1 = 0 ∧ fld w 0 8 = 0 then some (.lredMaxI32 (fin w 15 6) (fin w 8 7))
  else if fld w 22 4 = 6 ∧ fld w 21 1 = 0 ∧ fld w 0 8 = 0 then some (.lredAddF32 (fin w 15 6) (fin w 8 7))
  else if fld w 22 4 = 7 ∧ fld w 21 1 = 0 ∧ fld w 0 8 = 0 then some (.lredMinF32 (fin w 15 6) (fin w 8 7))
  else if fld w 22 4 = 8 ∧ fld w 21 1 = 0 ∧ fld w 0 8 = 0 then some (.lredMaxF32 (fin w 15 6) (fin w 8 7))
  else if fld w 22 4 = 9 ∧ fld w 0 8 = 0 then some (.lscanAddI32 (fin w 15 7) (fin w 8 7))
  else if fld w 22 4 = 10 ∧ fld w 0 8 = 0 then some (.lscanAddF32 (fin w 15 7) (fin w 8 7))
  else if fld w 22 4 = 11 ∧ fld w 21 1 = 0 ∧ fld w 0 8 = 0 then some (.lredAnd (fin w 15 6) (fin w 8 7))
  else if fld w 22 4 = 12 ∧ fld w 21 1 = 0 ∧ fld w 0 8 = 0 then some (.lredOr (fin w 15 6) (fin w 8 7))
  else if fld w 22 4 = 13 ∧ fld w 21 1 = 0 ∧ fld w 19 2 = 0 ∧ fld w 14 1 = 0 ∧ fld w 0 8 = 0 then some (.pset (fin w 15 4) (fin w 8 6))
  else none
/-- The words of major 0x18 (R285). -/
def decodeMajor18 (w : Nat) : Option Instr :=
  if fld w 0 10 = 0 then some (.plog (imm w 22 4) (fin w 18 4) (fin w 14 4) (fin w 10 4))
  else none
/-- The words of major 0x19 (R285). -/
def decodeMajor19 (w : Nat) : Option Instr :=
  if fld w 22 4 = 0 then (vsrc? w).bind fun b => some (.faddF32 (fin w 15 7) (fin w 8 7) b)
  else if fld w 22 4 = 1 then (vsrc? w).bind fun b => some (.fsubF32 (fin w 15 7) (fin w 8 7) b)
  else if fld w 22 4 = 2 then (vsrc? w).bind fun b => some (.fmulF32 (fin w 15 7) (fin w 8 7) b)
  else if fld w 22 4 = 3 then (vsrc? w).bind fun b => some (.fmaF32 (fin w 15 7) (fin w 8 7) b)
  else if fld w 22 4 = 4 then (vsrc? w).bind fun b => some (.fmin (fin w 15 7) (fin w 8 7) b)
  else if fld w 22 4 = 5 then (vsrc? w).bind fun b => some (.fmax (fin w 15 7) (fin w 8 7) b)
  else if fld w 22 4 = 6 then (vsrc? w).bind fun b => some (.faddBf16x2 (fin w 15 7) (fin w 8 7) b)
  else if fld w 22 4 = 7 then (vsrc? w).bind fun b => some (.fmulBf16x2 (fin w 15 7) (fin w 8 7) b)
  else if fld w 22 4 = 8 then (vsrc? w).bind fun b => some (.fmaBf16x2 (fin w 15 7) (fin w 8 7) b)
  else if fld w 22 4 = 9 then (vsrc? w).bind fun b => some (.faddF16x2 (fin w 15 7) (fin w 8 7) b)
  else if fld w 22 4 = 10 then (vsrc? w).bind fun b => some (.fmulF16x2 (fin w 15 7) (fin w 8 7) b)
  else if fld w 22 4 = 11 then (vsrc? w).bind fun b => some (.fmaF16x2 (fin w 15 7) (fin w 8 7) b)
  else none
/-- The words of major 0x1A (R285). -/
def decodeMajor1A (w : Nat) : Option Instr :=
  (FCond.ofCode (fld w 22 4)).bind fun c => (Cmb.ofCode (fld w 15 3)).bind fun m => (vsrc? w).bind fun b => some (.fcmp c (fin w 18 4) m (fin w 8 7) b)
/-- The words of major 0x1B (R285). -/
def decodeMajor1B (w : Nat) : Option Instr :=
  if fld w 22 4 = 0 ∧ fld w 1 7 = 0 ∧ fld w 0 1 = 0 then some (.fcvtF32I32 (fin w 15 7) (fin w 8 7))
  else if fld w 22 4 = 1 ∧ fld w 1 7 = 0 ∧ fld w 0 1 = 0 then some (.fcvtF32N32 (fin w 15 7) (fin w 8 7))
  else if fld w 22 4 = 2 ∧ fld w 1 7 = 0 ∧ fld w 0 1 = 0 then some (.fcvtI32F32 (fin w 15 7) (fin w 8 7))
  else if fld w 22 4 = 3 ∧ fld w 1 7 = 0 ∧ fld w 0 1 = 0 then some (.fcvtN32F32 (fin w 15 7) (fin w 8 7))
  else if fld w 22 4 = 4 ∧ fld w 1 7 = 0 ∧ fld w 0 1 = 0 then some (.fcvtF32Bf16 (fin w 15 7) (fin w 8 7))
  else if fld w 22 4 = 5 ∧ fld w 1 7 = 0 ∧ fld w 0 1 = 0 then some (.fcvtBf16F32 (fin w 15 7) (fin w 8 7))
  else if fld w 22 4 = 6 ∧ fld w 1 7 = 0 ∧ fld w 0 1 = 0 then some (.fcvtF32F16 (fin w 15 7) (fin w 8 7))
  else if fld w 22 4 = 7 ∧ fld w 1 7 = 0 ∧ fld w 0 1 = 0 then some (.fcvtF16F32 (fin w 15 7) (fin w 8 7))
  else if fld w 22 4 = 8 then some (.fcvtF32E8 (fin w 15 7) (fin w 8 7) (fin w 1 7) (flag w 0))
  else if fld w 22 4 = 9 ∧ fld w 0 1 = 0 then some (.fcvtE8F32 (fin w 15 7) (fin w 8 7) (fin w 1 7))
  else if fld w 22 4 = 10 ∧ fld w 1 7 = 0 ∧ fld w 0 1 = 0 then some (.frnd (fin w 15 7) (fin w 8 7))
  else if fld w 22 4 = 11 ∧ fld w 1 7 = 0 ∧ fld w 0 1 = 0 then some (.fclass (fin w 15 7) (fin w 8 7))
  else if fld w 22 4 = 12 ∧ fld w 0 1 = 0 then some (.fcvtFx64F32 (fin w 15 7) (fin w 8 7) (imm w 1 7))
  else if fld w 22 4 = 13 then (vsrc? w).bind fun b => some (.fcvtF32Bf16x2 (fin w 15 7) (fin w 8 7) b)
  else none
/-- The words of major 0x1C (R285). -/
def decodeMajor1C (w : Nat) : Option Instr :=
  if fld w 22 4 = 0 ∧ fld w 0 8 = 0 then some (.xrcp (fin w 15 7) (fin w 8 7))
  else if fld w 22 4 = 1 ∧ fld w 0 8 = 0 then some (.xrsq (fin w 15 7) (fin w 8 7))
  else if fld w 22 4 = 2 ∧ fld w 0 8 = 0 then some (.xsqrt (fin w 15 7) (fin w 8 7))
  else if fld w 22 4 = 3 ∧ fld w 0 8 = 0 then some (.xexp (fin w 15 7) (fin w 8 7))
  else if fld w 22 4 = 4 ∧ fld w 0 8 = 0 then some (.xlog (fin w 15 7) (fin w 8 7))
  else if fld w 22 4 = 5 ∧ fld w 0 8 = 0 then some (.xsin (fin w 15 7) (fin w 8 7))
  else if fld w 22 4 = 6 ∧ fld w 0 8 = 0 then some (.xcos (fin w 15 7) (fin w 8 7))
  else if fld w 22 4 = 7 ∧ fld w 0 8 = 0 then some (.xtanh (fin w 15 7) (fin w 8 7))
  else none
/-- The words of major 0x1D (R285). -/
def decodeMajor1D (w : Nat) : Option Instr :=
  if fld w 23 3 = 7 ∧ fld w 22 1 = 0 ∧ fld w 21 1 = 0 ∧ fld w 14 7 = 0 then some (.ldgTouch (fin w 8 6) (fin w 1 7) (flag w 0))
  else if fld w 22 1 = 0 then (Width.ofCode (fld w 23 3)).bind fun wd => some (.ldg wd (flag w 21) (fin w 14 7) (fin w 8 6) (fin w 1 7) (flag w 0))
  else if fld w 22 1 = 1 ∧ fld w 21 1 = 0 then (Width.ofCode (fld w 23 3)).bind fun wd => some (.ldgAcq wd (fin w 14 7) (fin w 8 6) (fin w 1 7) (flag w 0))
  else none
/-- The words of major 0x1E (R285). -/
def decodeMajor1E (w : Nat) : Option Instr :=
  if fld w 22 1 = 0 then (Width.ofCode (fld w 23 3)).bind fun wd => some (.stg wd (flag w 21) (fin w 14 7) (fin w 8 6) (fin w 1 7) (flag w 0))
  else if fld w 22 1 = 1 ∧ fld w 21 1 = 0 then (Width.ofCode (fld w 23 3)).bind fun wd => some (.stgRel wd (fin w 14 7) (fin w 8 6) (fin w 1 7) (flag w 0))
  else none
/-- The words of major 0x1F (R285). -/
def decodeMajor1F (w : Nat) : Option Instr :=
  if fld w 23 3 = 7 ∧ fld w 21 2 = 0 ∧ fld w 14 7 = 0 then some (.ldlTouch (fin w 8 6) (fin w 1 7) (flag w 0))
  else if fld w 21 2 = 0 then (Width.ofCode (fld w 23 3)).bind fun wd => some (.ldl wd (fin w 14 7) (fin w 8 6) (fin w 1 7) (flag w 0))
  else if fld w 21 2 = 1 then (Width.ofCode (fld w 23 3)).bind fun wd => some (.ldlFe wd (fin w 14 7) (fin w 8 6) (fin w 1 7) (flag w 0))
  else if fld w 21 2 = 2 then (Width.ofCode (fld w 23 3)).bind fun wd => some (.ldlFec wd (fin w 14 7) (fin w 8 6) (fin w 1 7) (flag w 0))
  else if fld w 23 3 = 4 ∧ fld w 21 2 = 3 then some (.ldlFb (fin w 14 7) (fin w 8 6) (fin w 1 7) (flag w 0))
  else none
/-- The words of major 0x20 (R285). -/
def decodeMajor20 (w : Nat) : Option Instr :=
  if fld w 21 2 = 0 then (Width.ofCode (fld w 23 3)).bind fun wd => some (.stl wd (fin w 14 7) (fin w 8 6) (fin w 1 7) (flag w 0))
  else if fld w 21 2 = 1 then (Width.ofCode (fld w 23 3)).bind fun wd => some (.stlFull wd (fin w 14 7) (fin w 8 6) (fin w 1 7) (flag w 0))
  else if fld w 21 2 = 2 then (Width.ofCode (fld w 23 3)).bind fun wd => some (.stlFw wd (fin w 14 7) (fin w 8 6) (fin w 1 7) (flag w 0))
  else if fld w 23 3 = 4 ∧ fld w 21 2 = 3 then some (.stlFb (fin w 14 7) (fin w 8 6) (fin w 1 7) (flag w 0))
  else none
/-- The words of major 0x21 (R285). -/
def decodeMajor21 (w : Nat) : Option Instr :=
  (AOp.ofCode (fld w 22 4)).bind fun op => (ATy.ofCode (fld w 0 2)).bind fun ty => some (.atom op (fin w 15 7) (fin w 9 6) (fin w 2 7) ty)
/-- The words of major 0x22 (R285). -/
def decodeMajor22 (w : Nat) : Option Instr :=
  (AOp.ofCode (fld w 22 4)).bind fun op => (ATy.ofCode (fld w 0 2)).bind fun ty => some (.red op (fin w 15 7) (fin w 9 6) (fin w 2 7) ty)
/-- The words of major 0x23 (R285). -/
def decodeMajor23 (w : Nat) : Option Instr :=
  (AOp.ofCode (fld w 22 4)).bind fun op => (ATy.ofCode (fld w 0 2)).bind fun ty => some (.latom op (fin w 15 7) (fin w 9 6) (fin w 2 7) ty)
/-- The words of major 0x24 (R285). -/
def decodeMajor24 (w : Nat) : Option Instr :=
  (MKind.ofCode (fld w 22 3)).bind fun k => (xsrc? w 11).bind fun a => (xsrc? w 4).bind fun b => some (.mma (flag w 25) k (fin w 18 4) a b (fin w 0 4))
/-- The words of major 0x25 (R285). -/
def decodeMajor25 (w : Nat) : Option Instr :=
  (MKind.ofCode (fld w 22 3)).bind fun k => (xsrc? w 11).bind fun a => (xsrc? w 4).bind fun b => some (.mmas (flag w 25) k (fin w 18 4) a b (fin w 0 4))
/-- The words of major 0x26 (R285). -/
def decodeMajor26 (w : Nat) : Option Instr :=
  if fld w 22 4 = 0 ∧ fld w 12 6 = 0 ∧ fld w 6 6 = 0 ∧ fld w 5 1 = 0 ∧ fld w 4 1 = 0 ∧ fld w 3 1 = 0 ∧ fld w 0 3 = 0 then some (.mzero (fin w 18 4))
  else if fld w 22 4 = 1 ∧ fld w 0 3 = 0 then some (.mdrain (fin w 18 4) (fin w 12 6) (fin w 6 6) (flag w 5) (flag w 4) (flag w 3))
  else if fld w 22 4 = 2 ∧ fld w 6 6 = 0 ∧ fld w 5 1 = 0 ∧ fld w 4 1 = 0 ∧ fld w 3 1 = 0 ∧ fld w 0 3 = 0 then some (.msta (fin w 18 4) (fin w 12 6))
  else if fld w 22 4 = 3 ∧ fld w 6 6 = 0 ∧ fld w 5 1 = 0 ∧ fld w 4 1 = 0 ∧ fld w 3 1 = 0 ∧ fld w 0 3 = 0 then some (.mlda (fin w 18 4) (fin w 12 6))
  else none
/-- The words of major 0x27 (R285). -/
def decodeMajor27 (w : Nat) : Option Instr :=
  if fld w 21 5 = 0 ∧ fld w 0 12 = 0 then some (.gset (fin w 18 3) (fin w 12 6))
  else if fld w 21 5 = 2 ∧ fld w 0 12 = 0 then some (.gget (fin w 18 3) (fin w 12 6))
  else if fld w 21 5 = 4 ∧ fld w 0 12 = 0 then some (.gseed (fin w 18 3) (fin w 12 6))
  else none
/-- The words of major 0x28 (R285). -/
def decodeMajor28 (w : Nat) : Option Instr :=
  if fld w 0 1 = 0 then some (.geval (fin w 23 3) (fin w 16 7) (fin w 9 7) (fin w 2 7) (flag w 1))
  else none
/-- The words of major 0x29 (R285). -/
def decodeMajor29 (w : Nat) : Option Instr :=
  if fld w 22 4 = 0 ∧ fld w 6 6 = 0 ∧ fld w 0 6 = 0 then some (.wset (fin w 18 4) (fin w 12 6))
  else if fld w 22 4 = 0 ∧ fld w 6 6 = 0 ∧ fld w 0 6 = 1 then some (.wsetG (fin w 18 4) (fin w 12 6))
  else if fld w 22 4 = 1 ∧ fld w 12 6 = 0 ∧ fld w 6 6 = 0 ∧ fld w 0 6 = 0 then some (.wdrop (fin w 18 4))
  else if fld w 22 4 = 2 ∧ fld w 12 6 = 0 ∧ fld w 0 6 = 0 then some (.wstat (fin w 18 4) (fin w 6 6))
  else if fld w 22 4 = 3 ∧ fld w 12 6 = 0 ∧ fld w 0 6 = 0 then some (.wmark (fin w 18 4) (fin w 6 6))
  else if fld w 22 4 = 4 ∧ fld w 12 6 = 0 ∧ fld w 6 6 = 0 ∧ fld w 0 6 = 0 then some (.wwait (fin w 18 4))
  else if fld w 22 4 = 4 ∧ fld w 6 6 = 0 ∧ fld w 0 6 = 1 then some (.wwaitMark (fin w 18 4) (fin w 12 6))
  else if fld w 22 4 = 5 ∧ fld w 18 4 = 0 ∧ fld w 0 6 = 0 then some (.txinit (fin w 12 6) (fin w 6 6))
  else if fld w 22 4 = 6 ∧ fld w 18 4 = 0 ∧ fld w 6 6 = 0 ∧ fld w 0 6 = 0 then some (.txarrive (fin w 12 6))
  else if fld w 22 4 = 7 ∧ fld w 18 4 = 0 ∧ fld w 0 6 = 0 then some (.txexpect (fin w 12 6) (fin w 6 6))
  else if fld w 22 4 = 8 ∧ fld w 18 4 = 0 ∧ fld w 0 6 = 0 then some (.txwait (fin w 12 6) (fin w 6 6))
  else none
/-- The instruction that a word spells, its fields in range, or none. -/
def decodeRaw (w : Nat) : Option Instr :=
  match w / 2 ^ 26 with
  | 0 => decodeMajor00 w
  | 9 => decodeMajor09 w
  | 2 => decodeMajor02 w
  | 3 => decodeMajor03 w
  | 4 => decodeMajor04 w
  | 5 => decodeMajor05 w
  | 6 => decodeMajor06 w
  | 7 => decodeMajor07 w
  | 8 => decodeMajor08 w
  | 1 => decodeMajor01 w
  | 10 => decodeMajor0A w
  | 11 => decodeMajor0B w
  | 12 => decodeMajor0C w
  | 13 => decodeMajor0D w
  | 14 => decodeMajor0E w
  | 15 => decodeMajor0F w
  | 16 => decodeMajor10 w
  | 17 => decodeMajor11 w
  | 18 => decodeMajor12 w
  | 19 => decodeMajor13 w
  | 20 => decodeMajor14 w
  | 21 => decodeMajor15 w
  | 22 => decodeMajor16 w
  | 23 => decodeMajor17 w
  | 24 => decodeMajor18 w
  | 25 => decodeMajor19 w
  | 26 => decodeMajor1A w
  | 27 => decodeMajor1B w
  | 28 => decodeMajor1C w
  | 29 => decodeMajor1D w
  | 30 => decodeMajor1E w
  | 31 => decodeMajor1F w
  | 32 => decodeMajor20 w
  | 33 => decodeMajor21 w
  | 34 => decodeMajor22 w
  | 35 => decodeMajor23 w
  | 36 => decodeMajor24 w
  | 37 => decodeMajor25 w
  | 38 => decodeMajor26 w
  | 39 => decodeMajor27 w
  | 40 => decodeMajor28 w
  | 41 => decodeMajor29 w
  | _ => none

/-- The instruction of a word: none for a word that R294 calls no instruction and for one that is not well-formed. -/
def decode (w : Word32) : Option Instr := (decodeRaw w.toNat).filter Instr.wf

/-- The word of an instruction as a number; none for an event. -/
def Instr.code : Instr → Option Nat
  | .nop => some 0x00400000
  | .bkpt => some 0x00800000
  | .trap c => some (0x00C00000 + c.toNat * 16)
  | .eret => some 0x01000000
  | .yield => some 0x01400000
  | .mfsr d n => some (0x01800000 + d.val * 65536 + n.toNat * 16)
  | .mtsr a n => some (0x01C00000 + a.val * 65536 + n.toNat * 16)
  | .cinv a b => some (0x02000000 + a.val * 1024 + b.val * 16)
  | .cinvAll => some 0x02000001
  | .fence k sc => some (0x02400000 + k.code * 65536 + sc.val)
  | .emget d => some (0x02800000 + d.val * 65536)
  | .emset a => some (0x02C00000 + a.val * 1024)
  | .merge => some 0x03000000
  | .leave => some 0x03400000
  | .cbar => some 0x03800000
  | .cbara => some 0x03C00000
  | .ret a => some (0x24000000 + a.val * 1024)
  | .bras a => some (0x24400000 + a.val * 1024)
  | .calls a => some (0x24800000 + a.val * 1024)
  | .exit => some 0x24C00000
  | .exitH a => some (0x24C00001 + a.val * 1024)
  | .spawn d a b => some (0x25000000 + d.val * 65536 + a.val * 1024 + b.val * 16)
  | .join a => some (0x25400000 + a.val * 1024)
  | .joinNb a p => some (0x25400008 + a.val * 1024 + p.val)
  | .waitx d a b => some (0x25800000 + d.val * 65536 + a.val * 1024 + b.val * 16)
  | .commit sc => some (0x25C00000 + sc.val)
  | .qpush a q => some (0x26000000 + a.val * 1024 + q.val * 16)
  | .qpushNb a q p => some (0x26000008 + a.val * 1024 + q.val * 16 + p.val)
  | .qpop d q => some (0x26400000 + d.val * 65536 + q.val * 16)
  | .qpopNb d q p => some (0x26400008 + d.val * 65536 + q.val * 16 + p.val)
  | .vclaim n => some (0x26800000 + n.val * 16)
  | .vclaimNb n p => some (0x26800008 + n.val * 16 + p.val)
  | .vgive n => some (0x26C00000 + n.val * 16)
  | .bra disp => some (0x08000000 + disp.toNat)
  | .braIf p disp => some (0x08400000 + p.val * 262144 + disp.toNat)
  | .braIfNot p disp => some (0x08800000 + p.val * 262144 + disp.toNat)
  | .brany p disp => some (0x0C000000 + p.val * 262144 + disp.toNat)
  | .branyNot p disp => some (0x0C400000 + p.val * 262144 + disp.toNat)
  | .brall p disp => some (0x10000000 + p.val * 262144 + disp.toNat)
  | .brallNot p disp => some (0x10400000 + p.val * 262144 + disp.toNat)
  | .call disp => some (0x14000000 + disp.toNat)
  | .split p disp => some (0x18000000 + p.val * 262144 + disp.toNat)
  | .splitNot p disp => some (0x18400000 + p.val * 262144 + disp.toNat)
  | .flip disp => some (0x1C000000 + disp.toNat)
  | .brx a disp => some (0x20000000 + a.val * 524288 + disp.toNat)
  | .pfxImm p => some (0x04000000 + p.toNat)
  | .pfxOp vc valid neg g => some (0x05000000 + vc.val * 131072 + bit valid * 65536 + bit neg * 32768 + g.val * 2048)
  | .pfxMod rnd sc pol sat neg abs => some (0x06000000 + rnd.val * 2097152 + sc.val * 131072 + pol.val * 32768 + sat.val * 8192 + neg.val * 1024 + abs.val * 256)
  | .sadd d a b => some (0x28000000 + d.val * 65536 + a.val * 1024 + b.val * 16)
  | .ssub d a b => some (0x28400000 + d.val * 65536 + a.val * 1024 + b.val * 16)
  | .smul d a b => some (0x28800000 + d.val * 65536 + a.val * 1024 + b.val * 16)
  | .smulh d a b u => some (0x28C00000 + d.val * 65536 + a.val * 1024 + b.val * 16 + bit u)
  | .sdiv d a b u => some (0x29000000 + d.val * 65536 + a.val * 1024 + b.val * 16 + bit u)
  | .srem d a b u => some (0x29400000 + d.val * 65536 + a.val * 1024 + b.val * 16 + bit u)
  | .sand d a b => some (0x29800000 + d.val * 65536 + a.val * 1024 + b.val * 16)
  | .sor d a b => some (0x29C00000 + d.val * 65536 + a.val * 1024 + b.val * 16)
  | .sxor d a b => some (0x2A000000 + d.val * 65536 + a.val * 1024 + b.val * 16)
  | .sshl d a b => some (0x2A400000 + d.val * 65536 + a.val * 1024 + b.val * 16)
  | .sshr d a b => some (0x2A800000 + d.val * 65536 + a.val * 1024 + b.val * 16)
  | .ssra d a b => some (0x2AC00000 + d.val * 65536 + a.val * 1024 + b.val * 16)
  | .smin d a b u => some (0x2B000000 + d.val * 65536 + a.val * 1024 + b.val * 16 + bit u)
  | .smax d a b u => some (0x2B400000 + d.val * 65536 + a.val * 1024 + b.val * 16 + bit u)
  | .ssel d a b p => some (0x2B800000 + d.val * 65536 + a.val * 1024 + b.val * 16 + p.val)
  | .saddImm d a imm => some (0x2C000000 + d.val * 262144 + a.val * 4096 + imm.toNat)
  | .sandImm d a imm => some (0x2D000000 + d.val * 262144 + a.val * 4096 + imm.toNat)
  | .sorImm d a imm => some (0x2E000000 + d.val * 262144 + a.val * 4096 + imm.toNat)
  | .sxorImm d a imm => some (0x2F000000 + d.val * 262144 + a.val * 4096 + imm.toNat)
  | .sshlImm d a n => some (0x30000000 + d.val * 262144 + a.val * 4096 + n.val)
  | .sshrImm d a n => some (0x31000000 + d.val * 262144 + a.val * 4096 + n.val)
  | .ssraImm d a n => some (0x32000000 + d.val * 262144 + a.val * 4096 + n.val)
  | .smov d imm => some (0x33000000 + d.val * 262144 + imm.toNat)
  | .scmp c p a b => some (0x34000000 + c.code * 4194304 + p.val * 262144 + a.val * 4096 + b.val * 64)
  | .scmpImm c p a imm => some (0x34000020 + c.code * 4194304 + p.val * 262144 + a.val * 4096 + imm.toNat * 64)
  | .sld d a imm => some (0x38000000 + d.val * 262144 + a.val * 4096 + imm.toNat)
  | .sst d a imm => some (0x39000000 + d.val * 262144 + a.val * 4096 + imm.toNat)
  | .sldL d a imm => some (0x3A000000 + d.val * 262144 + a.val * 4096 + imm.toNat)
  | .sstL d a imm => some (0x3B000000 + d.val * 262144 + a.val * 4096 + imm.toNat)
  | .movs a d lane => some (0x3C000000 + a.val * 524288 + d.val * 8192 + lane.val * 128)
  | .vadd d a b => some (0x40000000 + d.val * 32768 + a.val * 256 + b.code)
  | .vsub d a b => some (0x40400000 + d.val * 32768 + a.val * 256 + b.code)
  | .vmul d a b => some (0x40800000 + d.val * 32768 + a.val * 256 + b.code)
  | .vmulhI32 d a b => some (0x40C00000 + d.val * 32768 + a.val * 256 + b.code)
  | .vmulhN32 d a b => some (0x41000000 + d.val * 32768 + a.val * 256 + b.code)
  | .vmad d a b => some (0x41400000 + d.val * 32768 + a.val * 256 + b.code)
  | .vand d a b => some (0x41800000 + d.val * 32768 + a.val * 256 + b.code)
  | .vor d a b => some (0x41C00000 + d.val * 32768 + a.val * 256 + b.code)
  | .vxor d a b => some (0x42000000 + d.val * 32768 + a.val * 256 + b.code)
  | .vshl d a b => some (0x42400000 + d.val * 32768 + a.val * 256 + b.code)
  | .vshr d a b => some (0x42800000 + d.val * 32768 + a.val * 256 + b.code)
  | .vsra d a b => some (0x42C00000 + d.val * 32768 + a.val * 256 + b.code)
  | .vminI32 d a b => some (0x43000000 + d.val * 32768 + a.val * 256 + b.code)
  | .vminN32 d a b => some (0x43400000 + d.val * 32768 + a.val * 256 + b.code)
  | .vmaxI32 d a b => some (0x43800000 + d.val * 32768 + a.val * 256 + b.code)
  | .vmaxN32 d a b => some (0x43C00000 + d.val * 32768 + a.val * 256 + b.code)
  | .vaddImm d a imm => some (0x44000000 + d.val * 65536 + a.val * 512 + imm.toNat)
  | .vandImm d a imm => some (0x44800000 + d.val * 65536 + a.val * 512 + imm.toNat)
  | .vorImm d a imm => some (0x45000000 + d.val * 65536 + a.val * 512 + imm.toNat)
  | .vxorImm d a imm => some (0x45800000 + d.val * 65536 + a.val * 512 + imm.toNat)
  | .vshlImm d a n => some (0x46000000 + d.val * 65536 + a.val * 512 + n.val)
  | .vshrImm d a n => some (0x46800000 + d.val * 65536 + a.val * 512 + n.val)
  | .vsraImm d a n => some (0x47000000 + d.val * 65536 + a.val * 512 + n.val)
  | .vmovImm d imm => some (0x47800000 + d.val * 65536 + imm.toNat)
  | .vmov d a => some (0x48000000 + d.val * 32768 + a.val * 256)
  | .vmovS d b => some (0x48000001 + d.val * 32768 + b.val * 2)
  | .vnot d a => some (0x48400000 + d.val * 32768 + a.val * 256)
  | .vabs d a => some (0x48800000 + d.val * 32768 + a.val * 256)
  | .vclz d a => some (0x48C00000 + d.val * 32768 + a.val * 256)
  | .vpopc d a => some (0x49000000 + d.val * 32768 + a.val * 256)
  | .vbfxI32 d a b => some (0x49400000 + d.val * 32768 + a.val * 256 + b.code)
  | .vbfxN32 d a b => some (0x49800000 + d.val * 32768 + a.val * 256 + b.code)
  | .vbfi d a b => some (0x49C00000 + d.val * 32768 + a.val * 256 + b.code)
  | .vlane d => some (0x4A000000 + d.val * 32768)
  | .vdivI32 d a b => some (0x4C000000 + d.val * 32768 + a.val * 256 + b.code)
  | .vdivN32 d a b => some (0x4C400000 + d.val * 32768 + a.val * 256 + b.code)
  | .vremI32 d a b => some (0x4C800000 + d.val * 32768 + a.val * 256 + b.code)
  | .vremN32 d a b => some (0x4CC00000 + d.val * 32768 + a.val * 256 + b.code)
  | .vcmp c p m a b => some (0x50000000 + c.code * 4194304 + p.val * 262144 + m.code * 32768 + a.val * 256 + b.code)
  | .vsel p d a b => some (0x54000000 + p.val * 4194304 + d.val * 32768 + a.val * 256 + b.code)
  | .shflIdx d a b => some (0x58000000 + d.val * 32768 + a.val * 256 + b.code)
  | .shflUp d a b => some (0x58400000 + d.val * 32768 + a.val * 256 + b.code)
  | .shflDown d a b => some (0x58800000 + d.val * 32768 + a.val * 256 + b.code)
  | .shflXor d a b => some (0x58C00000 + d.val * 32768 + a.val * 256 + b.code)
  | .voteAny d a => some (0x5C000000 + d.val * 32768 + a.val * 256)
  | .voteAll d a => some (0x5C400000 + d.val * 32768 + a.val * 256)
  | .voteBallot d a => some (0x5C800000 + d.val * 32768 + a.val * 256)
  | .lredAddI32 d a => some (0x5CC00000 + d.val * 32768 + a.val * 256)
  | .lredMinI32 d a => some (0x5D000000 + d.val * 32768 + a.val * 256)
  | .lredMaxI32 d a => some (0x5D400000 + d.val * 32768 + a.val * 256)
  | .lredAddF32 d a => some (0x5D800000 + d.val * 32768 + a.val * 256)
  | .lredMinF32 d a => some (0x5DC00000 + d.val * 32768 + a.val * 256)
  | .lredMaxF32 d a => some (0x5E000000 + d.val * 32768 + a.val * 256)
  | .lscanAddI32 d a => some (0x5E400000 + d.val * 32768 + a.val * 256)
  | .lscanAddF32 d a => some (0x5E800000 + d.val * 32768 + a.val * 256)
  | .lredAnd d a => some (0x5EC00000 + d.val * 32768 + a.val * 256)
  | .lredOr d a => some (0x5F000000 + d.val * 32768 + a.val * 256)
  | .pset d a => some (0x5F400000 + d.val * 32768 + a.val * 256)
  | .plog t d a b => some (0x60000000 + t.toNat * 4194304 + d.val * 262144 + a.val * 16384 + b.val * 1024)
  | .faddF32 d a b => some (0x64000000 + d.val * 32768 + a.val * 256 + b.code)
  | .fsubF32 d a b => some (0x64400000 + d.val * 32768 + a.val * 256 + b.code)
  | .fmulF32 d a b => some (0x64800000 + d.val * 32768 + a.val * 256 + b.code)
  | .fmaF32 d a b => some (0x64C00000 + d.val * 32768 + a.val * 256 + b.code)
  | .fmin d a b => some (0x65000000 + d.val * 32768 + a.val * 256 + b.code)
  | .fmax d a b => some (0x65400000 + d.val * 32768 + a.val * 256 + b.code)
  | .faddBf16x2 d a b => some (0x65800000 + d.val * 32768 + a.val * 256 + b.code)
  | .fmulBf16x2 d a b => some (0x65C00000 + d.val * 32768 + a.val * 256 + b.code)
  | .fmaBf16x2 d a b => some (0x66000000 + d.val * 32768 + a.val * 256 + b.code)
  | .faddF16x2 d a b => some (0x66400000 + d.val * 32768 + a.val * 256 + b.code)
  | .fmulF16x2 d a b => some (0x66800000 + d.val * 32768 + a.val * 256 + b.code)
  | .fmaF16x2 d a b => some (0x66C00000 + d.val * 32768 + a.val * 256 + b.code)
  | .fcmp c p m a b => some (0x68000000 + c.code * 4194304 + p.val * 262144 + m.code * 32768 + a.val * 256 + b.code)
  | .fcvtF32I32 d a => some (0x6C000000 + d.val * 32768 + a.val * 256)
  | .fcvtF32N32 d a => some (0x6C400000 + d.val * 32768 + a.val * 256)
  | .fcvtI32F32 d a => some (0x6C800000 + d.val * 32768 + a.val * 256)
  | .fcvtN32F32 d a => some (0x6CC00000 + d.val * 32768 + a.val * 256)
  | .fcvtF32Bf16 d a => some (0x6D000000 + d.val * 32768 + a.val * 256)
  | .fcvtBf16F32 d a => some (0x6D400000 + d.val * 32768 + a.val * 256)
  | .fcvtF32F16 d a => some (0x6D800000 + d.val * 32768 + a.val * 256)
  | .fcvtF16F32 d a => some (0x6DC00000 + d.val * 32768 + a.val * 256)
  | .fcvtF32E8 d a c o => some (0x6E000000 + d.val * 32768 + a.val * 256 + c.val * 2 + bit o)
  | .fcvtE8F32 d a c => some (0x6E400000 + d.val * 32768 + a.val * 256 + c.val * 2)
  | .frnd d a => some (0x6E800000 + d.val * 32768 + a.val * 256)
  | .fclass d a => some (0x6EC00000 + d.val * 32768 + a.val * 256)
  | .fcvtFx64F32 d a e => some (0x6F000000 + d.val * 32768 + a.val * 256 + e.toNat * 2)
  | .fcvtF32Bf16x2 d a b => some (0x6F400000 + d.val * 32768 + a.val * 256 + b.code)
  | .xrcp d a => some (0x70000000 + d.val * 32768 + a.val * 256)
  | .xrsq d a => some (0x70400000 + d.val * 32768 + a.val * 256)
  | .xsqrt d a => some (0x70800000 + d.val * 32768 + a.val * 256)
  | .xexp d a => some (0x70C00000 + d.val * 32768 + a.val * 256)
  | .xlog d a => some (0x71000000 + d.val * 32768 + a.val * 256)
  | .xsin d a => some (0x71400000 + d.val * 32768 + a.val * 256)
  | .xcos d a => some (0x71800000 + d.val * 32768 + a.val * 256)
  | .xtanh d a => some (0x71C00000 + d.val * 32768 + a.val * 256)
  | .ldg w q r b o s => some (0x74000000 + w.code * 8388608 + bit q * 2097152 + r.val * 16384 + b.val * 256 + o.val * 2 + bit s)
  | .ldgAcq w r b o s => some (0x74400000 + w.code * 8388608 + r.val * 16384 + b.val * 256 + o.val * 2 + bit s)
  | .ldgTouch b o s => some (0x77800000 + b.val * 256 + o.val * 2 + bit s)
  | .stg w q r b o s => some (0x78000000 + w.code * 8388608 + bit q * 2097152 + r.val * 16384 + b.val * 256 + o.val * 2 + bit s)
  | .stgRel w r b o s => some (0x78400000 + w.code * 8388608 + r.val * 16384 + b.val * 256 + o.val * 2 + bit s)
  | .ldl w r b o s => some (0x7C000000 + w.code * 8388608 + r.val * 16384 + b.val * 256 + o.val * 2 + bit s)
  | .ldlFe w r b o s => some (0x7C200000 + w.code * 8388608 + r.val * 16384 + b.val * 256 + o.val * 2 + bit s)
  | .ldlFec w r b o s => some (0x7C400000 + w.code * 8388608 + r.val * 16384 + b.val * 256 + o.val * 2 + bit s)
  | .ldlFb r b o s => some (0x7E600000 + r.val * 16384 + b.val * 256 + o.val * 2 + bit s)
  | .ldlTouch b o s => some (0x7F800000 + b.val * 256 + o.val * 2 + bit s)
  | .stl w r b o s => some (0x80000000 + w.code * 8388608 + r.val * 16384 + b.val * 256 + o.val * 2 + bit s)
  | .stlFull w r b o s => some (0x80200000 + w.code * 8388608 + r.val * 16384 + b.val * 256 + o.val * 2 + bit s)
  | .stlFw w r b o s => some (0x80400000 + w.code * 8388608 + r.val * 16384 + b.val * 256 + o.val * 2 + bit s)
  | .stlFb r b o s => some (0x82600000 + r.val * 16384 + b.val * 256 + o.val * 2 + bit s)
  | .atom op d b o ty => some (0x84000000 + op.code * 4194304 + d.val * 32768 + b.val * 512 + o.val * 4 + ty.code)
  | .red op d b o ty => some (0x88000000 + op.code * 4194304 + d.val * 32768 + b.val * 512 + o.val * 4 + ty.code)
  | .latom op d b o ty => some (0x8C000000 + op.code * 4194304 + d.val * 32768 + b.val * 512 + o.val * 4 + ty.code)
  | .mma t k c a b n => some (0x90000000 + bit t * 33554432 + k.code * 4194304 + c.val * 262144 + a.code * 2048 + b.code * 16 + n.val)
  | .mmas t k c a b n => some (0x94000000 + bit t * 33554432 + k.code * 4194304 + c.val * 262144 + a.code * 2048 + b.code * 16 + n.val)
  | .mzero c => some (0x98000000 + c.val * 262144)
  | .mdrain c a b t g o => some (0x98400000 + c.val * 262144 + a.val * 4096 + b.val * 64 + bit t * 32 + bit g * 16 + bit o * 8)
  | .msta c a => some (0x98800000 + c.val * 262144 + a.val * 4096)
  | .mlda c a => some (0x98C00000 + c.val * 262144 + a.val * 4096)
  | .gset g a => some (0x9C000000 + g.val * 262144 + a.val * 4096)
  | .gget g d => some (0x9C400000 + g.val * 262144 + d.val * 4096)
  | .gseed g a => some (0x9C800000 + g.val * 262144 + a.val * 4096)
  | .geval g d a b t => some (0xA0000000 + g.val * 8388608 + d.val * 65536 + a.val * 512 + b.val * 4 + bit t * 2)
  | .wset w a => some (0xA4000000 + w.val * 262144 + a.val * 4096)
  | .wsetG w a => some (0xA4000001 + w.val * 262144 + a.val * 4096)
  | .wdrop w => some (0xA4400000 + w.val * 262144)
  | .wstat w d => some (0xA4800000 + w.val * 262144 + d.val * 64)
  | .wmark w d => some (0xA4C00000 + w.val * 262144 + d.val * 64)
  | .wwait w => some (0xA5000000 + w.val * 262144)
  | .wwaitMark w a => some (0xA5000001 + w.val * 262144 + a.val * 4096)
  | .txinit a b => some (0xA5400000 + a.val * 4096 + b.val * 64)
  | .txarrive a => some (0xA5800000 + a.val * 4096)
  | .txexpect a b => some (0xA5C00000 + a.val * 4096 + b.val * 64)
  | .txwait a b => some (0xA6000000 + a.val * 4096 + b.val * 64)
  | .trapEntry _ _ _ _ | .instancePlacement _ _ _ | .poolRequest _ | .stealRequest _ | .stewardPoolRequest _
  | .setAgeing _ | .setReservation _ | .placementLimitChange _ _ _ _ | .spillRefill _ | .graphComplete _
  | .claimGrant _ | .crewPhaseComplete _ _ | .crewSlotFree _ | .queueWake _ _ | .fullEmptyWake _ | .markWaitRelease _
  | .missEntryGrant _ | .loadDataReturn _ | .sfuResult _ _ | .watchdogExpiry _ _ | .claimDeadlock _ | .watchNotice _
  | .waitxPoll _ | .engineGrant _ | .granuleLanding _ _ _ | .sourceFault _ _ _ _ _ | .windowResume _ _ _
  | .windowStrand _ _ _ | .binDrain _ | .binShip _ _ | .moduleBinIngress _ _ | .polderPark _ | .commitNotice _
  | .applyGrant _ | .apply _ | .commitAck _ _ _ | .polderOverflow _ _ | .mergeWindowEnd | .pinLine _ _
  | .pinForcedWidening _ | .atomicAccept _ | .pageWalk _ _ _ | .faultService _ | .suspendedRestore _ _ _
  | .throttleSet _ _ | .throttleLift _ _ | .batchForm _ _ | .refreshDue _ _ | .allBankRefresh _ | .scrubRow _ _ _
  | .trainOwn _ | .trainRelease _ | .readCheck _ | .writeCheck _ | .readWriteCheck _ | .checkDone _ | .laneRepair _ _
  | .bistMarch _ _ | .bistCheckerboard _ _ | .bistRetention _ _ | .bistTestDone _ | .controlRegisterWrite _ _ _ _
  | .flitReceive _ _ | .flitReplay _ _ | .pathReplay _ | .planeDown _ _ | .planeUp _ _ | .multicastRoundClose _ _
  | .multicastTimeout _ | .uePacketDrop _ | .dataMessage _ _ _ _ | .launch _ _ _ | .mapmem _ _ _ _ _ _ | .unmap _ _
  | .put _ _ | .get _ _ | .preemptSuspend _ _ | .preemptEnd _ _ | .preemptHalt _ _ | .attest _ _ | .healthRead _ _
  | .healthClear _ _ | .update _ _ | .boot _ | .coreMappedOut _ | .plainStoreArrival _ => none

/-- The word of an instruction; none for an event. -/
def encode (i : Instr) : Option Word32 := i.code.map (BitVec.ofNat 32)

/-- The host's question: the instruction that the decoder reads from a word of the opcode table. -/
def decodeTableWord (_nbits w : Nat) : Option Instr := decode (BitVec.ofNat 32 w)

end Sys2Proof
end

