-- ==== Sys2Proof/Machine/Store.lean ====
section
/-! DEFINITION. Reading and writing sparse data (SMap): one pair of operations for register files, maps of cores, groups
and windows, and one for memories of bytes, which stay in canonical form (keys strictly rising, no byte that reads the
same unlisted). -/

namespace Sys2Proof.Machine
open Sys2Proof

/-- The entry of key `k`, or none where it is not listed. -/
def find? {α : Type} : SMap α → Nat → Option α
  | [], _ => none
  | (k', v) :: t, k => if k' = k then some v else find? t k

/-- The entry of key `k`, or `d` where it is not listed. -/
def look {α : Type} (d : α) (m : SMap α) (k : Nat) : α := (find? m k).getD d

/-- `m` with the entry of key `k` set to `v`, keys kept rising. -/
def put {α : Type} : SMap α → Nat → α → SMap α
  | [], k, v => [(k, v)]
  | (k', v') :: t, k, v =>
    if k < k' then (k, v) :: (k', v') :: t
    else if k' = k then (k, v) :: t
    else (k', v') :: put t k v

/-- `m` without any entry of key `k`. -/
def del {α : Type} (m : SMap α) (k : Nat) : SMap α := m.filter (fun c => c.1 ≠ k)

/-- A memory of bytes. A byte that is not listed reads zero (DESIGN CHOICE, unsafe: assumption log, 1). -/
abbrev Mem := SMap Byte

/-- What a byte of memory that is not listed reads as. -/
def unlistedByte : Byte := 0

/-- The byte at address `a`. -/
def rdByte (m : Mem) (a : Nat) : Byte := look unlistedByte m a

/-- `m` with byte `b` at address `a`; a byte equal to what an unlisted one reads as is not listed. -/
def wrByte (m : Mem) (a : Nat) (b : Byte) : Mem :=
  if b = unlistedByte then del m a else put m a b

/-- The canonical form: addresses strictly rising and no entry equal to what an unlisted address reads as. -/
def Mem.wf (m : Mem) : Bool :=
  (m.map Prod.fst).Pairwise (· < ·) && m.all (fun c => c.2 ≠ unlistedByte)

/-- `n` bytes from address `a` upward, little-endian (R4), as a number. -/
def rdLE (m : Mem) (a : Nat) : Nat → Nat
  | 0 => 0
  | n + 1 => (rdByte m a).toNat + 256 * rdLE m (a + 1) n

/-- `m` with the low `n` bytes of `v` at address `a` upward, little-endian (R4). -/
def wrLE (m : Mem) (a : Nat) : Nat → Nat → Mem
  | 0, _ => m
  | n + 1, v => wrLE (wrByte m a (BitVec.ofNat 8 v)) (a + 1) n (v / 256)

/-- `m` with the bytes listed at their addresses, in order. -/
def wrBytes (m : Mem) : List (Nat × Byte) → Mem
  | [] => m
  | (a, b) :: t => wrBytes (wrByte m a b) t

/-- `m` with every byte of [a, a + n) unlisted, so that it reads as one nothing has written. -/
def wipe (m : Mem) (a n : Nat) : Mem := m.filter (fun c => c.1 < a ∨ a + n ≤ c.1)

/-- The low `n` bytes of `v` as cells at address `a` upward. -/
def cellsLE (a : Nat) : Nat → Nat → List (Nat × Byte)
  | 0, _ => []
  | n + 1, v => (a, BitVec.ofNat 8 v) :: cellsLE (a + 1) n (v / 256)

/-- `m` without the entries whose key `p` picks out. -/
def delWhere {α : Type} (m : SMap α) (p : Nat → Bool) : SMap α := m.filter (fun c => !p c.1)

/-- `m` with `f` applied to every value listed. -/
def mapVals {α : Type} (m : SMap α) (f : Nat → α → α) : SMap α := m.map (fun c => (c.1, f c.1 c.2))

end Sys2Proof.Machine
end

