-- ==== Sys2Proof/Machine/State.lean ====
section
/-! DEFINITION. The state of one module of the pod, as plain data: every register and every piece of state that the
chapters of spec/ give it (INVENTORY.md lists each with its rule), the reasons a step can stop, and the state after
reset. Groups are keyed core × 64 + group slot, instances core × 16 + task slot, local bytes core × 2^20 + offset, global
bytes home module × 2^52 + physical address. -/

namespace Sys2Proof.Machine
open Sys2Proof

/-- A cause of R236 with the TADDR and TINFO it leaves. -/
structure Cause where
  code : Nat
  taddr : Word64 := 0
  tinfo : Word64 := 0
deriving DecidableEq, Repr

/-- What a unit that has not completed waits for. -/
inductive Wait
  /-- A landing mark (R120 to R122); `frozen` when a covering window is FROZEN. -/
  | mark (frozen : Bool)
  /-- Full-empty bits (R107). -/
  | fullEmpty
  /-- Courses, by VCLAIM (R53). -/
  | claim
  /-- A crew slot or a crew, by JOIN (R340). -/
  | join
  /-- A crew phase, by CBAR or CBARA (R319). -/
  | crew
  /-- A queue (R56). -/
  | queue
  /-- A transaction barrier (R136). -/
  | tx
  /-- A sluice engine, by WSET (R110). -/
  | engine
  /-- The lines of a global destination, by WSET (R121). -/
  | lines
  /-- Miss-status entries (R85). -/
  | miss
  /-- The home slice: a pin, a merge window, a mark at the home, a pseudo-channel in training (R344). -/
  | home
  /-- The acceptance of every lane of an atomic (R311). -/
  | accept
  /-- SFU results (R75). -/
  | sfu
  /-- Older units of the group, or stores on their way (R161, R173, R197). -/
  | older
  /-- A change of the word of a WAITX (R94). -/
  | waitx
  /-- The acknowledgements of a COMMIT (R151). -/
  | commit
  /-- A free pool or spill entry, by SPAWN (R47). -/
  | spawn
  /-- The service of a fault under FORWARD (R246). -/
  | service
deriving DecidableEq, Repr

/-- A prefix word of a unit and its address (R289). -/
structure PfxWord where
  addr : Word64
  word : Word32
deriving DecidableEq, Repr

/-- Bytes that an access of a unit in flight names: a key and a length (R164). -/
structure Span where
  key : Nat
  len : Nat
deriving DecidableEq, Repr

/-- The fields of a window record that WSET checks and the engine reads (R114, R115). -/
structure WinRec where
  src : Nat := 0
  dst : Nat := 0
  ext : List Nat := [0, 0, 0, 0]
  sstr : List Int := [0, 0, 0, 0]
  dstr : List Nat := [0, 0, 0]
  ctl : Nat := 0
  txb : Nat := 0
  start : Nat := 0
deriving DecidableEq, Repr

/-- A unit of the run-ahead window: from the group's oldest incomplete unit on (R232). -/
structure Flight where
  /-- The address of its first word, and of its instruction. -/
  first : Word64
  pc : Word64
  instr : Instr
  pfx : List PfxWord
  done : Bool
  wait : Wait
  /-- The cycle in which it began to wait. -/
  since : Nat
  /-- K-blocks committed by a matrix instruction, or steps of another that are behind it. -/
  prog : Nat
  /-- The phase in which a CBAR has recorded its arrival (R58). -/
  arrived : Option Nat
  /-- The commit that a COMMIT waits for (R151). -/
  commit : Option Nat
  /-- The next polling interval of a WAITX without a watch entry (R96). -/
  poll : Nat
  /-- The miss-status entries it holds (R85). -/
  miss : Nat
  spans : List Span
  /-- The record that a WSET has read, once it has (R132). -/
  rcd : Option WinRec := none
  /-- The lanes of a store that have still to act, each with its value, once others have acted (R180, R256, R376). -/
  rest : List (GLane × Nat) := []
deriving DecidableEq, Repr

/-- A generator register (R201). -/
structure Gen where
  param2 : Word32 := 0
  param1 : Word32 := 0
  col0 : Word32 := 0
  row0 : Word32 := 0
  seed : Word64 := 0
  scale : Word32 := 0
  param0 : Word16 := 0
  scope : BitVec 4 := 9
  outfmt : Byte := 0
  kind : BitVec 4 := 0
deriving DecidableEq, Repr

/-- What a group slot is doing besides issuing. -/
inductive Status
  | running
  /-- A fault of the group is with the steward (R246). -/
  | service (c : Cause)
  /-- Held for a debugger (R231). -/
  | halted
  /-- Stopped by a double trap (R238). -/
  | stopped
  /-- Its instance is placed and binds the window records of its template (R44). -/
  | starting
deriving DecidableEq, Repr

/-- A lane group: its registers and what R26 to R58 and R231 to R243 give it. -/
structure Group where
  live : Bool := false
  ctx : Nat := 0
  tslot : Nat := 0
  gidx : Nat := 0
  width : Nat := 16
  pc : Word64 := 0
  v : SMap Word32 := []
  s : SMap Word64 := []
  /-- The shadow bank of s56 to s63, keyed 56 to 63 (R233). -/
  shadow : SMap Word64 := []
  p : SMap Word64 := []
  g : SMap Gen := []
  em : Word64 := 0
  blocks : Nat := 1
  gstat : Flags := {}
  mstride : Word64 := 0
  mfmt : Word64 := 0x6464
  mkres : Word64 := 0
  dsb : Word64 := 0
  dsd : Word64 := 0
  dfmt : Word64 := 0x0101
  crew : Word64 := 0
  tvec : Word64 := 0
  tcause : Word64 := 0
  tepc : Word64 := 0
  taddr : Word64 := 0
  tinfo : Word64 := 0
  susp : Bool := false
  det : Bool := false
  pol : Bool := false
  priv : Bool := false
  wdlim : Word64 := 0x80000000
  tskip : Word64 := 0
  pfx : List PfxWord := []
  flight : List Flight := []
  /-- For the units that follow an ERET, in order: whether the unit has completed already (R235). -/
  skip : List Bool := []
  status : Status := .running
  /-- The reason of a pre-emption that waits for this group's ERET, or for its fault service (R235, R238). -/
  preempt : Option Nat := none
  lastIssue : Nat := 0
  yielded : Option Nat := none
  rstack : List Word64 := []
  /-- Global lines of plain stores since the last release at cluster scope or wider: those not marked, those that a
  release has marked, and, of these, lines at their homes that are still to be pinned (R175). -/
  dirty : List Nat := []
  old : List Nat := []
  marked : List Nat := []
  /-- The set of which an EXIT in progress has reserved a count (R325). -/
  reserved : Option Nat := none
  /-- A CBAR that a trap has cancelled after its arrival was recorded: its first word and its phase (R58). -/
  heldCbar : Option (Word64 × Nat) := none
  /-- Stores that a trap has cancelled after some of their lanes had acted: the first word, and the lanes that are left. -/
  heldStores : List (Word64 × List (GLane × Nat)) := []
  /-- The TEPC with which that trap was entered, and whether the unit there had completed already: its words could not be read. -/
  heldAt : Word64 := 0
  heldDone : Bool := false
  /-- The COMMIT.core of the service's own save routine (R153). -/
  svcCommit : Option Nat := none
deriving DecidableEq, Repr

/-- The states of R111. -/
inductive WState | empty | armed | landing | frozen | stranded | landed
deriving DecidableEq, Repr

/-- A window of an instance (R110 to R113). -/
structure Window where
  state : WState := .empty
  raddr : Word64 := 0
  rg : Bool := false
  mark : Nat := 0
  total : Nat := 0
  rcd : WinRec := {}
  /-- The freeze point and the cause that set it (R128). -/
  freeze : Option (Nat × Cause) := none
  /-- The cause that stranded it (R236). -/
  strand : Nat := 0
  /-- Its place in the order of bindings of its core (R125): the cycle in which its binding completed, the issue cycle and
  the group slot of its WSET, and the number of the binding. -/
  bound : Nat := 0
  issued : Nat := 0
  slot : Nat := 0
  order : Nat := 0
  /-- The global lines held for it (R121). -/
  lines : List Nat := []
deriving DecidableEq, Repr

/-- A window that covers a byte: its instance and number, and the byte's offset in its destination (R120). -/
structure Cover where
  inst : Nat
  win : Nat
  w : Window
  off : Nat
deriving DecidableEq, Repr

/-- A task instance in a task slot of a core (R44). -/
structure Inst where
  live : Bool := false
  /-- A number no other instance has, by which queues name their owner (R365). -/
  serial : Nat := 0
  ctx : Nat := 0
  set : Nat := 0
  taskix : Nat := 0
  groups : Nat := 0
  width : Nat := 16
  acc : Nat := 0
  spad : Nat := 0
  lmbase : Nat := 0
  argp : Word64 := 0
  /-- The courses it holds (R99). -/
  held : Nat := 0
  /-- The groups that have exited, and those of them that exited as suspended (R240). -/
  exited : List Nat := []
  suspended : List Nat := []
  tiles : SMap Word32 := []
  wins : SMap Window := []
  /-- The cycle of its last pre-emption, which names those that are suspended with it (R240). -/
  pre : Option Nat := none
  /-- Records of the template that are still to be bound, and the first cause that a record met (R44). -/
  tobind : List Nat := []
  bindCause : Option Cause := none
deriving DecidableEq, Repr

/-- A crew (R37 to R39): its tag, the cycle in which it was made, the open phase (counted without bound), its members,
the groups that were members when the open phase began, and the arrivals, as (group, phase), in phases not yet complete. -/
structure Crew where
  tag : Nat
  born : Nat
  phase : Nat
  members : List Nat
  party : List Nat
  arrived : List (Nat × Nat)
  /-- The last cycle in which a phase completed, and the phase that was open before (R320). -/
  closed : Option (Nat × Nat) := none
deriving DecidableEq, Repr

/-- A waiting claim: group and blocks (R387). -/
structure Claim where
  grp : Nat
  n : Nat
deriving DecidableEq, Repr

/-- A deferred record (R143). `graphs` is the model's own: the graphs whose groups appended it, which R155 and R158 ask for. -/
structure Rec where
  value : Word64
  header : Word64
  graphs : List Nat := []
deriving DecidableEq, Repr

/-- An entry of a core's log as its binning unit will meet it (R144, R145): a record with the module that owns its
word, or the marker of a commit. -/
inductive LogItem
  | rcd (home : Nat) (r : Rec) (graph : Nat)
  | marker (stream commit : Nat)
deriving DecidableEq, Repr

/-- An entry of the SFU queue: the results of one instruction and its flags (R75). -/
structure SfuEntry where
  grp : Nat
  unit : Word64
  dst : Nat
  res : List (Nat × Word32)
  flags : Flags
  at_ : Nat
deriving DecidableEq, Repr

/-- A plain store on its way from its core to its home (R168, R174). -/
structure StoreEntry where
  key : Nat
  bytes : List Byte
  grp : Nat
  marked : Bool
  /-- (PA >> 7) mod 18, from which a request to a remote home takes its plane (R266). -/
  first : Nat := 0
  /-- Its lane's address, and the cycle in which its instruction entered core order (R121, R376). -/
  va : Nat := 0
  entered : Nat := 0
deriving DecidableEq, Repr

/-- A TLB entry: one page of a context (R244). -/
structure TlbEntry where
  ctx : Nat
  va : Nat
  size : Nat
  leaf : Word64
deriving DecidableEq, Repr

/-- An entry of the watch table (R95); `leaving` once its WAITX has returned or been cancelled, until the home slice has
acknowledged its deregistration. -/
structure WatchEntry where
  grp : Nat
  line : Nat
  leaving : Bool := false
deriving DecidableEq, Repr

/-- What one core holds besides its groups and instances. -/
structure Core where
  mappedOut : Bool := false
  /-- The placement limit: courses, task slots, group slots (R12). -/
  limCourses : Nat := 2048
  limTslots : Nat := 16
  limGslots : Nat := 64
  used : Nat := 0
  crews : SMap Crew := []
  qcfg : SMap Word64 := []
  qowner : SMap Nat := []
  claims : List Claim := []
  log : List LogItem := []
  /-- Streams by number: generation, commit whose marker is not complete, graphs of the current generation (R145, R152). -/
  gen : SMap Bool := []
  streamBusy : SMap Nat := []
  streamGraphs : SMap (List Nat) := []
  streamOverflow : SMap Bool := []
  /-- The same of the generation whose marker is not complete (R152, R153). -/
  prevGraphs : SMap (List Nat) := []
  prevOverflow : SMap Bool := []
  sfu : List SfuEntry := []
  l1 : SMap (BitVec 128) := []
  stores : List StoreEntry := []
  ibuf : SMap Word32 := []
  tlb : List TlbEntry := []
  /-- Miss-status entries in use, those freed since for the oldest rejected instruction, instructions rejected for want
  of them, oldest first, and the group to which a grant has given the entries it needs: each as (group, entries) (R85). -/
  missUsed : Nat := 0
  missKept : Nat := 0
  rejected : List (Nat × Nat) := []
  granted : List (Nat × Nat) := []
  watch : List WatchEntry := []
  /-- WSETs waiting for an engine, oldest first (R110). -/
  engineQueue : List Nat := []
  /-- The engine that landed a granule last, as task slot × 16 + window (R126). -/
  served : Nat := 0
  watchdog : SMap Nat := []
  deadlock : Nat := 0
  throttle : Nat := 0
  /-- The instance that its pool has answered and that is not yet placed: set and index (R77). -/
  answer : Option (Nat × Nat) := none
deriving DecidableEq, Repr

/-- A store held in the merge window in which it arrived (R174); `seq` is the sequence number under which another module's
is acknowledged once it is applied (R178, R179), `first` the plane that the line of a remote home names (R266), and `entered` the
cycle in which the instruction of one of this module entered core order. -/
structure HeldStore where
  module : Nat
  core : Nat
  key : Nat
  bytes : List Byte
  grp : Nat
  marked : Bool
  window : Nat
  seq : Option Nat := none
  first : Nat := 0
  entered : Option Nat := none
deriving DecidableEq, Repr

/-- A pinned line (R175, R176): the holder core, of another module where `module` names one. -/
structure Pin where
  core : Nat
  scope : Nat
  groups : List Nat
  module : Option Nat := none
deriving DecidableEq, Repr

/-- Who makes a request that a pin may refuse (R175): a unit of a group, a group's fetch, a core's store buffer, the engine
of a window, the service, a core of another module. -/
inductive Req
  | unit (k : Nat) (first : Word64)
  | fetch (k : Nat)
  | store (core : Nat)
  | engine (ik n : Nat)
  | service
  | far (module core : Nat)
deriving DecidableEq, Repr

/-- A refused request for a line, and the cycle since which it has been refused (R176). -/
structure PinWait where
  line : Nat
  req : Req
  since : Nat
deriving DecidableEq, Repr

/-- A request of another module that has been applied here (R179): its module, core and sequence number, and its answer, which
a replay of it gets again. -/
structure FarDone where
  module : Nat
  core : Nat
  seq : Nat
  reply : List Byte
deriving DecidableEq, Repr

/-- A request of another module at its home here (R179): a store, with its group where a release has marked it, one lane of an
atomic, or a load of `n` bytes. -/
inductive FarAsk
  | store (r : FarReq) (bytes : List Byte) (marked : Option Nat)
  | atom (r : FarReq) (op : AOp) (ty : ATy) (n64 : Bool) (data new since : Nat)
  | load (r : FarReq) (n : Nat)
deriving DecidableEq, Repr

/-- A word that its home slice, or the banks of a core, hold for an atomic (R311): its key and size, the issue cycle of the
instruction, its group and its unit. -/
structure AtomHold where
  key : Nat
  len : Nat
  since : Nat
  grp : Nat
  unit : Word64
deriving DecidableEq, Repr

/-- The pages of a context that are homed on another module, by virtual range (R178). -/
structure HomeRange where
  ctx : Nat
  va : Nat
  len : Nat
  home : Nat
deriving DecidableEq, Repr

/-- The origin summary of a bin (R149): OMOD, the sending unit with its ingress flag, OMASK and GMASK. -/
structure Summary where
  omod : Nat
  unit : Nat
  ingress : Bool
  omask : Word64
  gmask : Word64
deriving DecidableEq, Repr

/-- A packet between a bin and its polder, with its origin summary (R146). -/
structure Packet where
  from_ : Summary
  chan : Nat
  recs : List Rec
  byCommit : Bool
deriving DecidableEq, Repr

/-- A binning unit's bins: channel below 256, else 256 + module; latest record last (R18). -/
structure BinUnit where
  bins : SMap (List Rec) := []
  staging : List Rec := []
deriving DecidableEq, Repr

/-- A parked bin and its descriptor (R149). -/
structure Slot where
  seq : Nat
  from_ : Summary
  live : Nat
  recs : List Rec
deriving DecidableEq, Repr

/-- A channel: polder, notices, grant, batch and the channel's part of the health record (R148, R250 to R252, R275). -/
structure Chan where
  polder : Nat := 4
  slots : List Slot := []
  nextSeq : Nat := 0
  /-- Polder slots that BIST holds (R261). -/
  parked : Nat := 0
  notices : List Notice := []
  grant : Bool := false
  lastGrant : Option Nat := none
  fullSince : Option Nat := none
  /-- The rows that the requests of the current batch name, and the activations that serving them makes (R251, R253). -/
  batch : List RowAct := []
  opens : List RowAct := []
  /-- The rows that stand open, by pseudo-channel × 64 + bank (R251), and the controller's frame: its grants to P2 to P5, and of
  these those to P3 and to P4 that went ahead (R87). -/
  openRows : SMap Nat := []
  frame : Nat × Nat × Nat := (0, 0, 0)
  /-- Records of the oldest notice that the apply engine has read into its SRAM and not yet applied (R154). -/
  loaded : Nat := 0
  /-- The applies for the oldest notice have met an uncorrectable destination (R155). -/
  applyLost : Bool := false
  corr : Nat := 0
  uncorr : Nat := 0
  lastBad : Nat := 0
  fxasat : Nat := 0
  events : Nat := 0
  parity : Nat := 0
  lostN : Nat := 0
  lost0 : Nat := 0
  lost1 : Nat := 0
  lastPar : Nat := 0
deriving DecidableEq, Repr

/-- A commit in progress (R151): the origins it covers as (core × 8 + stream) × 2 + generation, the streams whose
markers it has still to place, and whose acknowledgements are outstanding. -/
structure Commit where
  grp : Nat
  scope : Nat
  todo : List Nat
  origins : List Nat
  /-- Markers that a binning unit has not yet met. -/
  pending : List Nat
  noticed : Bool
  chans : List Nat
  mods : List Nat
  /-- A record that it covers was aimed at an uncorrectable codeword (R155). -/
  lost : Bool
  /-- The generations that its markers close, as origins, and those of which a record was lost here: each with whether the
  apply engine found its destination uncorrectable, else it was lost on its way (R155, R239). -/
  marks : List Nat := []
  losses : List (Nat × Bool) := []
  /-- Modules that no plane reached, whose bins it leaves held (R153). -/
  skip : List Nat := []
deriving DecidableEq, Repr

/-- A record that has been sent to another module and is not known to be applied there, and the commits whose notices cover it
(R151, R157). -/
structure Abroad where
  module : Nat
  rcd : Rec
  commits : List Nat := []
deriving DecidableEq, Repr

/-- Another module's commit whose notice has come (R151): whether the channels have their notices, those that have still to
apply, and whether a record that it covers was lost. -/
structure FarCommit where
  notice : Notice
  sent : Bool
  chans : List Nat
  lost : Bool
deriving DecidableEq, Repr

/-- A module bin on its way (R19): its unit, its module, the plane that it took, its tag, its bytes, the cycle in which it was
sent last, and whether its path has failed since. -/
structure BinOut where
  unit : Nat
  module : Nat
  plane : Nat
  tag : Nat
  bytes : List Byte
  since : Nat
  failed : Bool
deriving DecidableEq, Repr

/-- A check in progress on a pseudo-channel (R259): operation and the cycle of its end. -/
structure Check where
  op : Nat
  ends : Nat
deriving DecidableEq, Repr

/-- A pseudo-channel's wrapper block and what its base die keeps for it (R253 to R263). -/
structure PChan where
  own : Bool := false
  /-- The operation last written to TRCMD. -/
  trcmd : Nat := 0
  trres : Word64 := 0
  lrep : Word64 := 0
  rcth : Word64 := 2048
  scrub : Word64 := 24
  bistctl : Word64 := 0
  bistres : Word64 := 0x0400FFFF00000000
  rdly : SMap Byte := []
  wdly : SMap Byte := []
  check : Option Check := none
  owed : SMap Nat := []
  /-- Row counters; those of a bank that has been tested since count on from a free value (R254). -/
  rows : SMap Nat := []
  tested : SMap Nat := []
  spares : SMap Nat := []
  retired : List Nat := []
  /-- The row that is being copied while a bank is parked or restored (R261). -/
  copyRow : Nat := 0
  /-- Scrub (R263): rows that were due at the cycle of the last write of SCRUB, that cycle, rows read, those of the pass under
  way, as a mask of bits bank × 2^14 + row, and whether it is catching up. -/
  scrubBase : Nat := 0
  scrubAt : Nat := 0
  scrubbed : Nat := 0
  scrubPass : Nat := 0
  catching : Bool := false
deriving DecidableEq, Repr

/-- A task set (R41 to R47, R76 to R81). -/
structure TaskSet where
  graph : Nat
  ctx : Nat
  entry : Word64
  part : Word32
  flags : Word32
  count : Nat
  winp : Word64
  argp : Word64
  counter : Nat
  reserved : Nat
  /-- Whether a hand-off has counted toward it, and the cores that made one (R326). -/
  handoffs : List Nat
  parent : Option Nat
  pool : Nat
  spilled : Bool
  level : Nat
  ready : Option Nat
  since : Nat
  /-- The cycle of its creation and the creator's group key (R77). -/
  born : Nat
  creator : Nat
  /-- The lowest index that has not left the pool, and indexes that have come back to it (R76). -/
  next : Nat
  back : List Nat
  ended : Nat
deriving DecidableEq, Repr

/-- A suspended instance (R240): set, index, the groups that exited as suspended, the core and the pre-emption by which it was
suspended; and, where the service's own handler saved it (DESIGN CHOICE, unsafe: assumption log, 15), its groups by index, the
instance, its local memory and full granules from its start, and the QCFG of its queues (R242). -/
structure SuspInst where
  set : Nat
  taskix : Nat
  suspended : List Nat
  images : SMap Group
  saved : Inst
  lm : List (Nat × Byte)
  full : List Nat
  core : Nat := 0
  pre : Option Nat := none
  queues : List (Nat × Word64) := []
deriving DecidableEq, Repr

/-- A graph (R46): its context, its launch, whether it has ended, and the device-scope commit with which the service
completes it. -/
structure Graph where
  ctx : Nat
  seq : Nat
  done : Bool
  commit : Option Nat
deriving DecidableEq, Repr

/-- A lazy range of a context (R272): virtual start, length, page size, first physical address, leaf bits, and the space
for tables that the service keeps for it. -/
structure Lazy where
  va : Nat
  len : Nat
  size : Nat
  pa : Nat
  attr : Word64
  free : Nat
deriving DecidableEq, Repr

/-- A context (R244, R272). -/
structure Ctx where
  endpoint : Nat
  root : Nat
  /-- Steward and POL, which its first launch fixes (R272). -/
  mode : Option (Bool × Bool)
  lazies : List Lazy
  ended : Bool
deriving DecidableEq, Repr

/-- A launch record (R276) and what the service keeps with it. -/
structure Launch where
  seq : Nat
  graph : Nat
  ctx : Nat
  seed : Word64
  cbase : Word64
  mode : Nat
  events : Nat
  start : Option Nat
  ending : Option Nat
  digest : List Byte
  outs : List (Nat × Nat)
  tvec : Word64
  conn : Nat
  tag : Nat
  /-- The cause for which the service ends the graph, if it does (R273). -/
  cause : Option Nat
deriving DecidableEq, Repr

/-- An open ROD connection (R268): the requests that wait until the one before them is done (R269). -/
structure Conn where
  queue : List Instr := []
  /-- Data that has come for a transfer whose request waits there: transfer, offset, byte (R271). -/
  early : List (Nat × Nat × Byte) := []
deriving DecidableEq, Repr

/-- The rights of R274. -/
structure Rights where
  operate : Bool := false
  steward : Bool := false
  maintain : Bool := false
deriving DecidableEq, Repr

/-- A bulk transfer under way (R271): the request, its target, the bytes that have come, and those of a PUT whose place cannot be
found yet (R258). -/
structure Xfer where
  opc : Nat
  hdr : ReqHdr
  ctx : Nat
  va : Nat
  len : Nat
  got : List (Nat × Byte)
  late : List (Nat × Byte) := []
deriving DecidableEq, Repr

/-- Bulk data that the service has sent by RUD: a message, which a data header of 16 bytes begins (R271). -/
structure Bulk where
  conn : Nat
  msg : List Byte
deriving DecidableEq, Repr

/-- A message that the service has sent (R271). -/
structure Reply where
  conn : Nat
  opc : Nat
  flags : Nat
  tag : Nat
  ctx : Nat
  status : Nat
  cause : Nat
  body : List Byte
deriving DecidableEq, Repr

/-- A round of a word of a multicast-reduce page (R180): the word's key and set, the contributions as (module, value), the
cycle of the first, and the launch of this module's own, if it has made one. -/
structure Round where
  key : Nat
  mset : Nat
  parts : List (Nat × Word32)
  start : Nat
  launch : Option Nat
deriving DecidableEq, Repr

/-- A Freilo port (R264, R265): lane steps lost, sequence numbers, the flits kept for replay, of these the failures in a row by
sequence number; virtual channels without credit, and the flits that wait for it, each as VC, destination and payload. -/
structure Port where
  step : Nat := 0
  txSeq : Nat := 0
  rxSeq : Nat := 0
  kept : List (Nat × List Byte) := []
  failed : SMap Nat := []
  crcfail : Nat := 0
  replay : Nat := 0
  retrain : Nat := 0
  noCredit : List Nat := []
  waiting : List (Nat × Nat × List Byte) := []
deriving DecidableEq, Repr

/-- Pages that a MAPMEM has mapped or reserved in a context: their interleave, their home, their range and first frame (R249). -/
structure Mapped where
  ctx : Nat
  dil : Bool
  home : Nat
  range : Lazy
deriving DecidableEq, Repr

/-- A request to a remote home that is not yet acknowledged (R179). -/
structure RemoteReq where
  core : Nat
  tag : Nat
  key : Nat
  bytes : List Byte
  plane : Nat
  grp : Nat
  marked : Bool
  /-- The cycle in which it was sent last. -/
  since : Nat
  /-- The path that it took has failed since (R179). -/
  failed : Bool := false
  /-- Its home has applied it. -/
  applied : Bool := false
  /-- As in `StoreEntry`; and the cause with which its home has refused it, until its group takes that (R121, R376). -/
  first : Nat := 0
  va : Nat := 0
  cause : Option Cause := none
deriving DecidableEq, Repr

/-- What the next step is (DESIGN CHOICE, safe: assumption log, 2): the issue turn of a group, or an event of another agent. -/
inductive What
  | issue (g : Nat)
  | event (i : Instr)
deriving DecidableEq, Repr

/-- A turn: cycles that pass before it, what it is, and the stores of the module, by the numbers of R236, in which an SRAM code
corrects a single-bit error meanwhile (R23; DESIGN CHOICE, safe: assumption log, 8). -/
structure Turn where
  dt : Nat
  what : What
  fixed : List Nat := []
deriving DecidableEq, Repr

/-- The module. -/
structure State where
  groups : SMap Group
  insts : SMap Inst
  cores : SMap Core
  /-- Local memory and full granules of every core, and its B-store. -/
  lm : Mem
  full : SMap Bool
  bstore : Mem
  /-- Device memory of the pod. -/
  mem : Mem
  homes : List HomeRange
  /-- Uncorrectable codewords of device memory, as key / 64, and words of local memory and the B-store, as key / 8 (R23). -/
  bad : List Nat
  sramBad : List Nat
  /-- Single-bit errors that SRAM codes have corrected, by store: 0 the pool, 1 the B-store, 2 L1, 3 L2, 5 logs, bins, the ingress
  staging and the sort SRAM (R23). No register and no reply shows these counts. -/
  sramFixed : SMap Nat
  held : List HeldStore
  pins : SMap Pin
  /-- Requests refused at pins, oldest first (R175, R176). -/
  refusals : List PinWait
  /-- Words that home slices hold for atomics (R311). -/
  aholds : List AtomHold
  /-- The service's writes that have not reached their homes, oldest first (R122, R270). -/
  svcStores : List HeldStore
  /-- Requests of other modules that have been applied here (R179), and those that wait at their homes, oldest first (R174, R175,
  R181). -/
  farSeen : List FarDone
  farQueue : List FarAsk
  forced : SMap Nat
  units : SMap BinUnit
  transit : List Packet
  /-- Records sent to other modules, and bins of them that are not acknowledged (R19, R151). -/
  abroad : List Abroad
  binsOut : List BinOut
  /-- Module bins that have been accepted here (R19), and commits of other modules in progress (R151). -/
  farBins : List FarBin
  farCommits : List FarCommit
  /-- Origins of records lost that no COMMIT in progress covers, as in `Commit.losses` (R155, R239). -/
  lostOrigins : List (Nat × Bool)
  chans : SMap Chan
  commits : SMap Commit
  nextCommit : Nat
  noticesOut : List Notice
  acks : List (Nat × Nat × Bool)
  pchans : SMap PChan
  sets : SMap TaskSet
  nextSet : Nat
  spill : List Nat
  spillMax : Nat
  /-- Reservation of each pool, set and core (R79), and the place in the rotation of each pool that it served last (R77). -/
  resv : SMap (Nat × Nat)
  rot : SMap Nat
  suspd : SMap SuspInst
  graphs : SMap Graph
  nextGraph : Nat
  ctxs : SMap Ctx
  nextCtx : Nat
  /-- Pages that the service has given out, by which it keeps one DRAM byte to one interleave (R249). -/
  mapped : List Mapped
  ring : SMap Launch
  /-- Where the service keeps the launch records in device memory, from boot on (R276). -/
  ringBase : Option Nat
  nextSeq : Nat
  nextSerial : Nat
  nextWin : Nat
  access : SMap Rights
  conns : SMap Conn
  xfers : SMap Xfer
  replies : List Reply
  bulk : List Bulk
  dropped : Nat
  msets : SMap (List Nat)
  rounds : SMap Round
  nextRound : Nat
  ports : SMap Port
  /-- Planes that are down, as module × 18 + plane. -/
  down : List Nat
  remote : List RemoteReq
  nextTag : Nat
  ueDrop0 : Nat
  ueDrop1 : Nat
  throttles : Nat
  replace : Nat
  flash : List Byte
  /-- An image that is being written to flash, with the transfer that it came by (R278). -/
  writing : Option (Nat × List Byte)
  /-- Images that have come whole since and are to be written after it (R269). -/
  toWrite : List (Nat × List Byte)
  image : List Byte
  booted : Bool
  device : Nat
  cycle : Nat
  agenda : List Turn
  cur : Nat
  free : Nat
deriving DecidableEq, Repr

/-- Why a step stops. -/
inductive Fault
  /-- The next turn of the agenda names an instruction, which only a group's issue turn runs; raised by `step`. Safe: no
  machine does this, the agenda is the model's own (DESIGN CHOICE, safe: assumption log, 2). -/
  | agendaNamesInstruction
deriving DecidableEq, Repr

/-- Why the model gives an instruction no meaning. -/
inductive Refusal
  /-- The instruction has no meaning yet; raised by `exec`. Safe. -/
  | notModelled (mnemonic : String)
deriving DecidableEq, Repr

/-- The module right after reset (R27, R295, R277): nothing is placed, no context exists, no memory is written. A compute
core's limits are in the default of `Core`; a steward core's are in the map here, and the service's resident program holds back
nothing of them yet (R12; DESIGN CHOICE, unsafe: assumption log, 30). Registers and other parts without a reset value in the
spec are zero (DESIGN CHOICE, unsafe: assumption log, 4). -/
def State.reset : State :=
  let steward : Core := { limCourses := 768, limTslots := 4, limGslots := 16 }
  { groups := [], insts := [], cores := [(256, steward), (257, steward), (258, steward), (259, steward)],
    lm := [], full := [], bstore := [], mem := [], homes := [], bad := [], sramBad := [], sramFixed := [], held := [], pins := [], refusals := [],
    aholds := [], svcStores := [], farSeen := [], farQueue := [], forced := [],
    units := [], transit := [], abroad := [], binsOut := [], farBins := [], farCommits := [], lostOrigins := [],
    chans := [], commits := [], nextCommit := 1, noticesOut := [], acks := [],
    pchans := [], sets := [], nextSet := 1, spill := [], spillMax := 65536, resv := [], rot := [], suspd := [], graphs := [],
    nextGraph := 1, ctxs := [], nextCtx := 1, mapped := [], ring := [],
    ringBase := none, nextSeq := 1, nextSerial := 1, nextWin := 1, access := [],
    conns := [], xfers := [], replies := [], bulk := [], dropped := 0, msets := [], rounds := [], nextRound := 1, ports := [],
    down := [], remote := [], nextTag := 1, ueDrop0 := 0, ueDrop1 := 0, throttles := 0, replace := 0,
    flash := [], writing := none, toWrite := [], image := [], booted := false, device := 0, cycle := 0, agenda := [], cur := 0, free := 0 }

end Sys2Proof.Machine
end

