-- ==== Sys2Proof/Machine/Ops.lean ====
section
/-! DEFINITION. The named operations over the state: parts by key, registers, active lanes, what entering a trap and returning
from one do to a group (R231 to R238), and how a unit issues, waits and completes (R232, R289). -/

namespace Sys2Proof.Machine
open Sys2Proof

/-! ## Parts of the state -/

def State.grp (s : State) (k : Nat) : Group := look {} s.groups k
def State.setGrp (s : State) (k : Nat) (g : Group) : State := { s with groups := Machine.put s.groups k g }
def State.inst (s : State) (k : Nat) : Inst := look {} s.insts k
def State.setInst (s : State) (k : Nat) (i : Inst) : State := { s with insts := Machine.put s.insts k i }
def State.core (s : State) (c : Nat) : Core := look {} s.cores c
def State.setCore (s : State) (c : Nat) (x : Core) : State := { s with cores := Machine.put s.cores c x }
def State.chan (s : State) (c : Nat) : Chan := look {} s.chans c
def State.setChan (s : State) (c : Nat) (x : Chan) : State := { s with chans := Machine.put s.chans c x }
def State.pchan (s : State) (c : Nat) : PChan := look {} s.pchans c
def State.setPchan (s : State) (c : Nat) (x : PChan) : State := { s with pchans := Machine.put s.pchans c x }
def State.bunit (s : State) (c : Nat) : BinUnit := look {} s.units c
def State.setBunit (s : State) (c : Nat) (x : BinUnit) : State := { s with units := Machine.put s.units c x }

/-- The core of a group key. -/
def coreOf (k : Nat) : Nat := k / 64
/-- The die of a core (R10, R11): 0 or 1. -/
def dieOf (core : Nat) : Nat := if core < 256 then core / 128 else (core - 256) / 2
/-- A steward core (R11). -/
def isSteward (core : Nat) : Bool := 256 ≤ core
/-- The key of a group's instance. -/
def instKey (k : Nat) (g : Group) : Nat := coreOf k * 16 + g.tslot

/-- The next free value's index, and the state that has used it. -/
def State.fresh (s : State) : Nat × State := (s.free, { s with free := s.free + 1 })

/-- `x` in a list without repeats. -/
def addOnce (l : List Nat) (x : Nat) : List Nat := if l.contains x then l else l ++ [x]
/-- A union of lists without repeats. -/
def unionOnce (a b : List Nat) : List Nat := b.foldl addOnce a

/-- Elements in rising order of a number. -/
def sortOn {α : Type} (f : α → Nat) (xs : List α) : List α :=
  xs.foldr (fun x l => l.takeWhile (fun y => f y < f x) ++ x :: l.dropWhile (fun y => f y < f x)) []

/-! ## Registers -/

def Group.sreg (g : Group) (r : Nat) : Word64 := look 0 g.s r
def Group.setS (g : Group) (r : Nat) (w : Word64) : Group := { g with s := Machine.put g.s r w }
def Group.vreg (g : Group) (r lane : Nat) : Word32 := look 0 g.v (r * 64 + lane)
def Group.setV (g : Group) (r lane : Nat) (w : Word32) : Group := { g with v := Machine.put g.v (r * 64 + lane) w }

/-- The bits of every lane of a group (R26). -/
def Group.lanesMask (g : Group) : Word64 := BitVec.ofNat 64 (2 ^ g.width - 1)

/-- A predicate; p15 reads true in every lane (R26). -/
def Group.preg (g : Group) (r : Nat) : Word64 := if r = 15 then g.lanesMask else look 0 g.p r
/-- Writes a predicate; a write to p15 is discarded (R26). -/
def Group.setP (g : Group) (r : Nat) (w : Word64) : Group :=
  if r = 15 then g else { g with p := Machine.put g.p r w }

def Group.gen (g : Group) (r : Nat) : Gen := look {} g.g r
def Group.setGen (g : Group) (r : Nat) (x : Gen) : Group := { g with g := Machine.put g.g r x }

/-- VCOUNT: the registers a group may name (R52). -/
def Group.vcount (g : Group) : Nat := 8 * g.blocks

/-- Sets a predicate true or false in every width lane. -/
def Group.setPAll (g : Group) (r : Nat) (b : Bool) : Group := g.setP r (if b then g.lanesMask else 0)

/-- Writes `f` of each listed lane to vector register `r`. -/
def Group.writeLanes (g : Group) (r : Nat) (f : Nat → Word32) : List Nat → Group
  | [] => g
  | i :: is => (g.setV r i (f i)).writeLanes r f is

/-- The word whose bit i is `f i`, for i below `n`. -/
def bitsOf (f : Nat → Bool) : Nat → Nat
  | 0 => 0
  | n + 1 => bitsOf f n + (if f n then 2 ^ n else 0)

/-- Writes `f` of each lane of `mask` to predicate `r`; other lanes keep their bit. -/
def Group.writeP (g : Group) (r : Nat) (mask : Word64) (f : Nat → Bool) : Group :=
  g.setP r ((g.preg r &&& ~~~mask) ||| (BitVec.ofNat 64 (bitsOf f g.width) &&& mask))

/-- Raises flags: an instruction sets each once (R224). -/
def Group.raise (g : Group) (f : Flags) : Group :=
  { g with gstat := ⟨g.gstat.iv || f.iv, g.gstat.dz || f.dz, g.gstat.ovf || f.ovf, g.gstat.uf || f.uf,
      g.gstat.nx || f.nx⟩ }

/-! ## Active lanes (R28) -/

/-- The guard that an OP prefix supplies (R291): every lane without one. -/
def Group.guardMask (g : Group) (pfx : List PfxWord) : Word64 :=
  match pfx.find? (fun x => x.word.toNat / 2 ^ 24 = 5) with
  | none => g.lanesMask
  | some x =>
    let w := x.word.toNat
    if w / 2 ^ 16 % 2 = 0 then g.lanesMask
    else
      let p := g.preg (w / 2 ^ 11 % 16)
      (if w / 2 ^ 15 % 2 = 1 then ~~~p else p) &&& g.lanesMask

/-- The active lanes of a unit with these prefixes, as a mask and as a list. -/
def Group.active (g : Group) (pfx : List PfxWord) : Word64 := g.em &&& g.guardMask pfx
def Group.lanesOf (g : Group) (m : Word64) : List Nat := (List.range g.width).filter (fun i => m.getLsbD i)

/-- The lowest lane set in EM, or lane 0 (R61, R314). -/
def Group.lowest (g : Group) : Nat := ((g.lanesOf g.em).head?).getD 0

/-! ## Taking a trap (R233) and returning from one (R235) -/

/-- The first word of the unit that the group is issuing or will issue next. -/
def Group.firstWord (g : Group) : Word64 :=
  match g.pfx with
  | x :: _ => x.addr
  | [] => g.pc

/-- The oldest incomplete unit's first word: in flight, or the next one to issue. -/
def Group.resumePc (g : Group) : Word64 :=
  match g.flight with
  | u :: _ => u.first
  | [] => g.firstWord

/-- TSKIP's bits: the units after the one TEPC names that have completed, in sequence (R233, R234; log 11). -/
def Group.doneAfter (g : Group) : List Bool :=
  match g.flight with
  | _ :: us => us.map Flight.done ++ g.skip
  | [] => g.skip.tail

/-- No unit is in flight, and the next one has completed already, before an earlier trap (R235). -/
def Group.nextDone (g : Group) : Bool := g.flight.isEmpty && (g.skip.head?).getD false

/-- Bit k of TSKIP for the k-th of these. -/
def skipWord : List Bool → Nat
  | [] => 0
  | b :: bs => (if b then 1 else 0) + 2 * skipWord bs

/-- What the exchange of s56 to s63 with the shadow bank leaves in the two banks (R233). -/
def Group.swapped (g : Group) : Nat → Group
  | 0 => g
  | n + 1 =>
    let h := g.swapped n
    let r := 56 + n
    { h with s := Machine.put h.s r (look 0 h.shadow r), shadow := Machine.put h.shadow r (look 0 h.s r) }

/-- Exchanges s56 to s63 with the shadow bank. -/
def Group.exchange (g : Group) : Group := g.swapped 8

/-- Writes the results of one SFU entry of its group: registers, then the flags (R396). -/
def Group.takeSfu (g : Group) (e : SfuEntry) : Group :=
  ((e.res.foldl (fun h r => h.setV e.dst r.1 r.2) g).raise e.flags)

/-- Marks the unit at `unit` of the run-ahead window complete and drops complete units from its old end (R232). -/
def Group.settle (g : Group) (unit : Word64) : Group :=
  let fl := g.flight.map (fun u => if u.first = unit then { u with done := true } else u)
  { g with flight := fl.dropWhile Flight.done }

/-- Writes every queued SFU result of group `k` (R75, R233). -/
def State.drainSfu (s : State) (k : Nat) : State :=
  let c := s.core (coreOf k)
  let mine := c.sfu.filter (fun e => e.grp = k)
  let g := mine.foldl (fun h e => (h.takeSfu e).settle e.unit) (s.grp k)
  (s.setGrp k g).setCore (coreOf k) { c with sfu := c.sfu.filter (fun e => e.grp ≠ k) }

/-- MKRES as an interrupted matrix instruction of the run-ahead window leaves it (R198). -/
def Group.interrupted (g : Group) : Group :=
  match g.flight.find? (fun u => !u.done && (match u.instr with
      | .mma _ _ _ _ _ _ => true
      | .mmas _ _ _ _ _ _ => true
      | _ => false)) with
  | none => g
  | some u => { g with mkres := BitVec.ofNat 64 (16 + u.prog % 16) }

/-- `n` miss-status entries are free: while an instruction stands rejected they are kept for the oldest (R85). -/
def Core.freeMiss (c : Core) (n : Nat) : Core :=
  { c with missUsed := c.missUsed - n, missKept := if c.rejected = [] then 0 else c.missKept + n }

/-- The rejected instructions of groups that `gone` picks out leave; where the oldest does, the next begins to have entries
kept for it. -/
def Core.dropRejected (c : Core) (gone : Nat → Bool) : Core :=
  { c with
    rejected := c.rejected.filter (fun x => !gone x.1),
    missKept := if (c.rejected.head?).any (fun x => !gone x.1) then c.missKept else 0 }

/-- The watch entries of these groups are held only until the home slice acknowledges their deregistration (R95). -/
def Core.unwatch (c : Core) (gone : Nat → Bool) : Core :=
  { c with watch := c.watch.map (fun (w : WatchEntry) => if gone w.grp then { w with leaving := true } else w) }

/-- Cancels the waits of group `k` wherever they are queued: claims, engines, the watch table, rejected instructions, and
the count that an EXIT had reserved (R58, R89, R110, R325, R387). -/
def State.cancelWaits (s : State) (k : Nat) : State :=
  let c := s.core (coreOf k)
  let g := s.grp k
  let y := ((c.unwatch (fun x => x = k)).dropRejected (fun x => x = k)).freeMiss
    ((g.flight.map Flight.miss).sum + ((c.granted.filter (fun x => x.1 = k)).map Prod.snd).sum)
  let s := { s with aholds := s.aholds.filter (fun h => h.grp ≠ k) }.setCore (coreOf k) { y with
    claims := c.claims.filter (fun x => x.grp ≠ k),
    engineQueue := c.engineQueue.filter (fun x => x ≠ k),
    granted := c.granted.filter (fun x => x.1 ≠ k) }
  match g.reserved with
  | none => s
  | some h =>
    match find? s.sets h with
    | none => s.setGrp k { g with reserved := none }
    | some t => { s.setGrp k { g with reserved := none } with
        sets := Machine.put s.sets h { t with reserved := t.reserved - 1 } }

/-- Frees the windows' lines and engines of an instance: every window EMPTY, its mark kept (R133, R138). -/
def Inst.dropWindows (i : Inst) : Inst :=
  { i with wins := mapVals i.wins (fun _ w => { w with state := .empty, lines := [], freeze := none }) }

/-- The group of a store whose group has exited. -/
def noGroup : Nat := 2 ^ 64

/-- The stores of groups that `gone` picks out lose their group, and a line is unpinned when every group whose marked store
pinned it has gone (R176). -/
def State.forgetGroups (s : State) (gone : Nat → Bool) : State :=
  { s with
    cores := mapVals s.cores (fun _ c => { c with
      stores := c.stores.map (fun (e : StoreEntry) => if gone e.grp then { e with grp := noGroup } else e) }),
    held := s.held.map (fun (h : HeldStore) => if h.module = s.device ∧ gone h.grp then { h with grp := noGroup } else h),
    remote := s.remote.map (fun (r : RemoteReq) => if gone r.grp then { r with grp := noGroup } else r),
    aholds := s.aholds.filter (fun h => !gone h.grp),
    pins := s.pins.filterMap (fun x =>
      if x.2.module = none ∧ x.2.groups.any gone then
        let gs := x.2.groups.filter (fun y => !gone y)
        if gs = [] then none else some (x.1, { x.2 with groups := gs })
      else some x) }

/-- A core without its queued work for groups that `gone` picks out. -/
def Core.without (c : Core) (gone : Nat → Bool) : Core :=
  let y := ((c.unwatch gone).dropRejected gone).freeMiss ((c.granted.filter (fun y => gone y.1)).map Prod.snd).sum
  { y with
    claims := c.claims.filter (fun y => !gone y.grp),
    engineQueue := c.engineQueue.filter (fun y => !gone y),
    granted := c.granted.filter (fun y => !gone y.1),
    sfu := c.sfu.filter (fun y => !gone y.grp),
    crews := (mapVals c.crews (fun _ w => { w with
      members := w.members.filter (fun y => !gone y),
      party := w.party.filter (fun y => !gone y),
      arrived := w.arrived.filter (fun y => !gone y.1) })).filter (fun x => x.2.members ≠ []) }

/-- The state of group `g` at the entry of its handler for cause `c`, TEPC being `pc` and TSKIP the listed units. -/
def Group.enterTrap (g : Group) (c : Cause) (pc : Word64) (done : List Bool) : Group :=
  let g := g.exchange
  { g with
    heldCbar := match (g.flight.filter (fun u => !u.done)).findSome? (fun u => u.arrived.map (fun n => (u.first, n))) with
      | some h => some h
      | none => g.heldCbar,
    heldStores := g.heldStores ++ ((g.flight.filter (fun u => !u.done && u.rest ≠ [])).map (fun u => (u.first, u.rest))),
    heldAt := pc, heldDone := g.nextDone && pc == g.firstWord,
    tepc := pc, tskip := BitVec.ofNat 64 (skipWord done % 2 ^ 16), tcause := BitVec.ofNat 64 c.code,
    taddr := c.taddr, tinfo := c.tinfo, priv := true,
    pc := (g.tvec &&& ~~~(0xFFF : Word64)) + BitVec.ofNat 64 (64 * c.code),
    pfx := [], flight := [], skip := [], status := .running }

/-- The graph of a group's task set. -/
def State.graphOf (s : State) (k : Nat) : Nat :=
  match find? s.sets (s.inst (instKey k (s.grp k))).set with
  | some t => t.graph
  | none => 0

/-- Sets bit `b` of an EVENTS field. -/
def setEvent (ev b : Nat) : Nat := ev ||| 2 ^ b

/-- The launches of a graph record an event (R276). -/
def State.noteGraph (s : State) (graph bit : Nat) : State :=
  { s with ring := mapVals s.ring (fun _ l => if l.graph = graph then { l with events := setEvent l.events bit } else l) }

/-- ERET of a privileged group (R235): the exchange, privilege dropped, and the units from TEPC on, with those that
TSKIP marks skipped. A CBAR's recorded arrival stays with it where the group goes on with the units that the trap cancelled,
or at the CBAR itself (R58, R319; DEDUCED, unsafe: assumption log, 26), and so do the lanes that are left of a store. A pending
pre-emption is taken at once, TEPC and TSKIP unchanged. Units that were complete before a later trap stay skipped, that at TEPC
among them where its words could not be read (DEDUCED, unsafe: assumption log, 11). -/
def Group.eret (g : Group) : Group :=
  let g := g.exchange
  let bits := (g.heldDone && g.tepc == g.heldAt) :: (List.range 16).map (fun i => g.tskip.getLsbD i)
  let g := { g with
    priv := false, pc := g.tepc, pfx := [], skip := bits,
    heldCbar := g.heldCbar.filter (fun h => g.tepc == g.heldAt || h.1 == g.tepc),
    heldStores := g.heldStores.filter (fun h => g.tepc == g.heldAt || h.1 == g.tepc) }
  match g.preempt with
  | none => g
  | some r =>
    let g := g.exchange
    { g with
        priv := true, preempt := none, tcause := 0x0E, taddr := 0, tinfo := BitVec.ofNat 64 r, skip := [],
        pc := (g.tvec &&& ~~~(0xFFF : Word64)) + BitVec.ofNat 64 (64 * 0x0E) }

/-! ## Units -/

/-- What running a unit comes to. -/
inductive Res
  /-- It completes; the PC moves on. -/
  | done (s : State)
  /-- It completes and sets the PC. -/
  | jump (s : State) (pc : Word64)
  /-- It is complete and has itself left the group as it is to be (ERET, EXIT). -/
  | left (s : State)
  /-- It waits; the state and the unit hold what has come about so far. -/
  | wait (s : State) (u : Flight)
  /-- It meets a trap condition. -/
  | trap (s : State) (c : Cause)
  /-- It meets a trap condition whose TEPC is the unit after it (BKPT, TRAP). -/
  | trapAfter (s : State) (c : Cause)
  /-- It does not issue; nothing of it has come about. -/
  | stall (s : State)

/-- What reading or writing memory comes to: a cause, a wait that holds a number of miss-status entries, a rejection, or
the values of the lanes. -/
inductive Got
  | trap (c : Cause)
  | wait (s : State) (w : Wait) (held : Nat)
  /-- Some lanes of a store have acted, and the first of those that are left waits for them. -/
  | part (s : State) (rest : List (GLane × Nat)) (held : Nat)
  | stall (s : State)
  | vals (s : State) (vs : List (Nat × Nat))

/-- What an instruction of the model ends in. -/
abbrev Out := Host.Outcome State Fault Refusal

/-- The unit that ends in instruction `i`, the group's next word; a store that a trap has cancelled goes on with the lanes that are
left of it. -/
def Group.unit (g : Group) (i : Instr) : Flight :=
  { first := g.firstWord, pc := g.pc, instr := i, pfx := g.pfx, done := false, wait := .older, since := 0, prog := 0,
    arrived := none, commit := none, poll := 64, miss := 0, spans := [],
    rest := if g.priv then [] else ((g.heldStores.find? (fun h => h.1 = g.firstWord)).map Prod.snd).getD [] }

/-- The units of the run-ahead window that are older than `u`. -/
def Group.older (g : Group) (u : Flight) : List Flight := g.flight.takeWhile (fun x => x.first ≠ u.first)

/-- The instruction word of a unit, as TINFO holds it (R236). -/
def Flight.word (u : Flight) : Word64 := BitVec.ofNat 64 (u.instr.code.getD 0)

/-- An illegal-operand cause (0x02) with an address, or 0 (R236). -/
def Flight.operand (u : Flight) (addr : Word64 := 0) : Cause := ⟨2, addr, u.word⟩

/-- A misaligned cause (0x04) of a lane (R236). -/
def misaligned (addr lane : Nat) : Cause := ⟨4, BitVec.ofNat 64 addr, BitVec.ofNat 64 lane⟩

/-- The group of key `k` at the state, changed by `f`. -/
def State.onGrp (s : State) (k : Nat) (f : Group → Group) : State := s.setGrp k (f (s.grp k))

end Sys2Proof.Machine
end

