-- ==== Sys2Proof/Machine/Control.lean ====
section
/-! DEFINITION. The control range and the wrapper block of a pseudo-channel (R255 to R262): which accesses its registers
take, what they read, what a write does, and which accesses wait. -/

namespace Sys2Proof.Machine
open Sys2Proof

/-- The pseudo-channel (channel × 2 + p) and the offset in its block that a physical address of the range names; none
where no block lies. -/
def ctlPlace (pa : Nat) : Option (Nat × Nat) :=
  let r := pa - Config.controlBase
  if r / 2 ^ 24 < 8 ∧ r / 2 ^ 16 % 256 < 32 then
    some ((32 * (r / 2 ^ 24) + r / 2 ^ 16 % 256) * 2 + r / 2 ^ 15 % 2, r % 2 ^ 15)
  else none

/-- The tap of a wire's read or write delay. -/
def PChan.tap (p : PChan) (write : Bool) (w : Nat) : Nat := (look 32 (if write then p.wdly else p.rdly) w).toNat

/-- The registers with a 64-bit access: TRCTL to BISTRES (R257). -/
def ctlWide (off : Nat) : Bool := off % 8 = 0 && off < 0x40

/-- The wire of a delay byte, and whether it is a write delay (R257). -/
def ctlDelay (off : Nat) : Option (Bool × Nat) :=
  if 0x40 ≤ off ∧ off < 0x62 then some (false, off - 0x40)
  else if 0x80 ≤ off ∧ off < 0xA2 then some (true, off - 0x80)
  else none

/-- The offset has a register that takes accesses of `n` bytes (R256). -/
def ctlTakes (off n : Nat) : Bool := if n = 8 then ctlWide off else n = 1 && (ctlDelay off).isSome

/-- What a register reads. -/
def PChan.ctlValue (p : PChan) (off : Nat) : Nat :=
  match ctlDelay off with
  | some (w, i) => p.tap w i
  | none =>
    match off / 8 with
    | 0 => if p.own then 1 else 0
    | 1 => p.trcmd
    | 2 => p.trres.toNat
    | 3 => p.lrep.toNat
    | 4 => p.rcth.toNat
    | 5 => p.scrub.toNat
    | 6 => p.bistctl.toNat
    | _ => p.bistres.toNat

/-- A write of value `v` is in range, sets no reserved bit, and is one that the register takes now (R256 to R258). -/
def PChan.ctlGood (p : PChan) (off v : Nat) : Bool :=
  match ctlDelay off with
  | some _ => p.own && v < 64
  | none =>
    match off / 8 with
    | 0 => v < 2
    | 1 => p.own && 1 ≤ v && v ≤ 3
    | 3 => p.own && v < 2 ^ 16 && fld v 14 1 = 0 && fld v 6 1 = 0 && fld v 8 6 < 32 && fld v 0 6 < 32
        && !(fld v 15 1 = 1 && fld v 7 1 = 1 && fld v 8 6 = fld v 0 6)
    | 4 => 256 ≤ v && v < 2 ^ 16
    | 5 => 1 ≤ v && v ≤ 168
    | 6 => fld v 22 42 = 0 && fld v 3 13 = 0 && fld v 1 2 ≠ 3 && !p.bistctl.getLsbD 0
    | _ => false

/-- A read that waits: of TRRES while a check runs (R259). -/
def PChan.ctlReadWaits (p : PChan) (off : Nat) : Bool := off = 0x10 && p.check.isSome

/-- A write that waits: OWN = 1 until the batch has drained and no grant runs, and TRCMD until the check that runs has ended (R258,
R259). -/
def State.ctlWriteWaits (s : State) (pch off v : Nat) : Bool :=
  let c := s.chan (pch / 2)
  (off = 0 && v = 1 && !(s.pchan pch).own && (c.grant || c.batch ≠ [])) || (off = 8 && (s.pchan pch).check.isSome)

/-- Rows of a bank that hold data, and of a pseudo-channel (R148, R249). -/
def bankRows : Nat := 12288
def pchanRows : Nat := 64 * bankRows

/-- Rows that scrub should have read by a cycle: every row once in HOURS, at 1.8 GHz (R263). -/
def PChan.scrubDue (p : PChan) (cycle : Nat) : Nat :=
  p.scrubBase + (cycle - p.scrubAt) * pchanRows / (p.scrub.toNat * 6480000000000)

/-- STATE of BISTRES (R257). -/
def PChan.bistState (p : PChan) : Nat := fld p.bistres.toNat 62 2
def PChan.withBistState (p : PChan) (n : Nat) : PChan :=
  { p with bistres := p.bistres &&& 0x3FFFFFFFFFFFFFFF ||| BitVec.ofNat 64 (n * 2 ^ 62) }

/-- The row at offset `o` of the channel is being copied, so that accesses to it wait (R261). -/
def PChan.copies (p : PChan) (o : Nat) : Bool :=
  (p.bistState = 1 || p.bistState = 3) && fld p.bistctl.toNat 16 6 = fld o 11 6 && p.copyRow = fld o 17 14

/-- The controller holds new requests for this offset of a channel: its pseudo-channel is in training, or its row is being
copied (R258, R261). -/
def State.chanHolds (s : State) (ch o : Nat) : Bool :=
  (s.pchan (ch * 2 + fld o 10 1)).own || (s.pchan (ch * 2 + fld o 10 1)).copies o

/-- Polder slots of a channel, and those free outside the reserve (R148). -/
def Chan.slotCount (c : Chan) : Nat := c.polder * 4032
def Chan.freeSlots (c : Chan) : Nat := c.slotCount - 64 - c.slots.length - c.parked

/-- Polder slots of a channel that packets on their way will take. -/
def State.inTransit (s : State) (ch : Nat) : Nat := (s.transit.filter (fun p => p.chan = ch)).length

/-- Free slots of a channel outside its reserve, those that packets on their way will take left out (R148, R158, R261). -/
def State.freeSlotsOf (s : State) (ch : Nat) : Nat := (s.chan ch).freeSlots - s.inTransit ch

/-- Notes whether the channel's polder is full, and since when (R158). -/
def State.noteFull (s : State) (ch : Nat) : State :=
  let c := s.chan ch
  s.setChan ch { c with fullSince := if s.freeSlotsOf ch = 0 then some (c.fullSince.getD s.cycle) else none }

/-- Where the polder of a channel begins, and its slot at a place (R148, R249). -/
def Chan.polderStart (c : Chan) : Nat := 0x60000000 - c.polder * 2 ^ 24
def Chan.slotStart (c : Chan) (place : Nat) : Nat := c.polderStart + c.polder * 2 ^ 18 + place % c.slotCount * 4096

/-- Offsets in a channel, one in each row, of its slot at a place and of that slot's descriptor (R148). -/
def Chan.slotOffsets (c : Chan) (place : Nat) : List Nat :=
  (c.polderStart + place % c.slotCount * 64) :: (List.range 4).map (fun i => c.slotStart place + 1024 * i)

/-- Polder slots that hold the rows of one bank (R261). -/
def bankSlots : Nat := 3072

/-- A write of GO = 1: the parking of the bank begins, or too little space is free (R261; DESIGN CHOICE, unsafe: assumption log,
21). -/
def State.startBist (s : State) (pch v : Nat) : State :=
  let p := s.pchan pch
  let c := s.chan (pch / 2)
  let keep := p.bistres &&& 0x1FFFFFFFFFFFFFFF
  if bankSlots ≤ s.freeSlotsOf (pch / 2) then
    ((s.setPchan pch { p with
      bistctl := BitVec.ofNat 64 v, bistres := keep &&& 0x0FFFFFFFFFFFFFFF ||| 0x4000000000000000, copyRow := 0 }).setChan
      (pch / 2) { c with parked := c.parked + bankSlots }).noteFull (pch / 2)
  else s.setPchan pch { p with bistctl := BitVec.ofNat 64 (v - 1), bistres := keep ||| 0x2000000000000000 }

/-- The health record notes a repair: a spare wire that carries a lane from now on (R260). -/
def State.noteRepair (s : State) (ch : Nat) (old : Word64) (v : Nat) : State :=
  let on := fun (w b : Nat) => w / 2 ^ b % 2 = 1
  if (on v 15 && !on old.toNat 15) || (on v 7 && !on old.toNat 7) then
    let c := s.chan ch
    s.setChan ch { c with events := setEvent c.events 3 }
  else s

/-- What a write does that reaches its register (R257 to R261). -/
def State.ctlWrite (s : State) (pch off v : Nat) : State :=
  let p := s.pchan pch
  match ctlDelay off with
  | some (false, i) => s.setPchan pch { p with rdly := Machine.put p.rdly i (BitVec.ofNat 8 v) }
  | some (true, i) => s.setPchan pch { p with wdly := Machine.put p.wdly i (BitVec.ofNat 8 v) }
  | none =>
    match off / 8 with
    | 0 => s.setPchan pch { p with own := v = 1 }
    | 1 => s.setPchan pch { p with trcmd := v, check := some ⟨v, s.cycle + (if v = 3 then 2880 else 1440)⟩ }
    | 3 => (s.setPchan pch { p with lrep := BitVec.ofNat 64 v }).noteRepair (pch / 2) p.lrep v
    | 4 => s.setPchan pch { p with rcth := BitVec.ofNat 64 v }
    | 5 => s.setPchan pch { p with scrub := BitVec.ofNat 64 v, scrubBase := p.scrubDue s.cycle, scrubAt := s.cycle }
    | 6 => if v % 2 = 1 then s.startBist pch v else s.setPchan pch { p with bistctl := BitVec.ofNat 64 v }
    | _ => s

end Sys2Proof.Machine
end

