-- ==== Sys2Proof/Machine/Translate.lean ====
section
/-! DEFINITION. Translation (R244, R245, R249, R255) and the checks that every global access makes, in the order of R237.
A walk reads the tables in device memory; a TLB entry answers before it. -/

namespace Sys2Proof.Machine
open Sys2Proof

/-! ## Fields of an entry (R245) -/

def pteValid (w : Word64) : Bool := w.getLsbD 0
def pteLeaf (w : Word64) : Bool := w.getLsbD 1
def pteW (w : Word64) : Bool := w.getLsbD 2
def pteX (w : Word64) : Bool := w.getLsbD 3
def pteDef (w : Word64) : Bool := w.getLsbD 4
def pteFxa (w : Word64) : Bool := w.getLsbD 5
/-- The FXA scale exponent, signed. -/
def pteE (w : Word64) : Int := (w.extractLsb' 6 6).toInt
def pteDil (w : Word64) : Bool := w.getLsbD 12
def pteMcr (w : Word64) : Bool := w.getLsbD 13
def pteMset (w : Word64) : Nat := fld w.toNat 14 8
/-- A leaf's physical address, and a table entry's. -/
def ptePa (w : Word64) : Nat := w.toNat / 2 ^ 28 * 2 ^ 16
def pteNext (w : Word64) : Nat := w.toNat / 2 ^ 20 * 2 ^ 8

/-- The bytes of a page that a leaf at this level maps (R244). -/
def pageSize (level : Nat) : Nat :=
  match level with
  | 0 => 2 ^ 16
  | 1 => 2 ^ 21
  | _ => 2 ^ 30

/-! ## Where an address lands (R249) -/

/-- Channel and offset within it. -/
def interleave (dil : Bool) (pa : Nat) : Nat × Nat :=
  if dil then
    let u := fld pa 13 35
    (128 * fld pa 48 1 + (u % 128 ^^^ u / 128 % 128), u / 128 * 8192 + pa % 8192)
  else
    let u := fld pa 13 39
    (u % 256 ^^^ u / 256 % 256, u / 256 * 8192 + pa % 8192)

/-- The physical address that names an offset of a channel under DIL = 0. -/
def chanAddr (ch o : Nat) : Nat := (o / 8192 * 256 + (ch ^^^ o / 8192 % 256)) * 8192 + o % 8192

/-- The address by which the state keeps the byte that a leaf names: its DRAM byte has one, whatever its interleave. -/
def storeAddr (dil : Bool) (pa : Nat) : Nat :=
  if dil then
    let io := interleave true pa
    chanAddr io.1 io.2
  else pa

/-- The data capacity C of a channel: 1.5 GB less its polder. -/
def State.capacity (s : State) (ch : Nat) : Nat := 0x60000000 - (s.chan ch).polder * 2 ^ 24

/-- The pseudo-channel of the module that holds a physical address. -/
def pchOf (dil : Bool) (pa : Nat) : Nat :=
  let (ch, o) := interleave dil pa
  ch * 2 + fld o 10 1

/-- A context is a steward context. -/
def State.isStewardCtx (s : State) (ctx : Nat) : Bool :=
  match (find? s.ctxs ctx).bind Ctx.mode with
  | some (stw, _) => stw
  | none => false

/-- The leaf is well formed for an access to `pa` in context `ctx` (R245, R249, R255). The bound of a channel's capacity is
checked for the address of the access (DEDUCED, unsafe: assumption log, 24). -/
def State.leafOk (s : State) (ctx : Nat) (w : Word64) (level pa : Nat) : Bool :=
  let io := interleave (pteDil w) pa
  fld w.toNat 22 6 = 0 && ptePa w % pageSize level = 0 && (!pteFxa w || pteDef w) && !(pteMcr w && pteDef w)
    && (if Config.controlBase ≤ pa then
          s.isStewardCtx ctx && !pteDil w && !pteDef w && !pteFxa w && !pteMcr w
        else io.2 < s.capacity io.1 && (!pteDil w || fld pa 49 3 = 0))

/-- A table entry names an aligned table and sets no reserved bit; tables of levels 1 and 2 are 4 KB, of level 0 256 B. -/
def tableOk (w : Word64) (next : Nat) : Bool :=
  fld w.toNat 2 18 = 0 && (next = 0 || pteNext w % 4096 = 0)

/-- The controller of this module holds new requests for the byte that the state keeps at a key (R258, R261). -/
def State.keyHeld (s : State) (key : Nat) : Bool :=
  key / 2 ^ 52 = s.device && s.chanHolds (interleave false (key % 2 ^ 52)).1 (interleave false (key % 2 ^ 52)).2

/-! ## The walk (R244) -/

/-- The entry at a physical address of this module. -/
def State.entry (s : State) (pa : Nat) : Word64 := BitVec.ofNat 64 (rdLE s.mem (s.device * 2 ^ 52 + pa) 8)

/-- The entry at a physical address is one that its controller holds back (R258, R261). -/
def State.entryHeld (s : State) (pa : Nat) : Bool := s.pchans ≠ [] && s.keyHeld (s.device * 2 ^ 52 + pa)

/-- The walk of the table at `t` and of those below it. -/
def State.walkFrom (s : State) (va : Nat) : Nat → Nat → Walk
  | 0, t =>
    let a := t + 8 * fld va 16 5
    let w := s.entry a
    if s.entryHeld a then .held
    else if !pteValid w then .absent 0 else if pteLeaf w then .leaf w 0 else .malformed 0
  | n + 1, t =>
    let a := t + 8 * fld va (21 + 9 * n) 9
    let w := s.entry a
    if s.entryHeld a then .held
    else if !pteValid w then .absent (n + 1)
    else if pteLeaf w then (if n = 2 then .malformed 3 else .leaf w (n + 1))
    else if tableOk w n then s.walkFrom va n (pteNext w) else .malformed (n + 1)

/-- The level of a page of this size. -/
def levelOf (size : Nat) : Nat := if size = 2 ^ 16 then 0 else if size = 2 ^ 21 then 1 else 2

/-- The TLB's answer for an address, or the walk's. -/
def State.lookup (s : State) (core ctx va : Nat) : Walk :=
  match (s.core core).tlb.find? (fun e => e.ctx = ctx && e.va / e.size = va / e.size) with
  | some e => .leaf e.leaf (levelOf e.size)
  | none =>
    match find? s.ctxs ctx with
    | none => .absent 3
    | some c => s.walkFrom va 3 c.root

/-- The home module of a page of a context (R178): this one unless a range says otherwise (DESIGN CHOICE, unsafe: assumption
log, 3). -/
def State.homeOf (s : State) (ctx va : Nat) : Nat :=
  match s.homes.find? (fun r => r.ctx = ctx && r.va ≤ va && va < r.va + r.len) with
  | some r => r.home
  | none => s.device

/-- TINFO of causes 0x05 and 0x06 (R236); the level where no entry was read is free (DESIGN CHOICE, unsafe: assumption log, 13). -/
def pageInfo (lane level reason : Nat) (write fetch : Bool) : Word64 :=
  BitVec.ofNat 64 (lane + 64 * (level % 4) + 256 * reason + (if write then 1024 else 0) + (if fetch then 2048 else 0))

/-- No cause of R236: what is asked for waits at its home, and none of it has come about. -/
def notYet : Cause := ⟨0, 0, 0⟩

/-- Translates one address; the cause is 0x05 with its reason. A walk that waits for an entry gives no cause yet. -/
def State.translate (s : State) (core ctx va lane : Nat) (write fetch : Bool) : Except Cause Place :=
  let cause := fun level reason => (⟨5, BitVec.ofNat 64 va, pageInfo lane level reason write fetch⟩ : Cause)
  if 2 ^ 48 ≤ va then .error (cause (Config.openLevel 5 va) 2)
  else
    match s.lookup core ctx va with
    | .held => .error notYet
    | .absent l => .error (cause l 0)
    | .malformed l => .error (cause l 1)
    | .leaf w l =>
      let pa := ptePa w + va % pageSize l
      if s.leafOk ctx w l pa then
        let home := if pteMcr w then s.device else s.homeOf ctx va
        .ok { leaf := w, level := l, pa := pa, home := home, key := home * 2 ^ 52 + storeAddr (pteDil w) pa }
      else .error (cause l 1)

/-- The page of a place lies in the control range. -/
def Place.control (p : Place) : Bool := Config.controlBase ≤ p.pa

/-- Translates every active lane, the lowest failing lane first (R237). -/
def State.translateAll (s : State) (core ctx : Nat) (write : Bool) : List (Nat × Nat) → Except Cause (List GLane)
  | [] => .ok []
  | (i, va) :: t =>
    match s.translate core ctx va i write false with
    | .error c => .error c
    | .ok p =>
      match s.translateAll core ctx write t with
      | .error c => .error c
      | .ok r => .ok ({ lane := i, va := va, at_ := p } :: r)

/-- The first lane that `bad` refuses, as a cause. -/
def firstLane (ls : List GLane) (bad : GLane → Bool) (cause : GLane → Cause) : Option Cause :=
  (ls.find? bad).map cause

/-- The first lane whose address is not a multiple of `size` (0x04). -/
def firstMisaligned (size : Nat) (ls : List (Nat × Nat)) : Option Cause :=
  (ls.find? (fun x => x.2 % size ≠ 0)).map (fun x => misaligned x.2 x.1)

/-- Alignment, translation and, for a write, permission of every active lane: 0x04, 0x05, 0x06 in turn (R237). -/
def State.resolve (s : State) (core ctx size : Nat) (write : Bool) (ls : List (Nat × Nat)) :
    Except Cause (List GLane) :=
  match firstMisaligned size ls with
  | some c => .error c
  | none =>
    match s.translateAll core ctx write ls with
    | .error c => .error c
    | .ok r =>
      match firstLane r (fun x => write && !pteW x.at_.leaf)
          (fun x => ⟨6, BitVec.ofNat 64 x.va, pageInfo x.lane x.at_.level 0 true false⟩) with
      | some c => .error c
      | none => .ok r

/-! ## What a request finds at the home (R178, R179) -/

/-- The byte that the latest of these stores gives at `key`. -/
def storedByte (es : List (Nat × List Byte)) (key : Nat) : Option Byte :=
  es.foldl (fun r e => if e.1 ≤ key ∧ key < e.1 + e.2.length then e.2[key - e.1]? else r) none

/-- The byte at a key as a request of this module finds it at the home. A store to a remote home that is on its way is ahead of
every request of the module that follows it on the path of its line, and such a request waits for it (R174, R178, R179). -/
def State.homeByte (s : State) (key : Nat) : Byte := rdByte s.mem key

/-- `n` bytes at the home from `key` on, little-endian. -/
def State.homeBytes (s : State) (key : Nat) : Nat → Nat
  | 0 => 0
  | n + 1 => (s.homeByte key).toNat + 256 * s.homeBytes (key + 1) n

/-! ## Planes (R266) -/

/-- A plane is up for this module and for `home`. -/
def State.planeUp (s : State) (home p : Nat) : Bool :=
  !s.down.contains (s.device * 18 + p) && !s.down.contains (home * 18 + p)

/-- The plane that a request to a remote line takes: the first one up from (PA >> 7) mod 18. -/
def State.planeFor (s : State) (home first : Nat) : Option Nat :=
  ((List.range 18).map (fun i => (first + i) % 18)).find? (s.planeUp home)

/-- The home of the address is another module that no plane reaches (0x0A). -/
def State.unreachable (s : State) (p : Place) : Bool :=
  p.home ≠ s.device && (s.planeFor p.home (p.pa / 128 % 18)).isNone

def unreachableCause (x : GLane) : Cause := ⟨0x0A, BitVec.ofNat 64 x.va, BitVec.ofNat 64 x.at_.home⟩

end Sys2Proof.Machine
end

