-- ==== Sys2Proof/Machine/Pages.lean ====
section
/-! DEFINITION. What the steward does to a context's table: it builds tables and writes leaves (R272), removes them and
shoots down their translations (R245, R247), and services a page of a lazy range (R246). -/

namespace Sys2Proof.Machine
open Sys2Proof

/-- The address of the entry for `va` in the table at `t` of a level (R244). -/
def entryAddr (level va t : Nat) : Nat :=
  t + 8 * (if level = 0 then fld va 16 5 else fld va (12 + 9 * level) 9)

/-- Writes an entry at a physical address of this module. -/
def State.setEntry (s : State) (pa w : Nat) : State := { s with mem := wrLE s.mem (s.device * 2 ^ 52 + pa) 8 w }

/-- The entry that points to the table at `next` (R245). -/
def tableWord (next : Nat) : Nat := next / 2 ^ 8 * 2 ^ 20 + 1

/-- The entry for `va` at level `goal`, reached from the table at `t` of the first level; a table that is missing is taken
from the space at `free`, which the answer leaves further on (R272). -/
def State.slotFor (s : State) (va goal : Nat) : Nat → Nat → Nat → State × Nat × Nat
  | 0, t, free => (s, entryAddr 0 va t, free)
  | n + 1, t, free =>
    let a := entryAddr (n + 1) va t
    if n + 1 = goal then (s, a, free)
    else
      let w := s.entry a
      if pteValid w && !pteLeaf w then s.slotFor va goal n (pteNext w) free
      else
        ({ s with mem := wipe s.mem (s.device * 2 ^ 52 + free) 4096 }.setEntry a (tableWord free)).slotFor va goal n free
          (free + 4096)

/-- The leaf of a page: its attributes are bits [21:2] (R245). -/
def leafWord (pa : Nat) (attr : Word64) (valid : Bool) : Nat :=
  pa / 2 ^ 16 * 2 ^ 28 + attr.toNat % 2 ^ 22 / 4 * 4 + 2 + valid.toNat

/-- Maps `n` pages of `size` bytes from `va` on to the frames from `pa` on; tables come from the space at `free`, which the answer
leaves further on. -/
def State.mapPages (s : State) (root va size pa : Nat) (attr : Word64) (valid : Bool) (free : Nat) : Nat → State × Nat
  | 0 => (s, free)
  | n + 1 =>
    let r := s.slotFor va (levelOf size) 3 root free
    (r.1.setEntry r.2.1 (leafWord pa attr valid)).mapPages root (va + size) size (pa + size) attr valid r.2.2 n

/-- Entries of a table of a level. -/
def tableEntries (level : Nat) : Nat := if level = 0 then 32 else 512

/-- A table of a level holds no valid entry. -/
def State.tableEmpty (s : State) (level t : Nat) : Bool :=
  (List.range (tableEntries level)).all (fun i => !pteValid (s.entry (t + 8 * i)))

/-- Removes every valid leaf of a page that overlaps [lo, hi) from the table at `t`, whose first entry maps `base`, and
frees tables left without a valid entry (R245). -/
def State.unmapIn (s : State) (lo hi : Nat) : Nat → Nat → Nat → State
  | 0, t, base =>
    (List.range 32).foldl (fun s i =>
      let a := base + i * 2 ^ 16
      if a < hi ∧ lo < a + 2 ^ 16 ∧ pteValid (s.entry (t + 8 * i)) = true then s.setEntry (t + 8 * i) 0 else s) s
  | n + 1, t, base =>
    (List.range 512).foldl (fun s i =>
      let w := s.entry (t + 8 * i)
      let size := 2 ^ (21 + 9 * n)
      let a := base + i * size
      if a < hi ∧ lo < a + size ∧ pteValid w = true then
        if pteLeaf w then s.setEntry (t + 8 * i) 0
        else
          let s := s.unmapIn lo hi n (pteNext w) a
          if s.tableEmpty n (pteNext w) then s.setEntry (t + 8 * i) 0 else s
      else s) s

/-- A shootdown: no TLB of the module keeps a translation of [lo, hi) for the context, and the instruction buffers are empty
where a translation has changed (R247, R282). -/
def State.shootdown (s : State) (ctx lo hi : Nat) (changed : Bool) : State :=
  { s with cores := mapVals s.cores (fun _ c => { c with
      tlb := c.tlb.filter (fun e => !(e.ctx = ctx && e.va < hi && lo < e.va + e.size)),
      ibuf := if changed then [] else c.ibuf }) }

/-- A byte of [lo, hi) of the context lies at this key. -/
def State.inRange (s : State) (ctx lo hi key : Nat) : Bool :=
  (List.range ((hi + 8191) / 8192 - lo / 8192)).any (fun i =>
    match s.translate (2 ^ 20) ctx ((lo / 8192 + i) * 8192) 0 false false with
    | .ok p => p.key ≤ key && key < p.key + 8192
    | .error _ => false)

/-- An access that has used a translation of [lo, hi) is not complete: a store on its way or held at its home, a unit of the
context that waits, a window over such lines (R247), or a PUT whose data has still to come (R270). -/
def State.usesRange (s : State) (ctx lo hi : Nat) : Bool :=
  let at_ := s.inRange ctx lo hi
  s.cores.any (fun c => c.2.stores.any (fun e => at_ e.key)) || s.held.any (fun h => at_ h.key)
    || s.svcStores.any (fun h => at_ h.key) || s.remote.any (fun r => at_ r.key)
    || s.groups.any (fun g => g.2.live && g.2.ctx = ctx && g.2.flight.any (fun u => !u.done && u.spans.any (fun a => at_ a.key)))
    || s.insts.any (fun i => i.2.live && i.2.ctx = ctx && i.2.wins.any (fun w => w.2.lines.any (fun l => at_ (l * 128))))
    || s.xfers.any (fun x => x.2.opc = 4 && x.2.ctx = ctx && x.2.va < hi && lo < x.2.va + x.2.len)

/-- The tables that map [lo, hi) of a context cannot be read now: an entry is held back (R258). -/
def State.tablesHeld (s : State) (ctx lo hi : Nat) : Bool :=
  s.pchans ≠ [] && (List.range ((hi + 2 ^ 16 - 1) / 2 ^ 16 - lo / 2 ^ 16)).any (fun i =>
    match s.translate (2 ^ 20) ctx ((lo / 2 ^ 16 + i) * 2 ^ 16) 0 false false with
    | .ok _ => false
    | .error c => c.code = 0)

/-- The steward may service a translation fault: its reason is 0, its address lies in a lazy range, and the context's
policy is FORWARD (R246). -/
def State.serviceable (s : State) (ctx : Nat) (pol : Bool) (c : Cause) : Option Lazy :=
  if c.code = 5 ∧ fld c.tinfo.toNat 8 2 = 0 ∧ pol = false then
    (find? s.ctxs ctx).bind (fun x => x.lazies.find? (fun l => l.va ≤ c.taddr.toNat && c.taddr.toNat < l.va + l.len))
  else none

/-- The cause with the address of the page that the steward would have to map: a unit's fetch that faults at a later word of
the unit names the unit's first word in TADDR (R236), and the word's own page is at the PC. -/
def Group.atPage (g : Group) (c : Cause) : Cause :=
  if c.code = 5 && c.tinfo.getLsbD 11 then { c with taddr := g.pc } else c

/-- The leaf of the page of a lazy range that holds `va` becomes valid (R246, R272). A table that an UNMAP has freed
meanwhile is built again, from the space that the range keeps. -/
def State.servicePage (s : State) (ctx va : Nat) (l : Lazy) : State :=
  match find? s.ctxs ctx with
  | none => s
  | some x =>
    let n := (va - l.va) / l.size
    let r := s.mapPages x.root (l.va + n * l.size) l.size (l.pa + n * l.size) l.attr true l.free 1
    let lazies := x.lazies.map (fun (y : Lazy) => if y = l then { y with free := r.2 } else y)
    { r.1 with ctxs := Machine.put s.ctxs ctx { x with lazies := lazies } }

/-! ## Addresses as the service reaches them -/

/-- Where the service finds a byte of a context: through the table, or in the reserved pages of a lazy range (R272). The
cause is a code of R236, or 0 while an entry is held back. -/
def State.svcPlace (s : State) (ctx va : Nat) : Except Nat Place :=
  match s.translate (2 ^ 20) ctx va 0 false false with
  | .ok p => .ok p
  | .error c =>
    match (if c.code = 0 then none
      else (find? s.ctxs ctx).bind (fun x => x.lazies.find? (fun l => l.va ≤ va && va < l.va + l.len))) with
    | none => .error c.code
    | some l =>
      let pa := l.pa + (va - l.va)
      .ok { leaf := BitVec.ofNat 64 (leafWord (l.pa + (va - l.va) / l.size * l.size) l.attr true), level := levelOf l.size,
            pa := pa, home := s.homeOf ctx va, key := s.homeOf ctx va * 2 ^ 52 + storeAddr (l.attr.getLsbD 12) pa }

/-- The bytes at [va, va + n) of a context, those of pages that are not mapped left out. -/
def State.svcBytes (s : State) (ctx va : Nat) : Nat → List Byte
  | 0 => []
  | n + 1 =>
    match s.svcPlace ctx va with
    | .ok p => s.homeByte p.key :: s.svcBytes ctx (va + 1) n
    | .error _ => s.svcBytes ctx (va + 1) n

end Sys2Proof.Machine
end

