-- ==== Sys2Proof/Machine/Scoreboard.lean ====
section
/-! DEFINITION. What each instruction reads and writes of its group's registers, as the scoreboard sees it (R232, R282),
and the classes of instructions that issue, order or block alike. A resource is a number: v0 to v127, then s0 to s63 from
128, p0 to p15 from 192, tiles from 208, generators from 224, EM, the register count, and special registers from 1,000 by their
number (R295). -/

namespace Sys2Proof.Machine
open Sys2Proof

def vr (r : VReg) : Nat := r.val
def sr (r : SReg) : Nat := 128 + r.val
def pr (r : PReg) : Nat := 192 + r.val
def tr (r : TReg) : Nat := 208 + r.val
def gr (r : GReg) : Nat := 224 + r.val
def emR : Nat := 232
def countR : Nat := 233
/-- A special register; VCOUNT is the register count (R52). -/
def special (n : BitVec 12) : Nat := if n.toNat = 8 then 233 else 1000 + n.toNat
/-- The CREW register, a queue's QCFG, a window's WST, and the group's DSD (R40, R55, R111, R30). -/
def crewR : Nat := 1007
def queueR (q : Fin 64) : Nat := 1032 + q.val
def winR (w : WReg) : List Nat := [1064 + w.val, 1080 + w.val]
def stackR : List Nat := [1020, 1021]
def vspan (r : VReg) (n : Nat) : List Nat := (List.range n).map (fun i => r.val + i)
def sspan (r : SReg) (n : Nat) : List Nat := (List.range n).map (fun i => 128 + r.val + i)

def srcUses : VSrc → List Nat
  | .vec r => [vr r]
  | .sca r => [sr r]

def xUses : XSrc → List Nat
  | .sca r => [sr r]
  | .gen r => [gr r]

/-- The resources that an instruction reads and writes. -/
def uses : Instr → List Nat × List Nat
  | .nop | .bkpt | .trap _ | .eret | .yield | .cinvAll | .fence _ _ | .exit | .commit _ | .bra _ =>
    ([], [])
  | .leave | .cbar | .cbara =>
    ([], [crewR])
  | .wdrop w =>
    ([], winR w)
  | .wwait w =>
    (winR w, [])
  | .mfsr d n =>
    ([special n], [sr d])
  | .mtsr a n =>
    ([sr a], [special n])
  | .cinv a b | .txinit a b | .txexpect a b | .txwait a b =>
    ([sr a] ++ [sr b], [])
  | .emget d =>
    ([emR], [sr d])
  | .emset a =>
    ([sr a], [emR])
  | .merge | .flip _ =>
    ([emR], [emR] ++ stackR)
  | .ret a | .bras a | .exitH a | .txarrive a =>
    ([sr a], [])
  | .join a =>
    ([sr a], [crewR])
  | .qpush a q =>
    ([sr a], [queueR q])
  | .wset w a | .wsetG w a =>
    ([sr a], winR w)
  | .wwaitMark w a =>
    ([sr a] ++ winR w, [])
  | .calls a =>
    ([sr a], [190])
  | .spawn d a b | .waitx d a b | .sadd d a b | .ssub d a b | .smul d a b | .smulh d a b _ | .sdiv d a b _
  | .srem d a b _ | .sand d a b | .sor d a b | .sxor d a b | .sshl d a b | .sshr d a b | .ssra d a b
  | .smin d a b _ | .smax d a b _ =>
    ([sr a] ++ [sr b], [sr d])
  | .joinNb a p =>
    ([sr a], [192 + p.val] ++ [crewR])
  | .qpushNb a q p =>
    ([sr a], [192 + p.val] ++ [queueR q])
  | .smov d _ =>
    ([], [sr d])
  | .qpop d q =>
    ([], [sr d] ++ [queueR q])
  | .wstat w d | .wmark w d =>
    (winR w, [sr d])
  | .qpopNb d q p =>
    ([], [sr d] ++ [192 + p.val] ++ [queueR q])
  | .vclaim _ | .vgive _ =>
    ([], [countR])
  | .vclaimNb _ p =>
    ([], [192 + p.val] ++ [countR])
  | .braIf p _ | .braIfNot p _ | .brany p _ | .branyNot p _ | .brall p _ | .brallNot p _ =>
    ([pr p] ++ [emR], [])
  | .split p _ | .splitNot p _ =>
    ([pr p] ++ [emR], [emR] ++ stackR)
  | .call _ =>
    ([], [190])
  | .brx a _ =>
    ([vr a] ++ [countR] ++ [emR], [emR] ++ stackR)
  | .ssel d a b p =>
    ([sr a] ++ [sr b] ++ [pr p] ++ [emR], [sr d])
  | .saddImm d a _ | .sandImm d a _ | .sorImm d a _ | .sxorImm d a _ | .sshlImm d a _ | .sshrImm d a _
  | .ssraImm d a _ | .sld d a _ | .sldL d a _ =>
    ([sr a], [sr d])
  | .scmp _ p a b =>
    ([sr a] ++ [sr b], [pr p])
  | .scmpImm _ p a _ =>
    ([sr a], [pr p])
  | .sst d a _ | .sstL d a _ =>
    ([sr d] ++ [sr a], [])
  | .movs a d _ =>
    ([vr a] ++ [countR], [sr d])
  | .vadd d a b | .vsub d a b | .vmul d a b | .vmulhI32 d a b | .vmulhN32 d a b | .vand d a b | .vor d a b
  | .vxor d a b | .vshl d a b | .vshr d a b | .vsra d a b | .vminI32 d a b | .vminN32 d a b | .vmaxI32 d a b
  | .vmaxN32 d a b | .vbfxI32 d a b | .vbfxN32 d a b | .vdivI32 d a b | .vdivN32 d a b | .vremI32 d a b
  | .vremN32 d a b | .shflIdx d a b | .shflUp d a b | .shflDown d a b | .shflXor d a b | .faddF32 d a b
  | .fsubF32 d a b | .fmulF32 d a b | .fmin d a b | .fmax d a b | .faddBf16x2 d a b | .fmulBf16x2 d a b
  | .faddF16x2 d a b | .fmulF16x2 d a b | .fcvtF32Bf16x2 d a b =>
    ([vr a] ++ (srcUses b) ++ [countR] ++ [emR], [vr d])
  | .vmad d a b | .vbfi d a b | .fmaF32 d a b | .fmaBf16x2 d a b | .fmaF16x2 d a b =>
    ([vr d] ++ [vr a] ++ (srcUses b) ++ [countR] ++ [emR], [vr d])
  | .vaddImm d a _ | .vandImm d a _ | .vorImm d a _ | .vxorImm d a _ | .vshlImm d a _ | .vshrImm d a _
  | .vsraImm d a _ | .vmov d a | .vnot d a | .vabs d a | .vclz d a | .vpopc d a | .lscanAddI32 d a
  | .lscanAddF32 d a | .fcvtF32I32 d a | .fcvtF32N32 d a | .fcvtI32F32 d a | .fcvtN32F32 d a | .fcvtF32Bf16 d a
  | .fcvtBf16F32 d a | .fcvtF32F16 d a | .fcvtF16F32 d a | .fcvtF32E8 d a _ _ | .fcvtE8F32 d a _ | .frnd d a
  | .fclass d a | .xrcp d a | .xrsq d a | .xsqrt d a | .xexp d a | .xlog d a | .xsin d a | .xcos d a | .xtanh d a =>
    ([vr a] ++ [countR] ++ [emR], [vr d])
  | .vmovImm d _ | .vlane d =>
    ([countR] ++ [emR], [vr d])
  | .vmovS d b =>
    ([sr b] ++ [countR] ++ [emR], [vr d])
  | .vcmp _ p _ a b | .fcmp _ p _ a b =>
    ([vr a] ++ (srcUses b) ++ [countR] ++ [emR], [pr p])
  | .vsel p d a b =>
    ([pr p] ++ [vr a] ++ (srcUses b) ++ [countR] ++ [emR], [vr d])
  | .voteAny d a | .voteAll d a =>
    ([pr a] ++ [emR], [pr d])
  | .voteBallot d a =>
    ([pr a] ++ [emR], [sr d])
  | .lredAddI32 d a | .lredMinI32 d a | .lredMaxI32 d a | .lredAddF32 d a | .lredMinF32 d a | .lredMaxF32 d a
  | .lredAnd d a | .lredOr d a =>
    ([vr a] ++ [countR] ++ [emR], [sr d])
  | .pset d a =>
    ([sr a] ++ [emR], [pr d])
  | .plog _ d a b =>
    ([pr a] ++ [pr b] ++ [emR], [pr d])
  | .fcvtFx64F32 d a _ =>
    (vspan a 2 ++ [countR] ++ [emR], [vr d])
  | .ldg w _ r b o _ | .ldgAcq w r b o _ | .ldl w r b o _ | .ldlFe w r b o _ | .ldlFec w r b o _ =>
    ([sr b] ++ [vr o] ++ [countR] ++ [emR], vspan r w.regs)
  | .ldgTouch b o _ | .ldlTouch b o _ =>
    ([sr b] ++ [vr o] ++ [countR] ++ [emR], [])
  | .stg w _ r b o _ | .stgRel w r b o _ | .stl w r b o _ | .stlFull w r b o _ | .stlFw w r b o _ =>
    (vspan r w.regs ++ [sr b] ++ [vr o] ++ [countR] ++ [emR], [])
  | .ldlFb r b o _ =>
    ([sr b] ++ [vr o] ++ [countR] ++ [emR], vspan r 1)
  | .stlFb r b o _ =>
    (vspan r 1 ++ [sr b] ++ [vr o] ++ [countR] ++ [emR], [])
  | .atom op d b o ty | .latom op d b o ty =>
    (vspan d (op.regs ty) ++ [sr b] ++ [vr o] ++ [countR] ++ [emR], vspan d (op.regs ty))
  | .red op d b o ty =>
    (vspan d (op.regs ty) ++ [sr b] ++ [vr o] ++ [countR] ++ [emR], [])
  | .mma _ _ c a b _ | .mmas _ _ c a b _ =>
    ([tr c] ++ (xUses a) ++ (xUses b) ++ [1017, 1018, 1019] ++ [emR], [tr c] ++ [1019])
  | .mzero c =>
    ([emR], [tr c])
  | .mdrain c a b _ _ _ =>
    ([tr c] ++ [sr a] ++ [sr b] ++ [1022] ++ [emR], [])
  | .msta c a =>
    ([tr c] ++ [sr a] ++ [emR], [])
  | .mlda c a =>
    ([sr a] ++ [emR], [tr c])
  | .gset g a =>
    (sspan a 4, [gr g])
  | .gget g d =>
    ([gr g], sspan d 4)
  | .gseed g a =>
    ([gr g] ++ [sr a], [gr g])
  | .geval g d a b _ =>
    ([gr g] ++ [vr a] ++ [vr b] ++ [countR] ++ [emR], [vr d])
  | .trapEntry _ _ _ _ | .instancePlacement _ _ _ | .poolRequest _ | .stealRequest _ | .stewardPoolRequest _
  | .setAgeing _ | .setReservation _ | .placementLimitChange _ _ _ _ | .spillRefill _ | .graphComplete _
  | .claimGrant _ | .crewPhaseComplete _ _ | .crewSlotFree _ | .queueWake _ _ | .fullEmptyWake _
  | .markWaitRelease _ | .missEntryGrant _ | .loadDataReturn _ | .sfuResult _ _ | .watchdogExpiry _ _
  | .claimDeadlock _ | .watchNotice _ | .waitxPoll _ | .engineGrant _ | .granuleLanding _ _ _
  | .sourceFault _ _ _ _ _ | .windowResume _ _ _ | .windowStrand _ _ _ | .binDrain _ | .binShip _ _
  | .moduleBinIngress _ _ | .polderPark _ | .commitNotice _ | .applyGrant _ | .apply _ | .commitAck _ _ _
  | .polderOverflow _ _ | .mergeWindowEnd | .pinLine _ _ | .pinForcedWidening _ | .atomicAccept _
  | .pageWalk _ _ _ | .faultService _ | .suspendedRestore _ _ _ | .throttleSet _ _ | .throttleLift _ _
  | .batchForm _ _ | .refreshDue _ _ | .allBankRefresh _ | .scrubRow _ _ _ | .trainOwn _ | .trainRelease _
  | .readCheck _ | .writeCheck _ | .readWriteCheck _ | .checkDone _ | .laneRepair _ _ | .bistMarch _ _
  | .bistCheckerboard _ _ | .bistRetention _ _ | .bistTestDone _ | .controlRegisterWrite _ _ _ _
  | .flitReceive _ _ | .flitReplay _ _ | .pathReplay _ | .planeDown _ _ | .planeUp _ _
  | .multicastRoundClose _ _ | .multicastTimeout _ | .uePacketDrop _ | .dataMessage _ _ _ _ | .launch _ _ _
  | .mapmem _ _ _ _ _ _ | .unmap _ _ | .put _ _ | .get _ _ | .preemptSuspend _ _ | .preemptEnd _ _
  | .preemptHalt _ _ | .attest _ _ | .healthRead _ _ | .healthClear _ _ | .update _ _ | .boot _
  | .coreMappedOut _ | .plainStoreArrival _ | .pfxImm _ | .pfxOp _ _ _ _ | .pfxMod _ _ _ _ _ _ =>
    ([], [])

/-- The resources of a unit: those of its instruction, with the guard and the fourth operand of an OP prefix (R291). -/
def unitUses (i : Instr) (pfx : List PfxWord) : List Nat × List Nat :=
  match pfx.find? (fun x => x.word.toNat / 2 ^ 24 = 5) with
  | none => uses i
  | some x =>
    let w := x.word.toNat
    let vc := match i with
      | .vmad _ _ _ | .fmaF32 _ _ _ | .fmaBf16x2 _ _ _ | .fmaF16x2 _ _ _ => [w / 2 ^ 17 % 128]
      | _ => []
    let guard := if w / 2 ^ 16 % 2 = 1 then [192 + w / 2 ^ 11 % 16] else []
    ((uses i).1 ++ vc ++ guard, (uses i).2)

/-- A younger unit may not issue: it writes what an older incomplete one reads or writes, or reads what it writes. -/
def conflicts (old new : List Nat × List Nat) : Bool :=
  new.2.any (fun r => old.1.contains r || old.2.contains r) || new.1.any (fun r => old.2.contains r)

/-- Instructions that can raise a flag in GSTAT: all that R224 names, and a RED that converts under R142. -/
def raises : Instr → Bool
  | .sdiv _ _ _ _ | .srem _ _ _ _ | .vdivI32 _ _ _ | .vdivN32 _ _ _ | .vremI32 _ _ _ | .vremN32 _ _ _ => true
  | .lredAddF32 _ _ | .lredMinF32 _ _ | .lredMaxF32 _ _ | .lscanAddF32 _ _ => true
  | .faddF32 _ _ _ | .fsubF32 _ _ _ | .fmulF32 _ _ _ | .fmaF32 _ _ _ | .fmin _ _ _ | .fmax _ _ _ => true
  | .faddBf16x2 _ _ _ | .fmulBf16x2 _ _ _ | .fmaBf16x2 _ _ _ => true
  | .faddF16x2 _ _ _ | .fmulF16x2 _ _ _ | .fmaF16x2 _ _ _ | .fcmp _ _ _ _ _ => true
  | .fcvtF32I32 _ _ | .fcvtF32N32 _ _ | .fcvtI32F32 _ _ | .fcvtN32F32 _ _ | .fcvtF32Bf16 _ _ | .fcvtBf16F32 _ _ => true
  | .fcvtF32F16 _ _ | .fcvtF16F32 _ _ | .fcvtF32E8 _ _ _ _ | .frnd _ _ | .fcvtFx64F32 _ _ _ => true
  | .fcvtF32Bf16x2 _ _ _ => true
  | .xrcp _ _ | .xrsq _ _ | .xsqrt _ _ | .xexp _ _ | .xlog _ _ | .xsin _ _ | .xcos _ _ | .xtanh _ _ => true
  | .red _ _ _ _ _ => true
  | _ => false

/-- An MFSR or MTSR of GSTAT, which waits until every older unit that can raise a flag has completed (R232). -/
def touchesGstat : Instr → Bool
  | .mfsr _ n => n = 9
  | .mtsr _ n => n = 9
  | _ => false

/-- Units that issue only when every older unit is complete: majors 0x02 to 0x09, ERET, MERGE, BKPT and TRAP (R232). -/
def serial : Instr → Bool
  | .bra _ | .braIf _ _ | .braIfNot _ _ | .brany _ _ | .branyNot _ _ | .brall _ _ | .brallNot _ _ | .call _ => true
  | .split _ _ | .splitNot _ _ | .flip _ | .brx _ _ | .ret _ | .bras _ | .calls _ | .exit | .exitH _ => true
  | .spawn _ _ _ | .join _ | .joinNb _ _ | .waitx _ _ _ | .commit _ | .qpush _ _ | .qpushNb _ _ _ => true
  | .qpop _ _ | .qpopNb _ _ _ | .vclaim _ | .vclaimNb _ _ | .vgive _ | .eret | .merge | .bkpt | .trap _ => true
  | _ => false

/-- Units after which no younger unit issues before they have completed: those that decide what comes next, and COMMIT
(R151, R232). -/
def holdsIssue : Instr → Bool
  | .split _ _ | .splitNot _ _ | .flip _ | .brx _ _ | .merge | .exit | .exitH _ | .commit _ => true
  | .bra _ | .braIf _ _ | .braIfNot _ _ | .brany _ _ | .branyNot _ _ | .brall _ _ | .brallNot _ _ | .call _ => true
  | .ret _ | .bras _ | .calls _ | .eret | .bkpt | .trap _ => true
  | _ => false

/-- Units that are acquires whatever their scope, which hold back the group's later accesses (R161): an `.fe` or `.fec` load too,
although R168 has a load that waits on a full-empty bit hold back no store to other bytes (DESIGN CHOICE, unsafe: assumption
log, 27). -/
def acquires : Instr → Bool
  | .waitx _ _ _ | .ldlFe _ _ _ _ _ | .ldlFec _ _ _ _ _ | .qpop _ _ | .qpopNb _ _ _ => true
  | .txwait _ _ | .wwait _ | .wwaitMark _ _ | .cbar => true
  | _ => false

/-- Units that are releases whatever their scope, as far as younger units issue before they complete (R161). -/
def releases : Instr → Bool
  | .stlFull _ _ _ _ _ | .stlFw _ _ _ _ _ | .txarrive _ | .txexpect _ _ | .cbar | .cbara | .leave | .wset _ _ | .wsetG _ _ => true
  | _ => false

/-- Units that store, or hand on to another group or agent what the group has stored (R160, R161). -/
def stores : Instr → Bool
  | .stg _ _ _ _ _ _ | .stgRel _ _ _ _ _ | .sst _ _ _ | .sstL _ _ _ | .stl _ _ _ _ _ | .stlFull _ _ _ _ _ | .stlFw _ _ _ _ _
  | .stlFb _ _ _ _ | .atom _ _ _ _ _ | .red _ _ _ _ _ | .latom _ _ _ _ _ | .msta _ _ | .mdrain _ _ _ _ _ _ => true
  | .txinit _ _ | .txarrive _ | .txexpect _ _ | .cbar | .cbara | .leave | .wset _ _ | .wsetG _ _ | .fence _ _ => true
  | .qpush _ _ | .qpushNb _ _ _ | .spawn _ _ _ | .commit _ | .exit | .exitH _ => true
  | .split _ _ | .splitNot _ _ | .flip _ | .brx _ _ | .merge => true
  | _ => false

/-- Units that make accesses of R160, or are releases that order them (R161). -/
def accesses : Instr → Bool
  | .sld _ _ _ | .sst _ _ _ | .sldL _ _ _ | .sstL _ _ _ => true
  | .ldg _ _ _ _ _ _ | .ldgAcq _ _ _ _ _ | .ldgTouch _ _ _ | .stg _ _ _ _ _ _ | .stgRel _ _ _ _ _ => true
  | .ldl _ _ _ _ _ | .ldlFe _ _ _ _ _ | .ldlFec _ _ _ _ _ | .ldlFb _ _ _ _ | .ldlTouch _ _ _ => true
  | .stl _ _ _ _ _ | .stlFull _ _ _ _ _ | .stlFw _ _ _ _ _ | .stlFb _ _ _ _ => true
  | .atom _ _ _ _ _ | .red _ _ _ _ _ | .latom _ _ _ _ _ => true
  | .mma _ _ _ _ _ _ | .mmas _ _ _ _ _ _ | .mdrain _ _ _ _ _ _ | .msta _ _ | .mlda _ _ => true
  | .wset _ _ | .wsetG _ _ | .txinit _ _ | .txarrive _ | .txexpect _ _ | .txwait _ _ | .wwait _ | .wwaitMark _ _ => true
  | .qpush _ _ | .qpushNb _ _ _ | .qpop _ _ | .qpopNb _ _ _ | .waitx _ _ _ | .spawn _ _ _ | .commit _ => true
  | .fence _ _ | .cbar | .cbara | .exit | .exitH _ | .split _ _ | .splitNot _ _ | .flip _ | .brx _ _ | .merge => true
  | _ => false

/-- WSET. -/
def bindsWindow : Instr → Bool
  | .wset _ _ | .wsetG _ _ => true
  | _ => false

/-- Units that read a window's state or mark, or drop it. -/
def namesWindow : Instr → Bool
  | .wdrop _ | .wstat _ _ | .wmark _ _ => true
  | .mfsr _ n => 0x40 ≤ n && n ≤ 0x5F
  | _ => false

/-- A younger unit `i` stays behind the incomplete unit `o` where one binds a window, or names one, and the other makes an
access (DEDUCED, unsafe: assumption log, 27). -/
def windowOrder (o i : Instr) : Bool :=
  (bindsWindow o && (accesses i || namesWindow i)) || (accesses o && namesWindow i)

/-- Units of the matrix arrays, which a steward core does not have (R11). -/
def onArray : Instr → Bool
  | .mma _ _ _ _ _ _ | .mmas _ _ _ _ _ _ | .mzero _ | .mdrain _ _ _ _ _ _ | .msta _ _ | .mlda _ _ => true
  | _ => false

end Sys2Proof.Machine
end

