-- ==== Sys2Proof/Machine/Health.lean ====
section
/-! DEFINITION. The health record (R275), the replace request (R281), and counters that saturate. -/

namespace Sys2Proof.Machine
open Sys2Proof

/-- A counter one further; counters saturate at their largest value (R275). -/
def countUp (bits n : Nat) : Nat := min (n + 1) (2 ^ bits - 1)

/-- The low `n` bytes of a value. -/
def bytesLE (n v : Nat) : List Byte := (cellsLE 0 n v).map Prod.snd

/-- The mask of these numbers. -/
def maskOf (ns : List Nat) : Nat := ns.foldl (fun m n => m ||| 2 ^ n) 0

/-- A consumer has met an uncorrectable codeword of device memory, the one of this key: the health record counts it (R275). -/
def State.noteWord (s : State) (key : Nat) : State :=
  let ch := (interleave false (key % 2 ^ 52)).1
  let c := s.chan ch
  s.setChan ch { c with uncorr := countUp 32 c.uncorr, lastBad := key % 2 ^ 52 / 64 * 64 }

/-- The codewords of this module under these bytes that are uncorrectable. -/
def State.badCodewords (s : State) (keys : List Nat) : List Nat :=
  unionOnce [] ((keys.filter (fun k => k / 2 ^ 52 = s.device && s.bad.contains (k / 64))).map (fun k => k / 64))

/-- The service has consumed these bytes: the health record counts the uncorrectable codewords among them (R239, R275). -/
def State.noteWords (s : State) (keys : List Nat) : State := (s.badCodewords keys).foldl (fun t w => t.noteWord (64 * w)) s

/-- A channel's entry, 256 bytes. -/
def State.chanEntry (s : State) (ch : Nat) : List Byte :=
  let c := s.chan ch
  let p := s.pchan (2 * ch)
  let q := s.pchan (2 * ch + 1)
  let taps := fun (x : PChan) (w : Bool) => (List.range 34).map (fun i => look (32 : Byte) (if w then x.wdly else x.rdly) i)
  bytesLE 4 c.corr ++ bytesLE 4 c.uncorr ++ bytesLE 8 c.lastBad ++ bytesLE 4 c.fxasat ++ bytesLE 2 c.polder
    ++ bytesLE 2 c.events ++ bytesLE 2 p.lrep.toNat ++ bytesLE 2 q.lrep.toNat ++ bytesLE 4 c.parity
    ++ bytesLE 8 (maskOf p.retired) ++ bytesLE 8 (maskOf q.retired) ++ bytesLE 4 c.lostN ++ bytesLE 4 c.lost0
    ++ bytesLE 4 c.lost1 ++ bytesLE 4 c.lastPar ++ taps p false ++ taps p true ++ taps q false ++ taps q true
    ++ List.replicate 56 0

/-- A port's entry, 16 bytes. -/
def Port.entry (p : Port) : List Byte :=
  bytesLE 1 p.step ++ List.replicate 3 0 ++ bytesLE 4 p.crcfail ++ bytesLE 4 p.replay ++ bytesLE 4 p.retrain

/-- The health record, 67,584 bytes, which a reply carries whole (R271, R275; DEDUCED, unsafe: assumption log, 26). -/
def State.healthRecord (s : State) : List Byte :=
  bytesLE 4 1 ++ bytesLE 4 s.replace ++ bytesLE 8 (s.nextSeq - 1)
    ++ bytesLE 40 (maskOf ((List.range Config.cores).filter (fun c => (s.core c).mappedOut)))
    ++ bytesLE 8 s.cycle ++ bytesLE 4 s.throttles ++ bytesLE 4 s.ueDrop0 ++ bytesLE 4 s.ueDrop1 ++ List.replicate 180 0
    ++ (List.range 256).flatMap s.chanEntry
    ++ (List.range 96).flatMap (fun i => bytesLE 8 (look 0 s.forced i))
    ++ (List.range 18).flatMap (fun k => (look ({} : Port) s.ports k).entry) ++ List.replicate 736 0

/-- Clearing: every counter and EVENTS field is zero afterwards, and nothing else (R275; DEDUCED, unsafe: assumption log, 26). -/
def State.clearHealth (s : State) : State :=
  { s with
    throttles := 0, ueDrop0 := 0, ueDrop1 := 0, forced := [],
    chans := mapVals s.chans (fun _ c => { c with
      corr := 0, uncorr := 0, fxasat := 0, events := 0, parity := 0, lostN := 0 }),
    ports := mapVals s.ports (fun _ p => { p with crcfail := 0, replay := 0, retrain := 0 }) }

/-- The replace request is raised for `limit` (1 to 5), unless it is raised already: an unsolicited HEALTH reply goes to
every open connection (R281). -/
def State.raiseReplace (s : State) (limit : Nat) : State :=
  if s.replace % 2 = 1 then s
  else
    let t := { s with replace := 1 + 2 * limit }
    { t with replies := t.replies ++ t.conns.map (fun x => {
        conn := x.1, opc := 8, flags := 3, tag := 0, ctx := 0, status := 0, cause := 0, body := t.healthRecord }) }

/-- Compute cores mapped out: 8 in one cluster, or a steward core (R281). -/
def State.coreLimits (s : State) : State :=
  let out := fun (cs : List Nat) => (cs.filter (fun c => (s.core c).mappedOut)).length
  if 8 ≤ out (List.range 128) ∨ 8 ≤ out ((List.range 128).map (fun c => 128 + c)) then s.raiseReplace 1
  else if 1 ≤ out [256, 257, 258, 259] then s.raiseReplace 5 else s

/-- Freilo ports: 3 down, or 6 at reduced lanes (R281). -/
def State.portLimits (s : State) : State :=
  if 3 ≤ (s.ports.filter (fun p => p.2.step = 3)).length
    ∨ 6 ≤ (s.ports.filter (fun p => p.2.step = 1 || p.2.step = 2)).length then s.raiseReplace 4 else s

end Sys2Proof.Machine
end

