-- ==== Sys2Proof/Machine/Flits.lean ====
section
/-! DEFINITION. Flits: their form, CRC, credit, and what a port keeps (R264, R265). Port k is this module's on plane k. -/

namespace Sys2Proof.Machine
open Sys2Proof

/-- One bit of CRC-32C, reflected (PRESUMED, unsafe: assumption log, 10). -/
def crcBit (c : Word32) : Word32 := if c.getLsbD 0 then (c >>> 1) ^^^ 0x82F63B78 else c >>> 1
def crcByte (c : Word32) (b : Byte) : Word32 :=
  crcBit (crcBit (crcBit (crcBit (crcBit (crcBit (crcBit (crcBit (c ^^^ b.setWidth 32))))))))
/-- CRC-32C of some bytes. -/
def crc32c (bs : List Byte) : Word32 := ~~~(bs.foldl crcByte 0xFFFFFFFF)

/-- `n` bytes of a message from offset `a` on, as a number. -/
abbrev field (bs : List Byte) (a n : Nat) : Nat := leField bs a n

/-- The flit is whole: 128 bytes whose CRC matches. -/
def flitGood (f : List Byte) : Bool := f.length == 128 && field f 124 4 == (crc32c (f.take 124)).toNat

def flitVc (f : List Byte) : Nat := field f 0 2 % 4
def flitSeq (f : List Byte) : Nat := field f 2 2
def flitDest (f : List Byte) : Nat := field f 4 2 % 2 ^ 9
def flitOrigin (f : List Byte) : Nat := field f 6 2 % 2 ^ 9

/-- A flit of this module with the first bytes of its payload. -/
def State.mkFlit (s : State) (vc seq dest : Nat) (payload : List Byte) : List Byte :=
  let body := bytesLE 2 vc ++ bytesLE 2 seq ++ bytesLE 2 dest ++ bytesLE 2 s.device ++ (payload ++ List.replicate 116 0).take 116
  body ++ bytesLE 4 (crc32c body).toNat

def State.port (s : State) (p : Nat) : Port := look {} s.ports p
def State.setPort (s : State) (p : Nat) (x : Port) : State := { s with ports := Machine.put s.ports p x }

/-- The port sends a flit; it keeps the last 512 for replay (R265). -/
def State.emitFlit (s : State) (p vc dest : Nat) (payload : List Byte) : State :=
  let x := s.port p
  let kept := x.kept ++ [(x.txSeq, s.mkFlit vc x.txSeq dest payload)]
  let kept := kept.drop (kept.length - 512)
  s.setPort p { x with
    txSeq := (x.txSeq + 1) % 2 ^ 16, kept := kept, failed := delWhere x.failed (fun q => !kept.any (fun k => k.1 = q)) }

/-- The virtual channel of the port has credit, and no flit waits for it (R264). -/
def State.hasCredit (s : State) (p vc : Nat) : Bool :=
  !(s.port p).noCredit.contains vc && !(s.port p).waiting.any (fun w => w.1 = vc)

/-- A flit for the port: it is sent, or waits for the credit of its virtual channel, which holds back no other (R264). -/
def State.sendFlit (s : State) (p vc dest : Nat) (payload : List Byte) : State :=
  if s.hasCredit p vc then s.emitFlit p vc dest payload
  else s.setPort p { s.port p with waiting := (s.port p).waiting ++ [(vc, dest, payload)] }

/-- Credit of a virtual channel is withheld at the next hop, or returns (R19, R264). -/
def State.setCredit (s : State) (p vc : Nat) (on : Bool) : State :=
  let x := s.port p
  if on then
    (x.waiting.filter (fun w => w.1 = vc)).foldl (fun t w => t.emitFlit p vc w.2.1 w.2.2)
      (s.setPort p { x with noCredit := x.noCredit.filter (fun v => v ≠ vc), waiting := x.waiting.filter (fun w => w.1 ≠ vc) })
  else s.setPort p { x with noCredit := addOnce x.noCredit vc }

/-- The payload of a request: its tag, its address at its home, a length, its bytes (DESIGN CHOICE, unsafe: assumption log, 3). -/
def reqPayload (tag pa n : Nat) (bs : List Byte) : List Byte := bytesLE 4 tag ++ bytesLE 8 pa ++ bytesLE 2 n ++ bs

/-- A response to module `m` goes out on the plane of its request, or the next one up: its tag, and what it carries (R266, R268;
DESIGN CHOICE, unsafe: assumption log, 3). -/
def State.respond (s : State) (plane m tag : Nat) (bs : List Byte) : State :=
  (List.range ((bs.length + 111) / 112 + (if bs = [] then 1 else 0))).foldl (fun t i =>
    t.sendFlit ((s.planeFor m plane).getD plane) 1 m (bytesLE 4 tag ++ (bs.drop (112 * i)).take 112)) s

/-- The remote lines that these lanes read, each with its home and the plane on which its request goes; none while one of those
planes has no credit for requests (R264, R266). -/
def State.readPlanes (s : State) (ls : List GLane) : Option (List (Nat × Nat × Nat)) :=
  let far := ((ls.filter (fun x => x.at_.home ≠ s.device)).map (fun x =>
    (x.at_.key / 128, x.at_.home, (s.planeFor x.at_.home (x.at_.pa / 128 % 18)).getD 0))).eraseDups
  if far.all (fun x => s.hasCredit x.2.2 0) then some far else none

/-- Requests for remote lines go out, each under a tag of its own (R178, R266). -/
def State.sendReads (s : State) (far : List (Nat × Nat × Nat)) : State :=
  far.foldl (fun t x => { t with nextTag := t.nextTag + 1 }.sendFlit x.2.2 0 x.2.1
    (reqPayload t.nextTag (x.1 * 128 % 2 ^ 52) 128 [])) s

end Sys2Proof.Machine
end

