-- ==== Sys2Proof/Machine/Launches.lean ====
section
/-! DEFINITION. Launch records in device memory (R276), and the end of the sets, instances and launches of a context or a graph
(R231, R238, R273). -/

namespace Sys2Proof.Machine
open Sys2Proof

/-- A launch record of 128 bytes (R276). -/
def Launch.record (l : Launch) : List Byte :=
  let n8 := fun (v : Nat) => (cellsLE 0 8 v).map Prod.snd
  let n4 := fun (v : Nat) => (cellsLE 0 4 v).map Prod.snd
  n8 l.seq ++ n8 l.graph ++ n8 l.seed.toNat ++ n8 l.cbase.toNat ++ n4 l.mode ++ n4 l.events ++ n8 (l.start.getD 0)
    ++ n8 (l.ending.getD 0) ++ (l.digest ++ List.replicate 32 0).take 32 ++ List.replicate 40 0

/-- The record in a slot of the ring lies in a pseudo-channel in training, or in a row that is being copied. -/
def State.recordHeld (s : State) (slot : Nat) : Bool :=
  match s.ringBase with
  | none => false
  | some a => s.keyHeld (s.device * 2 ^ 52 + a + 128 * slot) || s.keyHeld (s.device * 2 ^ 52 + a + 128 * slot + 64)

/-- The service brings the launch records in device memory up to date, as soon as one has changed, before a completion reply
and before a GET reads; a record in a pseudo-channel in training waits (R258, R276; DESIGN CHOICE, safe: assumption log, 41). -/
def State.flushRing (s : State) : State :=
  match s.ringBase with
  | none => s
  | some a =>
    { s with mem := s.ring.foldl (fun m x =>
        let at_ := s.device * 2 ^ 52 + a + 128 * x.1
        if s.recordHeld x.1 then m else wrBytes m ((x.2.record).mapIdx (fun i b => (at_ + i, b)))) s.mem }

/-- Ends the sets, instances and launches that the three tests pick out, for cause `code`: their groups stop, what they
hold is free, and each launch that has not completed is answered with status 1 and the cause, after its end cycle is in its
record (R231, R238, R273, R276). -/
def State.endWhere (s : State) (set : Nat → TaskSet → Bool) (inst : Inst → Bool) (launch : Launch → Bool) (code : Nat) : State :=
  let gone : Nat → Bool := fun k => k ≠ noGroup && (s.grp k).live && inst (s.inst (instKey k (s.grp k)))
  let s := s.forgetGroups gone
  let dead := s.insts.filter (fun x => x.2.live && inst x.2)
  let cores := mapVals s.cores (fun k c => { (c.without gone).freeMiss ((s.groups.filter (fun x => x.1 / 64 = k && gone x.1)).map
      (fun x => (x.2.flight.map Flight.miss).sum)).sum with
    used := c.used - ((dead.filter (fun x => x.1 / 16 = k)).map (fun x => x.2.held)).sum,
    answer := c.answer.filter (fun a => match find? s.sets a.1 with
      | some t => !set a.1 t
      | none => false) })
  let gone_ : Nat → Bool := fun h => match find? s.sets h with
    | some t => set h t
    | none => true
  let open_ := s.ring.filter (fun x => launch x.2 && x.2.ending = none)
  let t := { s with
    groups := mapVals s.groups (fun k g => if gone k then {} else g),
    insts := mapVals s.insts (fun _ i => if i.live && inst i then {} else i),
    cores := cores,
    sets := s.sets.filter (fun x => !set x.1 x.2),
    spill := s.spill.filter (fun h => !gone_ h),
    resv := s.resv.filter (fun x => !gone_ x.2.1),
    suspd := s.suspd.filter (fun x => !gone_ x.2.set),
    ring := mapVals s.ring (fun _ l =>
      if launch l && l.ending = none then { l with ending := some s.cycle, cause := some code } else l) }.flushRing
  { t with
    replies := s.replies ++ open_.map (fun x => {
        conn := x.2.conn, opc := 1, flags := 5, tag := x.2.tag, ctx := x.2.ctx, status := 1, cause := code,
        body := (cellsLE 0 8 x.2.seq).map Prod.snd ++ (cellsLE 0 8 s.cycle).map Prod.snd ++ List.replicate 32 0 }) }

/-- Ends context `c` for cause `code`. -/
def State.endContext (s : State) (c code : Nat) : State :=
  let t := s.endWhere (fun _ t => t.ctx = c) (fun i => i.ctx = c) (fun l => l.ctx = c) code
  { t with
    graphs := mapVals t.graphs (fun _ g => if g.ctx = c then { g with done := true } else g),
    ctxs := mapVals t.ctxs (fun k x => if k = c then { x with ended := true } else x) }

/-- Ends graph `gr` for cause `code`. -/
def State.endGraph (s : State) (gr code : Nat) : State :=
  let t := s.endWhere (fun _ t => t.graph = gr) (fun i => match find? s.sets i.set with
      | some t => t.graph = gr
      | none => false) (fun l => l.graph = gr) code
  { t with graphs := mapVals t.graphs (fun k g => if k = gr then { g with done := true } else g) }

end Sys2Proof.Machine
end

