-- ==== Sys2Proof/Machine/Marks.lean ====
section
/-! DEFINITION. Keys of bytes, the windows whose destination covers a byte, first touch and landing marks (R119 to R122),
and the same-byte order of a group's accesses (R164). A key is home × 2^52 + physical address for a global byte,
2^70 + core × 2^20 + offset for a local one, 2^71 + core × 2^22 + offset for one of the B-store. -/

namespace Sys2Proof.Machine
open Sys2Proof

def localBase : Nat := 2 ^ 70
def bstoreBase : Nat := 2 ^ 71
/-- The key of a local byte, by the core and offset at which the state keeps it. -/
def localKey (at_ : Nat) : Nat := localBase + at_
def bstoreKey (at_ : Nat) : Nat := bstoreBase + at_

/-- The place of the first byte of an instance's local memory on its core (R101). -/
def Inst.localStart (i : Inst) (core : Nat) : Nat := core * 2 ^ 20 + i.lmbase * 512

/-! ## Sizes of a window (R115) -/

/-- The size of an element selector (R117); 0 for one that is refused. -/
def elemSize (sel : Nat) : Nat :=
  match sel with
  | 0 => 4
  | 1 => 2
  | 2 => 1
  | 3 => 8
  | 4 => 4
  | 5 => 2
  | 6 => 2
  | 7 => 1
  | 8 => 1
  | 9 => 1
  | _ => 0

def WinRec.dkind (r : WinRec) : Nat := fld r.ctl 0 4
def WinRec.sfmt (r : WinRec) : Nat := fld r.ctl 4 4
def WinRec.dfmt (r : WinRec) : Nat := fld r.ctl 8 4
def WinRec.red (r : WinRec) : Nat := fld r.ctl 12 3
def WinRec.setfull (r : WinRec) : Bool := r.ctl / 2 ^ 15 % 2 = 1
def WinRec.txbOn (r : WinRec) : Bool := r.ctl / 2 ^ 16 % 2 = 1
def WinRec.extent (r : WinRec) (d : Nat) : Nat := r.ext.getD d 0
/-- The destination stride of dimension d, for d from 1 to 3. -/
def WinRec.dstride (r : WinRec) (d : Nat) : Nat := r.dstr.getD (d - 1) 0

/-- span0 to span3 (R115). -/
def WinRec.span (r : WinRec) : Nat → Nat
  | 0 => r.extent 0 * elemSize r.dfmt
  | d + 1 => (r.extent (d + 1) - 1) * r.dstride (d + 1) + r.span d

/-- TOTAL: span3 rounded up to a multiple of 16. -/
def WinRec.total (r : WinRec) : Nat := (r.span 3 + 15) / 16 * 16

/-! ## Uncorrectable words of local memory and the B-store (R23, R239) -/

/-- A word of these bytes is uncorrectable. -/
def State.badSram (s : State) (key n : Nat) : Bool := s.sramBad.any (fun w => key < 8 * w + 8 && 8 * w < key + n)

/-- The cause 0x09 of the first of these ranges (address, key, length) with such a word. -/
def State.sramCause (s : State) (rs : List (Nat × Nat × Nat)) : Option Cause :=
  (rs.find? (fun r => s.badSram r.2.1 r.2.2)).map (fun r => ⟨9, BitVec.ofNat 64 r.1, if bstoreBase ≤ r.2.1 then 1 else 0⟩)

/-- These ranges (key, length) have been written: a word of which every byte is new is good again. -/
def State.healSram (s : State) (rs : List (Nat × Nat)) : State :=
  if s.sramBad = [] then s
  else
    let isNew : Nat → Bool := fun a => rs.any (fun r => r.1 ≤ a && a < r.1 + r.2)
    { s with sramBad := s.sramBad.filter (fun w => !(List.range 8).all (fun i => isNew (8 * w + i))) }

/-! ## Windows over a byte -/

/-- The key of the first byte of a local or B-store destination. -/
def Window.keyBase (w : Window) (core : Nat) (i : Inst) : Option Nat :=
  match w.rcd.dkind with
  | 0 => some (localKey (i.localStart core + w.rcd.dst % 2 ^ 20))
  | 1 => some (bstoreKey (core * 2 ^ 22 + w.rcd.dst))
  | _ => none

/-- The offset of a byte in the window's destination, if it lies there. -/
def Window.offsetOf (w : Window) (core : Nat) (i : Inst) (key : Nat) : Option Nat :=
  let inside := fun base => if base ≤ key ∧ key < base + w.total then some (key - base) else none
  match w.rcd.dkind with
  | 0 => inside (localKey (i.localStart core + w.rcd.dst % 2 ^ 20))
  | 1 => inside (bstoreKey (core * 2 ^ 22 + w.rcd.dst))
  | _ =>
    match w.lines.idxOf? (key / 128) with
    | none => none
    | some j =>
      let a := (w.rcd.dst / 128 + j) * 128 + key % 128
      if w.rcd.dst ≤ a ∧ a < w.rcd.dst + w.total then some (a - w.rcd.dst) else none

/-- Lists of numbers compared from the left. -/
def lexLess : List Nat → List Nat → Bool
  | [], _ => false
  | _ :: _, [] => false
  | a :: as, b :: bs => a < b || (a = b && lexLess as bs)

/-- Window `a` was bound before window `b` of its core (R125). -/
def Window.before (a b : Window) : Bool :=
  lexLess [a.bound, a.issued, a.slot, a.order] [b.bound, b.issued, b.slot, b.order]

/-- The keys of the granules of `n` bytes from `key` on, which lie in one granule or begin one. -/
def granuleKeys (key n : Nat) : List Nat := (List.range ((n + 15) / 16)).map (fun i => key + 16 * i)

/-- The windows that are bound over a byte. -/
def State.covers (s : State) (key : Nat) : List Cover :=
  s.insts.flatMap (fun x => if x.2.live then
    x.2.wins.filterMap (fun y =>
      if y.2.state = .empty then none
      else (y.2.offsetOf (x.1 / 16) x.2 key).map (fun o => ⟨x.1, y.1, y.2, o⟩)) else [])

/-- The byte's granule lies at or above the mark (R120). -/
def Cover.above (c : Cover) : Bool := c.w.mark < 16 * (c.off / 16 + 1)

/-- The byte's granule has not landed yet in some window over it. -/
def State.markedOff (s : State) (key : Nat) : Bool := (s.covers key).any (fun c => c.above && c.w.state ≠ .landed)

/-- Changes window `n` of the instance of key `k`. -/
def State.onWin (s : State) (k n : Nat) (f : Window → Window) : State :=
  let i := s.inst k
  s.setInst k { i with wins := Machine.put i.wins n (f (look {} i.wins n)) }

/-- Starts an ARMED window (R119). -/
def Window.start (w : Window) : Window := if w.state = .armed then { w with state := .landing } else w

/-- First touch of every ARMED window over these bytes (R119). -/
def State.touch (s : State) : List Nat → State
  | [] => s
  | k :: ks =>
    ((s.covers k).foldl (fun t c => if c.w.state = .armed then t.onWin c.inst c.win Window.start else t) s).touch ks

/-- The cause 0x08 of an access at `addr` to a STRANDED window (R120, R236); for a WWAIT, which names no lane, `addr` is zero
(DESIGN CHOICE, unsafe: assumption log, 13). -/
def strandedCause (addr : Nat) (c : Cover) : Cause :=
  ⟨8, BitVec.ofNat 64 addr, BitVec.ofNat 64 (c.win + 256 * c.w.strand)⟩

/-- The first of these (address, key) pairs that reaches a STRANDED window at or above its mark, as its cause. -/
def State.stranded (s : State) (ks : List (Nat × Nat)) : Option Cause :=
  (ks.findSome? (fun x => ((s.covers x.2).find? (fun c => c.w.state = .stranded && c.above)).map (fun c => (x.1, c)))).map
    (fun x => strandedCause x.1 x.2)

/-- A window holds back an access to its byte. -/
def Cover.holds (c : Cover) : Bool :=
  c.above && (match c.w.state with
    | .armed => true
    | .landing => true
    | .frozen => true
    | .empty => false
    | .stranded => false
    | .landed => false)

/-- The wait that landing marks impose on an access to these keys (R120). -/
def State.markWait (s : State) (ks : List Nat) : Option Wait :=
  let hs := ks.flatMap (fun k => (s.covers k).filter Cover.holds)
  if hs = [] then none else some (.mark (hs.any (fun c => c.w.state = .frozen)))

/-! ## Same-byte order (R164) -/

def Span.overlaps (a b : Span) : Bool := a.key < b.key + b.len && b.key < a.key + a.len

/-- An older incomplete unit of the group still has an access to one of these bytes to make, a load as well as a store: whatever
their kinds, the younger one waits for it. -/
def Group.sameBytes (g : Group) (u : Flight) (ss : List Span) : Bool :=
  ((g.older u).filter (fun o => !o.done)).any (fun o => o.spans.any (fun a => ss.any (fun b => a.overlaps b)))

/-! ## What holds an access back at its home slice -/

/-- An agent of core `core` lies inside an open scope of a line pinned to `holder`, of the same module (R175). A cluster is the 128
compute cores of a die (R2, R10), and for a steward core that holds a line those of its own die (DEDUCED, unsafe: assumption log,
20). -/
def insideScope (holder core scope : Nat) : Bool :=
  core = holder || 6 ≤ scope || (scope = 5 && core < Config.computeCores && dieOf core = dieOf holder)

/-- The pinned line serves core `core` of module `m` (R175). -/
def Pin.admits (p : Pin) (device m core : Nat) : Bool :=
  8 ≤ p.scope || (m = p.module.getD device && insideScope p.core core p.scope)

/-- The number under which the service's requests to remote homes are counted: after every core's (R266). -/
def serviceCore : Nat := 2 ^ 16

/-- The core that makes a request. -/
def Req.core : Req → Nat
  | .unit k _ | .fetch k => coreOf k
  | .store c => c
  | .engine ik _ => ik / 16
  | .service | .far _ _ => serviceCore

/-- A pin refuses a request for a line: the service lies outside every scope below system (R175). -/
def State.refuses (s : State) (r : Req) (line : Nat) : Bool :=
  match find? s.pins line with
  | none => false
  | some p =>
    match r with
    | .service => true
    | .far m c => !p.admits s.device m c
    | r => !p.admits s.device s.device r.core

/-- What names a request of another module. -/
def farReqOf : FarAsk → FarReq
  | .store r _ _ => r
  | .atom r _ _ _ _ _ _ => r
  | .load r _ => r

/-- The key here of the address that another module's request names. -/
def State.farKey (s : State) (r : FarReq) : Nat := s.device * 2 ^ 52 + r.pa

/-- The request is still made: its unit has waited since, its store or its window is still on its way. -/
def State.reqLive (s : State) (x : PinWait) : Bool :=
  match x.req with
  | .unit k f => (s.grp k).flight.any (fun u => u.first = f && !u.done && u.since ≤ x.since
      && (u.wait = .home || u.wait = .accept || u.wait = .lines))
  | .fetch k => (s.grp k).live && (match s.translate (coreOf k) (s.grp k).ctx (s.grp k).pc.toNat 0 false true with
      | .ok p => p.key / 128 = x.line
      | .error _ => false)
  | .store c => (s.core c).stores.any (fun e => e.key / 128 = x.line)
  | .engine ik n => (s.inst ik).live && ((look {} (s.inst ik).wins n).state = .landing || (s.inst ik).tobind ≠ [])
  | .service => s.svcStores.any (fun e => e.key / 128 = x.line) || s.conns.any (fun c => c.2.queue ≠ [])
    || s.graphs.any (fun g => !g.2.done && g.2.commit.isSome)
  | .far m c => s.farQueue.any (fun i =>
      (farReqOf i).module = m && (farReqOf i).core = c && s.farKey (farReqOf i) / 128 = x.line)

/-- An older refused request for the line has still to be granted, and no pin refuses any of its lines now: it goes first
(R175). -/
def State.behind (s : State) (r : Req) (line : Nat) : Bool :=
  (s.refusals.takeWhile (fun x => !(x.line = line && x.req = r))).any (fun x =>
    x.line = line && s.reqLive x && !s.refuses x.req line
      && (match x.req with
        | .unit k f => !((s.grp k).flight.filter (fun u => u.first = f)).any (fun u =>
            u.spans.any (fun a => s.refuses x.req (a.key / 128)))
        | _ => true))

/-- The line does not serve this request now. -/
def State.lineShut (s : State) (r : Req) (line : Nat) : Bool := s.refuses r line || s.behind r line

/-- Notes that a request for a line is refused, or that it is not. -/
def State.noteRefusal (s : State) (r : Req) (line : Nat) : State :=
  if s.pins = [] ∧ s.refusals = [] then s
  else
    let mine : PinWait → Bool := fun x => x.line = line && x.req = r
    if s.lineShut r line = false then { s with refusals := s.refusals.filter (fun x => !mine x) }
    else if s.refusals.any mine then s
    else { s with refusals := s.refusals.filter s.reqLive ++ [⟨line, r, s.cycle⟩] }

/-- Notes the same of each of these lines. -/
def State.noteLines (s : State) (r : Req) (lines : List Nat) : State := lines.foldl (fun t l => t.noteRefusal r l) s

/-- A home slice holds a word of these `n` bytes for an atomic, which is not that of unit `first` of group `k` (R311). -/
def State.wordHeld (s : State) (k : Nat) (first : Word64) (key n : Nat) : Bool :=
  s.aholds.any (fun h => !(h.grp = k && h.unit = first) && h.key < key + n && key < h.key + h.len)

/-- The cycle in which a unit issued: this one, where it issues now. -/
def State.ageOf (s : State) (k : Nat) (u : Flight) : Nat :=
  if (s.grp k).flight.any (fun x => x.first = u.first) then u.since else s.cycle

/-- A word that is held for another instruction, and for one that is older than one of group `k` issued in cycle `since`
(R311): the group breaks ties, and the core number with it. -/
def State.heldByOlder (s : State) (k since : Nat) (first : Word64) (n : Nat) (keys : List Nat) : Bool :=
  s.aholds.any (fun h => !(h.grp = k && h.unit = first) && keys.any (fun a => h.key < a + n && a < h.key + h.len)
    && (h.since < since || (h.since = since && h.grp < k)))

/-- The words that home slices hold for unit `first` of group `k` become `keys`: it takes them from younger instructions, and
releases any other (R311). -/
def State.holdWords (s : State) (k since : Nat) (first : Word64) (n : Nat) (keys : List Nat) : State :=
  { s with aholds := s.aholds.filter (fun h => !(h.grp = k && h.unit = first)
      && !keys.any (fun a => h.key < a + n && a < h.key + h.len)) ++ keys.map (fun a => ⟨a, n, since, k, first⟩) }

/-- A request of the core for this line is on a path that has failed, and is not yet acknowledged (R179). -/
def State.pathHeld (s : State) (core key : Nat) : Bool :=
  s.remote.any (fun r => r.core = core && r.key / 128 = key / 128 && r.failed)

/-- A store of this module to a remote home has still to be applied there. -/
def RemoteReq.travels (r : RemoteReq) : Bool := !r.applied && r.cause.isNone

/-- The home holds back a load or an atomic: stores held in its sector, or on their way to a remote one, a pin, a pseudo-channel
in training or a row that is being copied, a failed path (R174, R175, R179, R258, R261, R344). The control range is mapped onto no
channel (R249). A store that leaves for a remote home
while a load waits is waited for too (DEDUCED, safe: assumption log, 3). -/
def State.homeHolds (s : State) (r : Req) (p : Place) : Bool :=
  s.held.any (fun h => h.key / 16 = p.key / 16) || s.remote.any (fun x => x.key / 16 = p.key / 16 && x.travels)
    || s.lineShut r (p.key / 128)
    || (p.home = s.device && !p.control && s.chanHolds (interleave (pteDil p.leaf) p.pa).1 (interleave (pteDil p.leaf) p.pa).2)
    || s.pathHeld r.core p.key

/-- A span of the control range. -/
def Span.control (a : Span) : Bool := Config.controlBase ≤ a.key % 2 ^ 52 && a.key < localBase

/-- An older incomplete unit of the group still has an access to the control range to make (R256). -/
def Group.controlAhead (g : Group) (u : Flight) : Bool :=
  ((g.older u).filter (fun o => !o.done)).any (fun o => o.spans.any Span.control)

/-- A unit that waits, with the bytes that its access names. -/
def Flight.waiting (u : Flight) (w : Wait) (spans : List Span) : Flight := { u with wait := w, spans := spans, miss := 0 }

end Sys2Proof.Machine
end

