-- ==== Sys2Proof/Machine/Trap.lean ====
section
/-! DEFINITION. Fetching an instruction word (R282, R361), the units that TSKIP skips (R235), and taking a trap (R233, R238). -/

namespace Sys2Proof.Machine
open Sys2Proof

/-- The instruction buffer's key of a word, its key in device memory. -/
def wordKey (p : Place) : Nat := p.key

/-- The word at a place in the core's instruction buffer, unless that has evicted it meanwhile (DESIGN CHOICE, safe:
assumption log, 6). -/
def State.buffered (s : State) (core : Nat) (p : Place) : Option Word32 × State :=
  match find? (s.core core).ibuf (wordKey p) with
  | none => (none, s)
  | some w =>
    let (f, t) := s.fresh
    if Config.ibufEvicts core (wordKey p) f then (none, t) else (some w, t)

/-- The word at a place in memory, which the core's instruction buffer keeps. -/
def State.fetchAt (s : State) (core : Nat) (p : Place) : Word32 × State :=
  let w := BitVec.ofNat 32 (s.homeBytes p.key 4)
  (w, s.setCore core { s.core core with ibuf := Machine.put (s.core core).ibuf (wordKey p) w })

/-- The home slice holds back the fetch of a word (R121, R174, R175, R258, R311). -/
def State.fetchHeld (s : State) (k : Nat) (p : Place) : Bool :=
  s.homeHolds (.fetch k) p || s.wordHeld noGroup 0 p.key 4 || (s.markWait [p.key]).isSome

/-- The next word of group `k`, or the cause that its fetch meets: TADDR is the address of the unit's first word and
TINFO says fetch (R236, R361). A word that is not buffered is read at its home, as any request is (R121, R258, R266). -/
def State.fetch (s : State) (k : Nat) : Except Cause (Word32 × State) :=
  let g := s.grp k
  let core := coreOf k
  let first := g.firstWord
  match s.translate core g.ctx g.pc.toNat 0 false true with
  | .error c => .error (if c.code = 0 then c else { c with taddr := first })
  | .ok p =>
    if !pteX p.leaf then .error ⟨6, first, pageInfo 0 p.level 1 false true⟩
    else if Config.controlBase ≤ p.pa then .error ⟨2, first, 0⟩
    else if s.unreachable p then .error ⟨0x0A, first, BitVec.ofNat 64 p.home⟩
    else
      match s.buffered core p with
      | (some w, t) => .ok (w, t)
      | (none, t) =>
        if t.fetchHeld k p then .error notYet
        else if t.bad.contains (p.key / 64) then .error ⟨9, g.pc, 4⟩
        else
          match t.stranded [(first.toNat, p.key)], t.readPlanes [⟨0, g.pc.toNat, p⟩] with
          | some c, _ => .error c
          | none, none => .error notYet
          | none, some far => .ok ((t.sendReads far).fetchAt core p)

/-- A fetch that goes to its home touches the windows over its word, and a pin may refuse it (R119, R175). -/
def State.fetchTouch (s : State) (k : Nat) : State :=
  let g := s.grp k
  match s.translate (coreOf k) g.ctx g.pc.toNat 0 false true with
  | .error _ => s
  | .ok p =>
    if (find? (s.core (coreOf k)).ibuf (wordKey p)).isSome then s else (s.touch [p.key]).noteRefusal (.fetch k) (p.key / 128)

/-- A word of a unit that TSKIP skips (R235): a prefix joins the unit, and an instruction word ends the skipped unit. A CBAR that is
skipped has no arrival left to wait for (R58). -/
def Group.skipWordAt (g : Group) (w : Word32) (i : Instr) : Group :=
  if w.toNat / 2 ^ 26 = 1 then { g with pc := g.pc + 4, pfx := g.pfx ++ [{ addr := g.pc, word := w }] }
  else
    { g with
      pc := g.pc + 4, pfx := [], skip := g.skip.tail, heldCbar := g.heldCbar.filter (fun h => h.1 ≠ g.firstWord),
      flight := if g.flight.isEmpty then [] else g.flight ++ [{ g.unit i with done := true }] }

/-- Group `k` passes, within `n` words, the units that TSKIP marks complete, where no older unit is incomplete: the next unit
is then its oldest incomplete one (R233, R235). A word that cannot be fetched or is no instruction is passed no further. -/
def State.passWords (s : State) (k : Nat) : Nat → State
  | 0 => s
  | n + 1 =>
    let g := s.grp k
    if g.nextDone then
      match s.fetch k with
      | .error _ => s
      | .ok (w, _) =>
        match decode w with
        | none => s
        | some i => (s.setGrp k (g.skipWordAt w i)).passWords k n
    else s

/-- TSKIP marks at most 16 units, each of at most four words. -/
def State.passSkipped (s : State) (k : Nat) : State := s.passWords k 64

/-- The unit is an EXIT that no trap cancels any more (R325). -/
def Flight.leaving (u : Flight) : Bool :=
  u.prog ≠ 0 && (match u.instr with
    | .exit => true
    | .exitH _ => true
    | _ => false)

/-- A consumer has met an uncorrectable codeword of device memory at `va`: the health record counts it (R275). -/
def State.noteBad (s : State) (core ctx va : Nat) : State :=
  match s.translate core ctx va 0 false false with
  | .error _ => s
  | .ok p =>
    if p.home ≠ s.device ∨ p.control ∨ (va = 0 ∧ s.bad.contains (p.key / 64) = false) then s
    else s.noteWord p.key

/-- What the service learns of a cause that a consumer of context `ctx` and of a graph meets: uncorrectable data (0x09) and an
unreachable fabric (0x0A) go into the records of the graph's launches, and a codeword into the health record (R239, R275, R276). -/
def State.noteCause (s : State) (core ctx graph : Nat) (c : Cause) : State :=
  if c.code = 10 then s.noteGraph graph 3
  else if c.code = 9 then
    (if c.tinfo.toNat % 8 = 4 then s.noteBad core ctx c.taddr.toNat else s).noteGraph graph 4
  else s

/-- Takes cause `c` in group `k`, which has passed the units that TSKIP marks (R233), with TEPC the oldest incomplete unit
unless `at_` names another. A privileged
group keeps a pre-emption pending, and any other cause is a double trap: the group stops and its context ends with both
causes reported (R238). -/
def State.enterOrEnd (s : State) (k : Nat) (c : Cause) (at_ : Option Word64 := none) : State :=
  let g := s.grp k
  if c.code = 0x0E ∧ g.flight.any Flight.leaving = true then s
  else if g.priv then
    if c.code = 0x0E then s.setGrp k { g with preempt := some c.tinfo.toNat }
    else
      let report : List Word64 := [g.tcause, g.tepc, g.taddr, g.tinfo, BitVec.ofNat 64 c.code, at_.getD g.resumePc, c.taddr, c.tinfo]
      let launcher := ((s.ring.find? (fun x => x.2.ctx = g.ctx && x.2.ending = none)).map (fun x => x.2.conn)).getD 0
      let s := ((s.noteCause (coreOf k) g.ctx (s.graphOf k) c).setGrp k { g with status := .stopped }).endContext g.ctx c.code
      { s with replies := s.replies ++ [{
          conn := launcher, opc := 1, flags := 3, tag := 0, ctx := g.ctx, status := 1,
          cause := c.code, body := report.flatMap (fun w => (cellsLE 0 8 w.toNat).map Prod.snd) }] }
  else
    let s := (s.drainSfu k).cancelWaits k
    let s := s.noteCause (coreOf k) g.ctx (s.graphOf k) c
    let g := (s.grp k).interrupted
    let co := s.core (coreOf k)
    let g' := match at_ with
      | none => g.enterTrap c g.resumePc g.doneAfter
      | some pc => g.enterTrap c pc []
    (s.setGrp k g').setCore (coreOf k) { co with watchdog := del co.watchdog g.ctx }

/-- The next unit of group `k` is one that has completed already, and its words cannot be read, or not yet: none that TSKIP marks
can be passed. -/
def State.skipStuck (s : State) (k : Nat) : Bool := ((s.passSkipped k).grp k).nextDone

/-- Takes cause `c` in group `k` (R233). A pre-emption that finds the group's oldest incomplete unit behind a complete one whose words
cannot be read stays pending until they are, since TEPC names that unit; any other cause then leaves TEPC at the complete one, which
ERET skips (DEDUCED, unsafe: assumption log, 11). -/
def State.takeTrap (s : State) (k : Nat) (c : Cause) (at_ : Option Word64 := none) : State :=
  if c.code = 0x0E ∧ s.skipStuck k = true then s.onGrp k (fun g => { g with preempt := some c.tinfo.toNat })
  else (s.passSkipped k).enterOrEnd k c at_

end Sys2Proof.Machine
end

