-- ==== Sys2Proof/Machine/Issue.lean ====
section
/-! DEFINITION. How a unit issues: the prefixes it accepts (R289 to R293), the checks found at issue (R237), the
scoreboard (R232), and what becomes of it (R233, R246). -/

namespace Sys2Proof.Machine
open Sys2Proof

/-! ## Fields of the prefixes of a unit -/

/-- The word of the prefix of kind `kind`, if the unit has one. -/
def Flight.prefixWord (u : Flight) (kind : Nat) : Option Nat :=
  (u.pfx.find? (fun x => x.word.toNat / 2 ^ 24 = 4 + kind)).map (fun x => x.word.toNat)

/-- Bits [lo + n − 1 : lo] of the payload of that prefix, or zero without one. -/
def Flight.field (u : Flight) (kind lo n : Nat) : Nat := fld ((u.prefixWord kind).getD 0) lo n

def Flight.rnd (u : Flight) : Nat := u.field 2 21 3
def Flight.scope (u : Flight) : Nat := u.field 2 17 4
def Flight.policy (u : Flight) : Nat := u.field 2 15 2
def Flight.sat (u : Flight) : Nat := u.field 2 13 2
def Flight.neg (u : Flight) : Nat := u.field 2 10 3
def Flight.abs (u : Flight) : Nat := u.field 2 8 2
/-- The fourth operand, where an OP prefix names it (R291). -/
def Flight.fourth (u : Flight) : Option Nat := (u.prefixWord 1).map (fun w => fld w 17 7)

/-- An immediate or displacement of `n` bits as the instruction uses it, widened by an IMM prefix to n + 24 bits and
sign-extended from its top bit (R290). -/
def Flight.imm (u : Flight) (n v : Nat) : Int :=
  match u.prefixWord 0 with
  | none => (BitVec.ofNat n v).toInt
  | some w => (BitVec.ofNat (n + 24) (w % 2 ^ 24 * 2 ^ n + v)).toInt

/-- The rounding mode of a unit (R221). -/
def Flight.rmode (u : Flight) : RMode :=
  match u.rnd with
  | 1 => .rz
  | 2 => .rd
  | 3 => .ru
  | 4 => .rna
  | _ => .rne

/-! ## Acceptance -/

/-- What each instruction accepts (R290 to R293, R63, R221, R329). -/
def accOf : Instr → Acc
  | .bra _ | .braIf _ _ | .braIfNot _ _ | .brany _ _ | .branyNot _ _ | .brall _ _ | .brallNot _ _ | .call _ => { imm := true }
  | .split _ _ | .splitNot _ _ | .flip _ | .brx _ _ | .merge => { imm := true }
  | .waitx _ _ _ => { scope := true }
  | .sadd _ _ _ | .ssub _ _ _ => { sat := some [1, 2] }
  | .saddImm _ _ _ => { imm := true, sat := some [1, 2] }
  | .sandImm _ _ _ | .sorImm _ _ _ | .sxorImm _ _ _ | .smov _ _ => { imm := true }
  | .sld _ _ _ | .sst _ _ _ | .sldL _ _ _ | .sstL _ _ _ => { imm := true }
  | .scmp _ _ _ _ | .scmpImm _ _ _ _ => { guard := true }
  | .vadd _ _ _ | .vsub _ _ _ | .vmul _ _ _ => { guard := true, sat := some [1, 2] }
  | .vmad _ _ _ => { guard := true, fourth := true, sat := some [1, 2] }
  | .vmulhI32 _ _ _ | .vmulhN32 _ _ _ | .vand _ _ _ | .vor _ _ _ | .vxor _ _ _ | .vshl _ _ _ | .vshr _ _ _ => { guard := true }
  | .vsra _ _ _ | .vminI32 _ _ _ | .vminN32 _ _ _ | .vmaxI32 _ _ _ | .vmaxN32 _ _ _ => { guard := true }
  | .vaddImm _ _ _ => { imm := true, guard := true, sat := some [1, 2] }
  | .vandImm _ _ _ | .vorImm _ _ _ | .vxorImm _ _ _ | .vmovImm _ _ => { imm := true, guard := true }
  | .vshlImm _ _ _ | .vshrImm _ _ _ | .vsraImm _ _ _ => { guard := true }
  | .vmov _ _ | .vmovS _ _ | .vnot _ _ | .vclz _ _ | .vpopc _ _ | .vbfxI32 _ _ _ | .vbfxN32 _ _ _ => { guard := true }
  | .vbfi _ _ _ | .vlane _ => { guard := true }
  | .vabs _ _ => { guard := true, sat := some [1] }
  | .vdivI32 _ _ _ | .vdivN32 _ _ _ | .vremI32 _ _ _ | .vremN32 _ _ _ | .vcmp _ _ _ _ _ | .vsel _ _ _ _ => { guard := true }
  | .shflIdx _ _ _ | .shflUp _ _ _ | .shflDown _ _ _ | .shflXor _ _ _ => { guard := true }
  | .voteAny _ _ | .voteAll _ _ | .voteBallot _ _ | .lredAddI32 _ _ | .lredMinI32 _ _ | .lredMaxI32 _ _ => { guard := true }
  | .lredAddF32 _ _ | .lredMinF32 _ _ | .lredMaxF32 _ _ | .lscanAddI32 _ _ | .lscanAddF32 _ _ => { guard := true }
  | .lredAnd _ _ | .lredOr _ _ | .pset _ _ | .plog _ _ _ _ => { guard := true }
  | .faddF32 _ _ _ | .fsubF32 _ _ _ | .fmulF32 _ _ _ | .fmin _ _ _ | .fmax _ _ _ | .faddBf16x2 _ _ _ | .fmulBf16x2 _ _ _
  | .faddF16x2 _ _ _ | .fmulF16x2 _ _ _ => { guard := true, rnd := true, neg := 6, abs := true }
  | .fmaF32 _ _ _ | .fmaBf16x2 _ _ _ | .fmaF16x2 _ _ _ =>
    { guard := true, fourth := true, rnd := true, neg := 7, abs := true }
  | .fcmp _ _ _ _ _ | .geval _ _ _ _ _ => { guard := true }
  | .xrcp _ _ | .xrsq _ _ | .xsqrt _ _ | .xexp _ _ | .xlog _ _ | .xsin _ _ | .xcos _ _ | .xtanh _ _ => { guard := true }
  | .fcvtF32I32 _ _ | .fcvtF32N32 _ _ | .fcvtI32F32 _ _ | .fcvtN32F32 _ _ | .fcvtF32Bf16 _ _ => { guard := true, rnd := true }
  | .fcvtF32F16 _ _ | .fcvtF32E8 _ _ _ _ | .frnd _ _ | .fcvtFx64F32 _ _ _ | .fcvtF32Bf16x2 _ _ _ =>
    { guard := true, rnd := true }
  | .fcvtBf16F32 _ _ | .fcvtF16F32 _ _ | .fcvtE8F32 _ _ _ | .fclass _ _ => { guard := true }
  | .ldg _ q _ _ _ _ | .stg _ q _ _ _ _ => { guard := true, policy := true, stream := q }
  | .ldgAcq _ _ _ _ _ | .stgRel _ _ _ _ _ => { guard := true, scope := true, policy := true }
  | .ldgTouch _ _ _ => { guard := true, policy := true }
  | .ldl _ _ _ _ _ | .ldlFe _ _ _ _ _ | .ldlFec _ _ _ _ _ | .ldlFb _ _ _ _ | .ldlTouch _ _ _ => { guard := true }
  | .stl _ _ _ _ _ | .stlFull _ _ _ _ _ | .stlFw _ _ _ _ _ | .stlFb _ _ _ _ => { guard := true }
  | .atom op _ _ _ ty | .red op _ _ _ ty =>
    { guard := true, policy := true, sat := some (if (op = .min ∨ op = .max) ∧ ty = .i64 then [2] else []) }
  | .latom op _ _ _ ty => { guard := true, sat := some (if (op = .min ∨ op = .max) ∧ ty = .i64 then [2] else []) }
  | .mma _ _ _ _ _ _ | .mmas _ _ _ _ _ _ => { guard := true }
  | _ => {}

/-- Whether an instruction that accepts `a` refuses this prefix word (R289), which is asked with the instruction (DEDUCED,
unsafe: assumption log, 18). -/
def Acc.refuses (a : Acc) (w : Nat) : Bool :=
  match w / 2 ^ 24 % 4 with
  | 0 => !a.imm
  | 1 => !a.guard || (fld w 17 7 != 0 && !a.fourth)
  | _ =>
    let rnd := fld w 21 3
    let sc := fld w 17 4
    let pol := fld w 15 2
    let sat := fld w 13 2
    let neg := fld w 10 3
    let any := a.rnd || a.scope || a.policy || a.sat.isSome || a.neg != 0 || a.abs
    !any || (rnd != 0 && !a.rnd) || 5 ≤ rnd || (sc != 0 && !a.scope) || (pol != 0 && !a.policy) || pol == 3
      || (pol == 2 && a.stream) || (sat != 0 && !(a.sat.getD []).contains sat) || (neg &&& a.neg) != neg || (fld w 8 2 != 0 && !a.abs)

/-- An illegal-instruction cause (0x01) at a word: TADDR is its address and TINFO the word (R236, R289). -/
def illegal (addr : Word64) (word : Word32) : Cause := ⟨1, addr, word.setWidth 64⟩

/-- The cause that a unit meets before its own operands are looked at, in the order of R237: a refused prefix or an
instruction that this core does not have (0x01), a form that needs privilege (0x03), a vector register at or above
VCOUNT (0x02). -/
def Group.refused (g : Group) (u : Flight) (core : Nat) : Option Cause :=
  match u.pfx.find? (fun x => (accOf u.instr).refuses x.word.toNat) with
  | some x => some (illegal x.addr x.word)
  | none =>
    if isSteward core && onArray u.instr then some (illegal u.pc (BitVec.ofNat 32 (u.instr.code.getD 0)))
    else if (match u.instr with
        | .ldlFb _ _ _ _ => true
        | .stlFb _ _ _ _ => true
        | _ => false) && !g.priv then some ⟨3, 0, u.word⟩
    else
      let r := unitUses u.instr u.pfx
      if (r.1 ++ r.2).any (fun x => x < 128 && g.vcount ≤ x) then some u.operand else none

/-! ## The scoreboard -/

/-- The incomplete units of the run-ahead window. -/
def Group.incomplete (g : Group) : List Flight := g.flight.filter (fun u => !u.done)

/-- The scope of an instruction that takes it from a MOD prefix: device without one (R292, R161). -/
def Flight.modScope (u : Flight) : Nat := if (u.prefixWord 2).isSome then u.scope else 6

/-- An incomplete unit that is an acquire, which holds back the group's later accesses (R161): not one at lane scope, which
orders nothing; a CBARA of a group in no crew is one (R170). -/
def Flight.acquires (u : Flight) (g : Group) : Bool :=
  match u.instr with
  | .fence k sc => k ≠ .rel && sc.val ≠ 0
  | .ldgAcq _ _ _ _ _ => u.modScope ≠ 0
  | .cbara => !g.crew.getLsbD 16
  | i => Machine.acquires i

/-- An incomplete unit is a release that waits for what precedes it: a later store of the group, which such a release does
not order, stays behind it (R162, R163, R175, R334; DEDUCED, unsafe: assumption log, 27). -/
def Flight.releasing (u : Flight) : Bool :=
  match u.instr with
  | .fence k sc => k ≠ .acq && sc.val ≠ 0
  | .stgRel _ _ _ _ _ => u.modScope ≠ 0 && u.wait = .older
  | i => releases i && u.wait = .older

/-- The next unit, ending in `i`, may not issue yet (R232, R161; DEDUCED, unsafe: assumption log, 27). -/
def Group.blocked (g : Group) (i : Instr) : Bool :=
  let inc := g.incomplete
  let n := unitUses i g.pfx
  (serial i && inc != []) || 17 ≤ g.flight.length
    || inc.any (fun o => conflicts (unitUses o.instr o.pfx) n || holdsIssue o.instr
        || (touchesGstat i && raises o.instr)
        || (raises i && (match o.instr with
            | .mtsr _ r => r = 9
            | _ => false))
        || (accesses i && o.acquires g) || (stores i && o.releasing) || windowOrder o.instr i)

/-! ## What becomes of a unit -/

/-- A cause that group `k` meets: under FORWARD a page of a lazy range that is not present goes to the steward without a
trap (R246); any other cause is taken. Where what the unit asks for waits, nothing has come about yet. -/
def State.fault (s : State) (k : Nat) (c : Cause) (at_ : Option Word64 := none) : State :=
  let g := s.grp k
  if c.code = 0 then s
  else if (s.serviceable g.ctx g.pol (g.atPage c)).isSome then
    s.setGrp k { g with status := .service c }
  else s.takeTrap k c at_

/-- Marks that a group of core `k / 64` and this context has issued or left a wait: the context's watchdog counter
returns to zero (R90). -/
def State.calm (s : State) (k : Nat) : State :=
  let c := s.core (coreOf k)
  s.setCore (coreOf k) { c with watchdog := del c.watchdog (s.grp k).ctx }

/-- Moves the group past the unit that it has just issued. -/
def Group.advance (g : Group) (u : Flight) (cycle : Nat) (pc : Word64) (done : Bool) : Group :=
  { g with
    pc := pc, pfx := [], skip := g.skip.tail, lastIssue := cycle, yielded := none,
    heldStores := g.heldStores.filter (fun h => g.priv || h.1 ≠ u.first),
    flight := if done && g.flight.isEmpty then [] else g.flight ++ [{ u with done := done }] }

/-- What a unit that has just issued comes to. `s` is the state at its issue. -/
def State.conclude (s : State) (k : Nat) (u : Flight) : Res → State
  | .done t => (t.onGrp k (fun g => g.advance u s.cycle (u.pc + 4) true)).calm k
  | .jump t pc => (t.onGrp k (fun g => g.advance u s.cycle pc true)).calm k
  | .left t => t
  | .wait t v => (t.onGrp k (fun g => g.advance { v with since := s.cycle } s.cycle (u.pc + 4) false)).calm k
  | .trap t c => if (s.grp k).flight.isEmpty then t.fault k c else s
  | .trapAfter t c => t.takeTrap k c (some (u.pc + 4))
  | .stall t => t

/-- Group `s.cur` issues the unit that ends in `i`, which `run` gives its effect. A group that is not running issues
nothing. -/
def issue (i : Instr) (run : Flight → State → Res) (s : State) : Out :=
  let k := s.cur
  let g := s.grp k
  if g.live && g.status = .running && !g.blocked i then
    let u := g.unit i
    match g.refused u (coreOf k) with
    | some c => .next (s.conclude k u (.trap s c))
    | none => .next (s.conclude k u (run u s))
  else .next s

/-- Two waits are the same wait, whether or not the mark that is waited for is frozen. -/
def Wait.same (a b : Wait) : Bool :=
  match a, b with
  | .mark _, .mark _ => true
  | a, b => a = b

/-- What a waiting unit comes to when its wait is tested again. One that goes on to wait for something else has left a
wait (R90). -/
def State.reconclude (s : State) (k : Nat) (u : Flight) : Res → State
  | .done t => (t.onGrp k (fun g => g.settle u.first)).calm k
  | .jump t pc => (t.onGrp k (fun g => { g.settle u.first with pc := pc })).calm k
  | .left t => t
  | .wait t v =>
    let t := t.onGrp k (fun g => { g with flight := g.flight.map (fun x => if x.first = u.first then v else x) })
    if u.wait.same v.wait then t else t.calm k
  | .trap t c => if ((s.grp k).older u).all Flight.done then t.fault k c else s
  | .trapAfter t c => if ((s.grp k).older u).all Flight.done then t.takeTrap k c (some (u.pc + 4)) else s
  | .stall t => t

end Sys2Proof.Machine
end

