-- ==== Sys2Proof/Machine/Operands.lean ====
section
/-! DEFINITION. Every operand form: scalars and immediates, vector sources and broadcast scalars (R66, R284), sign changes
(R328), and how an instruction of one form writes its result in the active lanes (R28). -/

namespace Sys2Proof.Machine
open Sys2Proof

/-- The acting group. -/
def State.me (s : State) : Group := s.grp s.cur
def State.onMe (s : State) (f : Group → Group) : State := s.onGrp s.cur f
/-- The acting group's core. -/
def State.here (s : State) : Nat := coreOf s.cur
/-- The key of the acting group's instance, and the instance. -/
def State.myInstKey (s : State) : Nat := instKey s.cur s.me
def State.myInst (s : State) : Inst := s.inst s.myInstKey

/-- The active lanes of a unit (R28). -/
def Flight.lanes (u : Flight) (g : Group) : List Nat := g.lanesOf (g.active u.pfx)

/-- Operand b of the V and C forms in a lane (R66). -/
def srcVal : VSrc → Group → Nat → Word32
  | .vec r, g, i => g.vreg r i
  | .sca r, g, _ => (g.sreg r).setWidth 32

/-- A two-register value, low word first (R216). -/
def Group.vpair (g : Group) (r lane : Nat) : Word64 := (g.vreg (r + 1) lane ++ g.vreg r lane : Word64)

/-- A value of `n` 32-bit words from register `r` up, low word first. -/
def Group.vwide (g : Group) (r lane : Nat) : Nat → Nat
  | 0 => 0
  | n + 1 => (g.vreg r lane).toNat + 2 ^ 32 * g.vwide (r + 1) lane n

/-- Writes a value of `n` 32-bit words to register `r` and those after it, in one lane. -/
def Group.setWide (g : Group) (r lane v : Nat) : Nat → Group
  | 0 => g
  | n + 1 => (g.setV r lane (BitVec.ofNat 32 v)).setWide (r + 1) lane (v / 2 ^ 32) n

/-- A scalar immediate: sign-extended, 12 bits or 36 under an IMM prefix (R290). -/
def Flight.simm (u : Flight) (imm : BitVec 12) : Word64 := BitVec.ofInt 64 (u.imm 12 imm.toNat)
/-- A vector immediate: 9 bits or 33 under an IMM prefix, of which a lane uses the low 32 (R290, R66). -/
def Flight.vimm (u : Flight) (imm : BitVec 9) : Word32 := BitVec.ofInt 32 (u.imm 9 imm.toNat)

/-- An instruction that writes one scalar and can meet no trap of its own. -/
def scalarOp (d : SReg) (f : Group → Flight → Word64) (u : Flight) (s : State) : Res :=
  .done (s.onMe (fun g => g.setS d (f g u)))

/-- An instruction that writes one vector register in its active lanes. -/
def vectorOp (d : VReg) (f : Group → Flight → Nat → Word32) (u : Flight) (s : State) : Res :=
  .done (s.onMe (fun g => g.writeLanes d (f g u) (u.lanes g)))

/-- The flags that these lanes raise. -/
def orFlags (f : Nat → Flags) (is : List Nat) : Flags := is.foldl (fun a i => a.or (f i)) {}

/-- A vector instruction whose active lanes raise flags. -/
def vectorFlagOp (d : VReg) (f : Group → Flight → Nat → Word32 × Flags) (u : Flight) (s : State) : Res :=
  .done (s.onMe (fun g =>
    (g.writeLanes d (fun i => (f g u i).1) (u.lanes g)).raise (orFlags (fun i => (f g u i).2) (u.lanes g))))

/-- Writes `c` of each active lane to predicate `p` under CMB (R68). -/
def Group.combine (g : Group) (p : PReg) (m : Cmb) (act : Word64) (c : Nat → Bool) : Group :=
  g.writeP p act (fun i => match m with
    | .set => c i
    | .and => (g.preg p).getLsbD i && c i
    | .or => (g.preg p).getLsbD i || c i)

/-- A sign bit cleared, then flipped (R328): the bits of `mask`. -/
def signBits (mask : Word32) (abs neg : Bool) (x : Word32) : Word32 :=
  let y := if abs then x &&& ~~~mask else x
  if neg then y ^^^ mask else y

/-- Operands a, b and c of an FALU instruction under the negate and abs fields, with the sign bits of `mask`. -/
def Flight.opA (u : Flight) (mask x : Word32) : Word32 := signBits mask (u.abs / 2 = 1) (u.neg / 4 = 1) x
def Flight.opB (u : Flight) (mask x : Word32) : Word32 := signBits mask (u.abs % 2 = 1) (u.neg / 2 % 2 = 1) x
def Flight.opC (u : Flight) (mask x : Word32) : Word32 := signBits mask false (u.neg % 2 = 1) x

/-- The addend of VMAD and of the FMA forms: V[VC] from an OP prefix, else the old V[VD] (R66, R327). -/
def Flight.addend (u : Flight) (g : Group) (d : VReg) (i : Nat) : Word32 := g.vreg (u.fourth.getD d.val) i

/-! ## Memory operands (R284, R287) -/

/-- The bytes of an access width. -/
def widthBytes : Width → Nat
  | .b8 | .b8s => 1
  | .b16 | .b16s => 2
  | .b32 => 4
  | .b64 => 8
  | .b128 => 16

/-- What a load of this width writes: sign-extended for b8s and b16s, else zero-extended. -/
def loadWord (w : Width) (v : Nat) : Nat :=
  match w with
  | .b8s => ((BitVec.ofNat 8 v).signExtend 32).toNat
  | .b16s => ((BitVec.ofNat 16 v).signExtend 32).toNat
  | .b8 | .b16 | .b32 | .b64 | .b128 => v

/-- (lane, address) of each active lane of an M-form or A-form access; `scale` is the factor of the offset. -/
def Flight.addresses (u : Flight) (g : Group) (b : SReg) (o : VReg) (scale : Nat) : List (Nat × Nat) :=
  (u.lanes g).map (fun i =>
    (i, (g.sreg b + (g.vreg o i).signExtend 64 * BitVec.ofNat 64 scale).toNat))

/-- The scale of an M-form offset. -/
def scaleOf (w : Width) (sc : Bool) : Nat := if sc then widthBytes w else 1

/-- Writes the values of a load to its registers. -/
def Group.loadRegs (g : Group) (w : Width) (r : VReg) (vs : List (Nat × Nat)) : Group :=
  vs.foldl (fun g x => g.setWide r x.1 (loadWord w x.2) w.regs) g

/-- The value that each active lane of a store carries. -/
def Flight.storeValues (u : Flight) (g : Group) (w : Width) (r : VReg) : List (Nat × Nat) :=
  (u.lanes g).map (fun i => (i, g.vwide r i w.regs % 2 ^ (8 * widthBytes w)))

end Sys2Proof.Machine
end

