-- ==== Sys2Proof/Machine/Fetch.lean ====
section
/-! DEFINITION. Prefixes (R289), and words that are no instruction (R294). -/

namespace Sys2Proof.Machine
open Sys2Proof

/-- A prefix word joins the unit that the group's next words make (R289): the unit is refused where its kind repeats. A
word after a unit that decides what comes next does not issue yet (R232). TADDR of a repeated kind is its second word (DEDUCED,
unsafe: assumption log, 18). -/
def pushPrefix (i : Instr) (s : State) : Out :=
  let k := s.cur
  let g := s.me
  let w := BitVec.ofNat 32 (i.code.getD 0)
  if !(g.live && g.status = .running) || g.incomplete.any (fun u => holdsIssue u.instr) then .next s
  else if g.pfx.any (fun x => x.word.toNat / 2 ^ 24 = w.toNat / 2 ^ 24) then
    .next (if g.flight.isEmpty then s.fault k (illegal g.pc w) else s)
  else .next ((s.setGrp k { g with pc := g.pc + 4, pfx := g.pfx ++ [{ addr := g.pc, word := w }] }).calm k)

def execPfxImm (p : BitVec 24) (s : State) : Out := pushPrefix (.pfxImm p) s
def execPfxOp (vc : VReg) (valid neg : Bool) (g : PReg) (s : State) : Out := pushPrefix (.pfxOp vc valid neg g) s
def execPfxMod (rnd : Fin 8) (sc : Fin 16) (pol sat : Fin 4) (neg : Fin 8) (abs : Fin 4) (s : State) : Out :=
  pushPrefix (.pfxMod rnd sc pol sat neg abs) s

/-- The word at the PC is no instruction: the unit traps, its first word being the run's (R294). -/
def State.notInstruction (s : State) (k : Nat) (w : Word32) : State :=
  let g := s.grp k
  if g.flight.isEmpty then s.fault k (illegal g.pc w) else s

end Sys2Proof.Machine
end

