-- ==== Sys2Proof/Machine/Order.lean ====
section
/-! DEFINITION. Releases, acquires and pinned lines (R161, R169, R173, R175, R176, R178). A pin's scope is a scope code of
R2. -/

namespace Sys2Proof.Machine
open Sys2Proof

/-- The home module of a global line. -/
def lineHome (line : Nat) : Nat := line * 128 / 2 ^ 52

/-! ## Pins -/

/-- Pins a line to a core, of another module where `m` names one, with open scope core, for the groups whose marked stores
name it (R175). Where an open scope has let another core's marked store reach a line that is pinned already, the line is that
core's from then on (DEDUCED, unsafe: assumption log, 20). -/
def State.pin (s : State) (m : Option Nat) (core line : Nat) (gs : List Nat) : State :=
  let old := match find? s.pins line with
    | some p => if p.core = core ∧ p.module = m then p.groups else []
    | none => []
  if gs = [] then s
  else { s with pins := Machine.put s.pins line { core := core, scope := 4, groups := unionOnce old gs, module := m } }

/-- The groups of a core, by key. -/
def State.coreGroups (s : State) (core : Nat) : List (Nat × Group) := s.groups.filter (fun x => coreOf x.1 = core)

/-- Pins line `line` to the core for the groups whose marked stores have reached it (R175). -/
def State.pinOwn (s : State) (core line : Nat) : State :=
  let gs := ((s.coreGroups core).filter (fun x => x.2.marked.contains line)).map Prod.fst
  gs.foldl (fun t k => t.onGrp k (fun g => { g with marked := g.marked.filter (fun l => l ≠ line) })) (s.pin none core line gs)

/-- Pins every line that marked stores of this core are still to pin. -/
def State.pinAll (s : State) (core : Nat) : State :=
  (s.coreGroups core).foldl (fun t x =>
    (x.2.marked.foldl (fun t line => t.pin none core line [x.1]) t).onGrp x.1 (fun g => { g with marked := [] })) s

/-- Raises the open scope of a core's pins to `sc`; at system scope they are unpinned. A pin at a remote home opens at
pod scope or wider (R176, R178). -/
def State.raisePins (s : State) (m : Option Nat) (core sc : Nat) : State :=
  { s with pins := s.pins.filterMap (fun x =>
      if x.2.core ≠ core ∨ x.2.module ≠ m ∨ (lineHome x.1 ≠ s.device ∧ sc < 8) then some x
      else if 9 ≤ max sc x.2.scope then none
      else some (x.1, { x.2 with scope := max sc x.2.scope })) }

/-! ## Releases and acquires -/

/-- A store of the group that has to be home, or any that a release has marked, is not yet home; at pod scope or wider a
remote home's acknowledgement counts too (R173, R176, R178). -/
def State.storesOut (s : State) (k sc : Nat) : Bool :=
  let core := coreOf k
  (s.core core).stores.any (fun e => e.grp = k || e.marked)
    || s.held.any (fun h => h.module = s.device && h.core = core && (h.grp = k || h.marked))
    || (8 ≤ sc && s.remote.any (fun r => r.core = core && (r.grp = k || r.marked)))

/-- Marks the group's stores (R175): those on their way where they are; the lines of those at home, be it in a merge window that is
not over, are pinned at once. -/
def State.markStores (s : State) (k : Nat) : State :=
  let core := coreOf k
  let c := s.core core
  let g := s.grp k
  let out := (c.stores.filter (fun e => e.grp = k)).map (fun e => e.key / 128)
    ++ (s.remote.filter (fun r => r.core = core && r.grp = k)).map (fun r => r.key / 128)
  let held := (s.held.filter (fun h => h.module = s.device && h.core = core && h.grp = k)).map (fun h => h.key / 128)
  let home := g.dirty.filter (fun l => held.contains l || !out.contains l)
  let s := s.setCore core { c with stores := c.stores.map (fun (e : StoreEntry) => if e.grp = k then { e with marked := true } else e) }
  let s := { s with
    held := s.held.map (fun (h : HeldStore) => if h.module = s.device ∧ h.core = core ∧ h.grp = k then { h with marked := true } else h),
    remote := s.remote.map (fun (r : RemoteReq) => if r.core = core ∧ r.grp = k then { r with marked := true } else r) }
  (s.onGrp k (fun g => { g with dirty := [], old := unionOnce g.old g.dirty, marked := unionOnce g.marked home })).pinAll core

/-- A release of group `k` at scope `sc`, by unit `u`; none while it has to wait (R161, R169, R173). Graph scope acts as
device. It marks the lines of the plain stores before it (R175; DESIGN CHOICE, safe: assumption log, 20). -/
def State.release (s : State) (k : Nat) (u : Flight) (sc : Nat) : Option State :=
  let g := s.grp k
  if sc = 0 then some s
  else if (g.older u).any (fun o => !o.done && accesses o.instr) then none
  else if sc < 5 ∧ (unionOnce g.old g.dirty).length ≤ Config.markLines then some (s.markStores k)
  else
    let sc := if sc < 5 then 5 else if sc = 7 then 6 else sc
    if s.storesOut k sc then none
    else some (((s.pinAll (coreOf k)).raisePins none (coreOf k) sc).onGrp k
      (fun g => { g with dirty := [], old := [], marked := [] }))

/-- Drops every global line of a core's L1. -/
def State.dropL1 (s : State) (core : Nat) : State := s.setCore core { s.core core with l1 := [] }

/-- An acquire of a group at scope `sc`: at cluster scope or wider the core's L1 is dropped (R173). -/
def State.acquire (s : State) (k sc : Nat) : State := if 5 ≤ sc then s.dropL1 (coreOf k) else s

/-- The crew scope of a group: 2, or group scope in no crew (R2). -/
def Group.crewScope (g : Group) : Nat := if g.crew.getLsbD 16 then 2 else 1

/-- Exit of a group (R176). -/
def State.unpinGroup (s : State) (k : Nat) : State := s.forgetGroups (fun x => x = k)

end Sys2Proof.Machine
end

