-- ==== Sys2Proof/Machine/Rows.lean ====
section
/-! DEFINITION. Row activations and their counters (R249, R254), and counters of the health record, which saturate (R275). -/

namespace Sys2Proof.Machine
open Sys2Proof

/-- A counter of 32 bits that saturates. -/
def satAdd (n d : Nat) : Nat := min (n + d) (2 ^ 32 - 1)

/-- The row counter's key. -/
def rowKey (bank row : Nat) : Nat := bank * 2 ^ 14 + row

/-- The pseudo-channel, bank and row of an offset of a channel (R249). -/
def rowOf (ch o : Nat) (fails : Bool) : RowAct := ⟨ch * 2 + fld o 10 1, fld o 11 6, fld o 17 14, fails⟩

/-- The bank whose test runs on a pseudo-channel. -/
def PChan.bistBank (p : PChan) : Nat := fld p.bistctl.toNat 16 6

/-- The row of the polder to which row `row` of a parked bank is copied (R261). -/
def State.copyAct (s : State) (pch bank row : Nat) : RowAct :=
  rowOf (pch / 2) ((s.chan (pch / 2)).slotStart (Config.copyPlace pch bank (row / 4)) + row % 4 * 1024) false

/-- A row of a bank is in its copy: copied and not yet restored, or of a bank that is retired (R261, R262). -/
def PChan.inCopy (p : PChan) (bank row : Nat) : Bool :=
  p.retired.contains bank || (p.bistBank = bank
    && ((p.bistState = 1 && row < p.copyRow) || p.bistState = 2 || (p.bistState = 3 && p.copyRow ≤ row)))

/-- The row that an access to a row reaches: its copy, where it has one (R261). -/
def State.landAct (s : State) (a : RowAct) : RowAct :=
  if (s.pchan a.pch).inCopy a.bank a.row then s.copyAct a.pch a.bank a.row else a

/-- The count of a row (DESIGN CHOICE, safe: assumption log, 8). -/
def PChan.rowCount (p : PChan) (pch bank row : Nat) : Nat :=
  match find? p.rows (rowKey bank row), find? p.tested bank with
  | some n, _ => n
  | none, some f => Config.bistCounts pch bank row f % p.rcth.toNat
  | none, none => 0

/-- A bank's row stands open, until another of it is activated or the bank is refreshed (R251, R253; DEDUCED, unsafe: assumption
log, 43). -/
def State.openRow (s : State) (a : RowAct) : State :=
  let c := s.chan (a.pch / 2)
  s.setChan (a.pch / 2) { c with openRows := Machine.put c.openRows (a.pch * 64 + a.bank) a.row }

/-- The banks of a pseudo-channel that `shut` picks out have no row open. -/
def State.closeRows (s : State) (pch : Nat) (shut : Nat → Bool) : State :=
  let c := s.chan (pch / 2)
  s.setChan (pch / 2) { c with openRows := delWhere c.openRows (fun k => k / 64 = pch && shut (k % 64)) }

/-- A row is activated and precharged (R254): its counter counts; at the threshold of RCTH, or where its parity fails, an
RFM returns it to zero; a parity failure is logged, once for each activation that meets it (DEDUCED, unsafe: assumption log, 26). -/
def State.activate (s : State) (a : RowAct) : State :=
  let p := s.pchan a.pch
  let n := p.rowCount a.pch a.bank a.row + 1
  let n := if a.parityFails || p.rcth.toNat ≤ n then 0 else n
  let s := (s.setPchan a.pch { p with rows := Machine.put p.rows (rowKey a.bank a.row) n }).openRow a
  if a.parityFails then
    let c := s.chan (a.pch / 2)
    s.setChan (a.pch / 2) { c with
      parity := satAdd c.parity 1, events := setEvent c.events 2,
      lastPar := a.row * 2 ^ 16 + a.pch % 2 * 2 ^ 6 + a.bank }
  else s

/-- A channel has a bank that owes 8 refreshes or more (R253). -/
def State.refreshForced (s : State) (ch : Nat) : Bool :=
  let owes := fun (p : Nat) => (s.pchan p).owed.any (fun o => 8 ≤ o.2)
  owes (2 * ch) || owes (2 * ch + 1)

/-- An all-bank refresh: every bank refreshes all that it owes (R253). -/
def State.refreshAll (s : State) (ch : Nat) : State :=
  (((s.setPchan (2 * ch) { s.pchan (2 * ch) with owed := [] }).setPchan (2 * ch + 1)
    { s.pchan (2 * ch + 1) with owed := [] }).closeRows (2 * ch) (fun _ => true)).closeRows (2 * ch + 1) (fun _ => true)

/-- A batch or grant boundary: the controller makes the all-bank refresh that is due (R253). -/
def State.boundary (s : State) (ch : Nat) : State := if s.refreshForced ch then s.refreshAll ch else s

end Sys2Proof.Machine
end

