-- ==== Sys2Proof/Machine/Hbm.lean ====
section
/-! DEFINITION. Channel controllers, refresh, scrub, training and bank tests (R250 to R263). A batch is the list of the
rows that its requests name, with the row activations that serving them makes (DESIGN CHOICE, unsafe: assumption log, 5). -/

namespace Sys2Proof.Machine
open Sys2Proof

/-! ## Batches and refresh -/

/-- Changes a channel. -/
def State.onChan (s : State) (ch : Nat) (f : Chan → Chan) : State := s.setChan ch (f (s.chan ch))

/-- A bank has a request in the current batch. -/
def Chan.busyBank (c : Chan) (pch bank : Nat) : Bool := c.batch.any (fun a => a.pch = pch && a.bank = bank)

/-- Its refresh is the base die's: the pseudo-channel is in training, or the bank is under test (R258, R261). -/
def PChan.holdsRefresh (p : PChan) (bank : Nat) : Bool :=
  p.own || (p.bistctl.getLsbD 0 && fld p.bistctl.toNat 16 6 = bank)

/-- The current batch drains: its activations are made (R254). -/
def State.drainBatch (s : State) (ch : Nat) : State :=
  let c := s.chan ch
  (c.opens.foldl State.activate s).onChan ch (fun c => { c with batch := [], opens := [] })

/-- Banks that owe refreshes and have no request in the current batch are refreshed (R253). -/
def State.refreshIdle (s : State) (pch : Nat) : State :=
  let c := s.chan (pch / 2)
  let p := s.pchan pch
  let idle : Nat → Bool := fun bank => !(c.busyBank pch bank || p.holdsRefresh bank)
  (s.setPchan pch { p with owed := delWhere p.owed idle }).closeRows pch (fun bank =>
    idle bank && (find? p.owed bank).isSome)

/-- The class that is granted next (R86, R87) among those that `has` says are waiting; the frame is its grants so far, and of
these those to P3 and P4 that went ahead. In a frame P4's grant comes first, then P3's two, and a grant that P3 or P4 has had in it
for a row hit or by class counts as one of theirs (DESIGN CHOICE, unsafe: assumption log, 5). -/
def pickClass (has : Nat → Bool) (frame : Nat × Nat × Nat) : Nat :=
  if has 0 then 0 else if has 1 then 1
  else if has 4 && frame.2.2 < 1 then 4
  else if has 3 && frame.2.1 < 2 then 3
  else ((List.range 6).find? has).getD 0

/-- The frame after a grant to a class. -/
def nextFrame (frame : Nat × Nat × Nat) (cls : Nat) : Nat × Nat × Nat :=
  if cls < 2 then frame
  else if frame.1 = 9 then (0, 0, 0)
  else (frame.1 + 1, frame.2.1 + (if cls = 3 then 1 else 0), frame.2.2 + (if cls = 4 then 1 else 0))

/-- A row that stands open, and a request that hits one. -/
def hitsAct (open_ : SMap Nat) (a : RowAct) : Bool := find? open_ (a.pch * 64 + a.bank) = some a.row
def hitsRow (open_ : SMap Nat) (r : MemReq) : Bool := r.acts.any (hitsAct open_)

/-- The request that is served next (R251): one that hits an open row, else by class and then age, the list's order. -/
def nextReq (open_ : SMap Nat) (frame : Nat × Nat × Nat) (rs : List MemReq) : Option MemReq :=
  match rs.find? (hitsRow open_) with
  | some r => some r
  | none => rs.find? (fun r => r.cls = pickClass (fun c => rs.any (fun x => x.cls = c)) frame)

/-- The activations that serving one request makes, given the open rows, and the rows open afterwards: its own hits go first. -/
def rowsOpened (open_ : SMap Nat) (r : MemReq) : SMap Nat × List RowAct :=
  (r.acts.filter (fun a => !hitsAct open_ a)).foldl (fun x a =>
    if hitsAct x.1 a then x
    else (Machine.put x.1 (a.pch * 64 + a.bank) a.row, x.2 ++ [a])) (open_, [])

/-- What a batch comes to, its requests served one after the other: its activations, and the frame after it (R87, R251). -/
def serveReqs : Nat → SMap Nat → Nat × Nat × Nat → List MemReq → List RowAct × (Nat × Nat × Nat)
  | 0, _, frame, _ => ([], frame)
  | n + 1, open_, frame, rs =>
    match nextReq open_ frame rs with
    | none => ([], frame)
    | some r =>
      let x := rowsOpened open_ r
      let y := serveReqs n x.1 (nextFrame frame r.cls) (rs.erase r)
      (x.2 ++ y.1, y.2)

/-- Scrub is behind its schedule by so many rows, and its reads join batches until it has caught up (R263). -/
def PChan.scrubBehind (p : PChan) (cycle : Nat) : Nat := p.scrubDue cycle - p.scrubbed
def PChan.catchesUp (p : PChan) (cycle : Nat) : Bool := 1024 ≤ p.scrubBehind cycle || (p.catching && p.scrubBehind cycle ≠ 0)

/-- Scrub has read this row in the pass under way. -/
def PChan.hasScrubbed (p : PChan) (a : RowAct) : Bool := p.scrubPass.testBit (rowKey a.bank a.row)

/-- A codeword, named by its physical address / 64, lies in a row. -/
def inRow (a : RowAct) (w : Nat) : Bool :=
  let io := interleave false (w * 64)
  { rowOf io.1 io.2 false with parityFails := a.parityFails } == a

/-- A controller may accept this request (R250, R258, R263). -/
def State.reqGood (s : State) (ch : Nat) (r : MemReq) : Bool :=
  r.cls < 6 && r.acts ≠ [] && r.acts.all (fun a => a.pch / 2 = ch && a.bank < 64 && a.row < bankRows && !(s.pchan a.pch).own)
    && (if r.core.isSome then r.bad = [] else r.acts.all (fun a =>
        (s.pchan a.pch).catchesUp s.cycle && !(s.pchan a.pch).hasScrubbed a) && r.bad.all (fun w => r.acts.any (inRow · w)))

/-- At most 768 requests in all, and at most 8 of one core, scrub's counting as one (R250). -/
def reqsFit (rs : List MemReq) : Bool :=
  rs.length ≤ 768 && rs.all (fun r => (rs.filter (fun x => x.core = r.core)).length ≤ 8)

/-- Scrub has read a row of the pseudo-channel, which counts once in a pass; once it has read every row a new pass begins (R263). -/
def State.noteScrub (s : State) (a : RowAct) : State :=
  let p := s.pchan a.pch
  if p.hasScrubbed a then s
  else
  let n := p.scrubbed + 1
  let q := { p with scrubbed := n, scrubPass := if n % pchanRows = 0 then 0 else p.scrubPass ||| 2 ^ rowKey a.bank a.row }
  s.setPchan a.pch { q with catching := p.catchesUp s.cycle && q.scrubBehind s.cycle ≠ 0 }

/-- What scrub finds on a channel: symbol errors, which it corrects, and uncorrectable words, which it leaves as they are (R23,
R263). -/
def State.logScrub (s : State) (ch corrected : Nat) (bad : List Nat) : State :=
  let c := s.chan ch
  let t := s.setChan ch { c with
    corr := satAdd c.corr corrected, uncorr := satAdd c.uncorr bad.length,
    lastBad := (bad.getLast?.map (fun w => w * 64)).getD c.lastBad }
  { t with bad := unionOnce t.bad (bad.map (fun w => s.device * 2 ^ 46 + w)) }

/-- BATCH_FORM: the batch before has drained, a refresh that is forced is made, and the requests that are accepted make the next
batch (R250, R251, R253). No batch forms during a grant, and none with a request to a pseudo-channel in training (R252, R258).
What the reads correct is counted (R23). -/
def execBatchForm (ch : Nat) (reqs : List MemReq) (s : State) : Out :=
  if 256 ≤ ch ∨ (s.chan ch).grant = true ∨ reqsFit reqs = false ∨ reqs.all (s.reqGood ch) = false then .next s
  else
    let t := (s.drainBatch ch).boundary ch
    let c := t.chan ch
    let x := serveReqs reqs.length c.openRows c.frame reqs
    let t := t.setChan ch { c with batch := reqs.flatMap MemReq.acts, opens := x.1, frame := x.2 }
    let t := ((reqs.filter (fun r => r.core.isNone)).flatMap MemReq.acts).foldl State.noteScrub t
    let t := t.logScrub ch ((reqs.map MemReq.corrected).sum) (reqs.flatMap MemReq.bad)
    .next ((t.refreshIdle (2 * ch)).refreshIdle (2 * ch + 1))

/-- REFRESH_DUE: the bank owes one more refresh, and is refreshed now where it is idle (R253). -/
def execRefreshDue (pch bank : Nat) (s : State) : Out :=
  let p := s.pchan pch
  if 512 ≤ pch ∨ 64 ≤ bank ∨ p.holdsRefresh bank = true then .next s
  else .next ((s.setPchan pch { p with owed := Machine.put p.owed bank (look 0 p.owed bank + 1) }).refreshIdle pch)

/-- ALL_BANK_REFRESH: at the batch boundary, once some bank owes 8 (R253). -/
def execAllBankRefresh (ch : Nat) (s : State) : Out :=
  if 256 ≤ ch ∨ (s.chan ch).grant = true ∨ s.refreshForced ch = false then .next s
  else .next ((s.drainBatch ch).refreshAll ch)

/-! ## Scrub (R263) -/

/-- SCRUB_ROW: a row without a request in the current batch that the pass has not read is read; symbol errors are corrected and
counted; uncorrectable words are left and logged. Which words it finds bad is its argument (DESIGN CHOICE, safe: assumption log, 8). -/
def execScrubRow (act : RowAct) (corrected : Nat) (bad : List Nat) (s : State) : Out :=
  let ch := act.pch / 2
  let c := s.chan ch
  if 512 ≤ act.pch ∨ 64 ≤ act.bank ∨ bankRows ≤ act.row ∨ c.grant = true
    ∨ c.batch.any (fun a => a.pch = act.pch && a.bank = act.bank && a.row = act.row) = true
    ∨ (s.pchan act.pch).own = true ∨ bad.all (inRow act) = false ∨ (s.pchan act.pch).hasScrubbed act = true then .next s
  else .next (((s.activate act).noteScrub act).logScrub ch corrected bad)

/-! ## Training (R258 to R260) -/

/-- A write of a control register by the steward, where the register takes it and nothing holds it back. -/
def State.stewardWrite (s : State) (pch off v : Nat) : State :=
  if pch < 512 ∧ (s.pchan pch).ctlGood off v = true ∧ s.ctlWriteWaits pch off v = false then s.ctlWrite pch off v else s

def execTrainOwn (pch : Nat) (s : State) : Out := .next (s.stewardWrite pch 0x00 1)
def execTrainRelease (pch : Nat) (s : State) : Out := .next (s.stewardWrite pch 0x00 0)
def execReadCheck (pch : Nat) (s : State) : Out := .next (s.stewardWrite pch 0x08 1)
def execWriteCheck (pch : Nat) (s : State) : Out := .next (s.stewardWrite pch 0x08 2)
def execReadWriteCheck (pch : Nat) (s : State) : Out := .next (s.stewardWrite pch 0x08 3)
def execLaneRepair (pch : Nat) (v : Word64) (s : State) : Out := .next (s.stewardWrite pch 0x18 v.toNat)

/-- The wire that carries a logical lane (R259). -/
def PChan.wireOf (p : PChan) (lane : Nat) : Nat :=
  let l := p.lrep.toNat
  if fld l 7 1 = 1 ∧ fld l 0 6 = lane then 32 else if fld l 15 1 = 1 ∧ fld l 8 6 = lane then 33 else lane

/-- A wire passes check `op` (R259; DESIGN CHOICE, safe: assumption log, 8). -/
def PChan.passes (p : PChan) (pch op f wire : Nat) : Bool :=
  (op = 2 || Config.wirePasses false pch wire (p.tap false wire) f)
    && (op = 1 || Config.wirePasses true pch wire (p.tap true wire) f)

/-- TRRES after a check. -/
def PChan.result (p : PChan) (pch op f : Nat) : Nat :=
  bitsOf (fun i => p.passes pch op f (if i < 32 then p.wireOf i else i)) 34

/-- CHECK_DONE (R259, R260): where both spares carry lanes and a wire fails, the replace request is raised. -/
def execCheckDone (pch : Nat) (s : State) : Out :=
  let p := s.pchan pch
  match p.check.filter (fun c => c.ends ≤ s.cycle) with
  | none => .next s
  | some c =>
    let (f, s) := s.fresh
    let r := p.result pch c.op f
    let t := (s.setPchan pch { p with check := none, trres := BitVec.ofNat 64 r })
    .next (if fld p.lrep.toNat 7 1 = 1 ∧ fld p.lrep.toNat 15 1 = 1 ∧ r % 2 ^ 32 ≠ 2 ^ 32 - 1 then t.raiseReplace 2 else t)

/-! ## Bank tests (R261, R262) -/

/-- A write of BISTCTL with GO = 1. -/
def State.startTest (s : State) (pch bank test : Nat) : State :=
  if 64 ≤ bank then s else s.stewardWrite pch 0x30 (bank * 2 ^ 16 + test * 2 + 1)

def execBistMarch (pch bank : Nat) (s : State) : Out := .next (s.startTest pch bank 0)
def execBistCheckerboard (pch bank : Nat) (s : State) : Out := .next (s.startTest pch bank 1)
def execBistRetention (pch bank : Nat) (s : State) : Out := .next (s.startTest pch bank 2)

/-- BISTRES after a test, in STATE 0 (R257). -/
def bistWord (retired : Bool) (spares first fails : Nat) : Word64 :=
  BitVec.ofNat 64 ((if retired then 2 ^ 60 else 0) + spares * 2 ^ 56 + first * 2 ^ 32 + fails)

/-- Parking or restoring copies one more row of the bank (R261): the row and the one that takes or holds its copy are activated,
what the reads correct is counted, and after the last one the test runs, or the bank is back and its slots free. No row is copied in
a grant (R252), or where a pseudo-channel of the two is in training (R258). -/
def State.copyStep (s : State) (pch : Nat) : State :=
  let p := s.pchan pch
  let ch := pch / 2
  let b := s.copyAct pch p.bistBank p.copyRow
  if (p.bistState ≠ 1 ∧ p.bistState ≠ 3) ∨ (s.chan ch).grant = true ∨ p.own = true ∨ (s.pchan b.pch).own = true then s
  else
    let (f, s) := s.fresh
    let fails := fun (a : RowAct) => { a with parityFails := Config.copyParity a.pch a.bank a.row f }
    let t := (s.activate (fails ⟨pch, p.bistBank, p.copyRow, false⟩)).activate (fails b)
    let t := t.onChan ch (fun c => { c with corr := satAdd c.corr (Config.copyCorrected pch p.bistBank p.copyRow f) })
    let q := t.pchan pch
    if p.copyRow + 1 < bankRows then t.setPchan pch { q with copyRow := p.copyRow + 1 }
    else if p.bistState = 1 then t.setPchan pch ({ q with copyRow := 0 }.withBistState 2)
    else
      ((t.setPchan pch ({ q with copyRow := 0, bistctl := q.bistctl &&& ~~~(1 : Word64) }.withBistState 0)).onChan ch
        (fun c => { c with parked := c.parked - bankSlots })).noteFull ch

/-- BIST_TEST_DONE: failing rows are replaced and restoring begins, or the bank is retired (R262; DESIGN CHOICE, unsafe: assumption
log, 21). -/
def execBistTestDone (pch : Nat) (s : State) : Out :=
  let p := s.pchan pch
  let ch := pch / 2
  if p.bistState ≠ 2 then .next s
  else
    let (f, s) := s.fresh
    let bank := p.bistBank
    let test := fld p.bistctl.toNat 1 2
    let fails := min (Config.bistFails pch bank test f) bankRows
    let first := if fails = 0 then 0xFFFF else Config.bistFirst pch bank test f % bankRows
    let spares := look 4 p.spares bank
    let c := s.chan ch
    let p := { p with rows := delWhere p.rows (fun k => k / 2 ^ 14 = bank), tested := Machine.put p.tested bank f }
    if fails ≤ spares then
      .next (s.setPchan pch ({ p with
        bistres := bistWord false (spares - fails) first fails, copyRow := 0,
        spares := Machine.put p.spares bank (spares - fails) }.withBistState 3))
    else
      .next (((s.setPchan pch { p with
        bistctl := p.bistctl &&& ~~~(1 : Word64), bistres := bistWord true spares first fails,
        retired := addOnce p.retired bank }).setChan ch { c with events := setEvent c.events 4 }).raiseReplace 3)

/-- CONTROL_REGISTER_WRITE (R256, R257): RCTH, SCRUB, BISTCTL without GO, and the delays. -/
def execControlRegisterWrite (pch off n : Nat) (v : Word64) (s : State) : Out :=
  if ctlTakes off n = false ∨ off = 0x00 ∨ off = 0x08 ∨ off = 0x18 ∨ (off = 0x30 ∧ v.getLsbD 0 = true)
    ∨ (n = 1 ∧ 2 ^ 8 ≤ v.toNat) then .next s
  else .next (s.stewardWrite pch off v.toNat)

end Sys2Proof.Machine
end

