-- ==== Sys2Proof/Machine/Log.lean ====
section
/-! DEFINITION. Deferred records: their fields (R143), which operation appends which (R141), the arithmetic of an apply
(R154), folding (R147), and the append (R144, R145). -/

namespace Sys2Proof.Machine
open Sys2Proof

/-! ## Fields of a header (R143) -/

def Rec.op (r : Rec) : Nat := fld r.header.toNat 60 4
def Rec.wide (r : Rec) : Bool := r.header.getLsbD 59
def Rec.chan (r : Rec) : Nat := fld r.header.toNat 51 8
def Rec.woff (r : Rec) : Nat := fld r.header.toNat 22 29
def Rec.omod (r : Rec) : Nat := fld r.header.toNat 13 9
def Rec.ocore (r : Rec) : Nat := fld r.header.toNat 4 9
def Rec.strm (r : Rec) : Nat := fld r.header.toNat 1 3
def Rec.gen (r : Rec) : Nat := fld r.header.toNat 0 1
/-- (OCORE × 8 + STRM) × 2 + GEN. -/
def Rec.origin (r : Rec) : Nat := fld r.header.toNat 0 13
/-- The bytes of the word. -/
def Rec.bytes (r : Rec) : Nat := if r.wide then 8 else 4

/-- A header. -/
def recHeader (op : Nat) (wide : Bool) (chan woff omod origin : Nat) : Word64 :=
  BitVec.ofNat 64 (op * 2 ^ 60 + (if wide then 2 ^ 59 else 0) + chan * 2 ^ 51 + woff * 2 ^ 22 + omod * 2 ^ 13 + origin)

/-! ## Arithmetic -/

/-- The bytes of a word of this type. -/
def tyBytes (ty : ATy) : Nat := if ty = .i64 then 8 else 4

/-- The signed value of a word of `n` bytes. -/
def signedOf (n v : Nat) : Int := (BitVec.ofNat (8 * n) v).toInt

/-- A signed integer as a word of `n` bytes. -/
def wordOf (n : Nat) (v : Int) : Nat := (BitVec.ofInt (8 * n) v).toNat

/-- minimumNumber or maximumNumber of two f32 words, −0 < +0 (R225). -/
def f32min (a b : Nat) : Nat := (f32.minmax false a b).1
def f32max (a b : Nat) : Nat := (f32.minmax true a b).1
def f32add (a b : Nat) : Nat := (f32.add .rne a b).1

/-- i64 sum that saturates, and whether it did (ADD.fx). -/
def fxAdd (a b : Nat) : Nat × Bool :=
  let s := signedOf 8 a + signedOf 8 b
  if s < -(2 ^ 63 : Int) then (2 ^ 63, true)
  else if (2 ^ 63 : Int) ≤ s then (2 ^ 63 - 1, true) else (wordOf 8 s, false)

/-- The result of a record of code `op` on a word of `n` bytes, old value `o`, value `y` (R154), and whether an FXA sum
saturated. -/
def recApply (op n o y : Nat) : Nat × Bool :=
  match op with
  | 0 => (y, false)
  | 1 => ((o + y) % 2 ^ (8 * n), false)
  | 2 => (f32add o y, false)
  | 3 => fxAdd o y
  | 4 => ((if signedOf n y < signedOf n o then y else o), false)
  | 5 => (min o y, false)
  | 6 => (f32min o y, false)
  | 7 => ((if signedOf n o < signedOf n y then y else o), false)
  | 8 => (max o y, false)
  | 9 => (f32max o y, false)
  | 10 => (o &&& y, false)
  | 11 => (o ||| y, false)
  | 12 => (o ^^^ y, false)
  | _ => (o, false)

/-- A record with another value, which a second record of these graphs has folded into it. -/
def Rec.withVal (r : Rec) (v : Nat) (gs : List Nat) : Rec := { r with value := BitVec.ofNat 64 v, graphs := unionOnce r.graphs gs }

/-- The fold of a new record onto an earlier one of the same word and origin (R147), if the pair folds. -/
def Rec.fold (x y : Rec) : Option Rec :=
  if x.header.toNat % 2 ^ 60 ≠ y.header.toNat % 2 ^ 60 then none
  else if x.op = 0 then some (x.withVal (recApply y.op x.bytes x.value.toNat y.value.toNat).1 y.graphs)
  else if y.op = 0 then some { y with graphs := unionOnce x.graphs y.graphs }
  else if x.op = y.op ∧ x.op ≠ 2 then some (x.withVal (recApply y.op x.bytes x.value.toNat y.value.toNat).1 y.graphs)
  else none

/-- What an f32 adds to an FXA word of scale exponent `e` (R142; DEDUCED, unsafe: assumption log, 16). -/
def fxOfF32 (e : Int) (v : Nat) : Nat × Flags :=
  let lo : Int := -(2 ^ 63)
  let hi : Int := 2 ^ 63 - 1
  match f32.toNum v with
  | .nan _ => (0, { iv := true })
  | .inf neg => (wordOf 8 (if neg then lo else hi), { ovf := true })
  | .fin neg m x =>
    let (k, inexact) := roundInt .rne neg m (x + e)
    let r : Int := if neg then -(k : Int) else k
    if r < lo then (wordOf 8 lo, { ovf := true })
    else if hi < r then (wordOf 8 hi, { ovf := true })
    else (wordOf 8 r, { nx := inexact })

/-! ## Which record an operation appends (R141) -/

/-- STG of `size` bytes: the operation code and W; none is 0x07. -/
def stgRecord (fxa : Bool) (size : Nat) : Option (Nat × Bool) :=
  if size = 8 then some (0, true) else if size = 4 ∧ fxa = false then some (0, false) else none

/-- RED: the operation code, W, and whether the value is converted under R142; none is 0x07. -/
def redRecord (fxa : Bool) (op : AOp) (ty : ATy) (n64 : Bool) : Option (Nat × Bool × Bool) :=
  if fxa then
    match op, ty with
    | .add, .f32 => some (3, true, true)
    | .add, .i64 => some (3, true, false)
    | _, _ => none
  else
    let w : Bool := ty = .i64
    let uns : Bool := ty = .n32 || n64
    match op with
    | .add => some (if ty = .f32 then 2 else 1, w, false)
    | .min => some (if ty = .f32 then 6 else if uns then 5 else 4, w, false)
    | .max => some (if ty = .f32 then 9 else if uns then 8 else 7, w, false)
    | .and => some (10, w, false)
    | .or => some (11, w, false)
    | .xor => some (12, w, false)
    | .xchg => none
    | .cas => none

/-! ## The append -/

/-- The stream of a group's records (R145). -/
def Group.stream (g : Group) : Nat := g.tslot % 8

/-- The core has room in its log for `n` records (R144). -/
def Core.logRoom (c : Core) (n : Nat) : Bool :=
  (c.log.filter (fun x => match x with
    | .rcd _ _ _ => true
    | .marker _ _ => false)).length + n ≤ Config.logSize

/-- A stream's current generation has come to hold a record of graph `g` (R152). -/
def Core.noteGraph (c : Core) (strm g : Nat) : Core :=
  let gs := look [] c.streamGraphs strm
  if gs.contains g then c
  else if gs.length < 4 then { c with streamGraphs := Machine.put c.streamGraphs strm (gs ++ [g]) }
  else { c with streamOverflow := Machine.put c.streamOverflow strm true }

/-- Appends one record of group `k` to the word at `p` (R143 to R145). -/
def State.append (s : State) (k op : Nat) (wide : Bool) (value : Nat) (p : Place) : State :=
  let core := coreOf k
  let c := s.core core
  let strm := (s.grp k).stream
  let io := interleave (pteDil p.leaf) p.pa
  let origin := (core * 8 + strm) * 2 + (if look false c.gen strm then 1 else 0)
  let g := s.graphOf k
  let r : Rec := { value := BitVec.ofNat 64 value, header := recHeader op wide io.1 (io.2 / 4) s.device origin, graphs := [g] }
  s.setCore core ({ c with log := c.log ++ [LogItem.rcd p.home r g] }.noteGraph strm g)

end Sys2Proof.Machine
end

