-- ==== Sys2Proof/Machine/Access.lean ====
section
/-! DEFINITION. Global accesses: what a core's load of a place returns and when it waits (R168, R174, R175, R343, R344),
what a store does (R141, R165, R180, R376), and miss-status entries (R85). -/

namespace Sys2Proof.Machine
open Sys2Proof

/-- Records and not stores go to this page (R140). -/
def Place.deferred (p : Place) : Bool := !p.control && pteDef p.leaf
/-- A multicast-reduce page. -/
def Place.reduce (p : Place) : Bool := !p.control && pteMcr p.leaf
/-- Neither of these. -/
def Place.plain (p : Place) : Bool := !p.control && !pteDef p.leaf && !pteMcr p.leaf

/-- The records that an instruction asks room in the log for: one for every active lane, where any lane appends (R144; DEDUCED, unsafe:
assumption log, 39). -/
def logNeed (xs : List GLane) : Nat := if xs.any (fun x => x.at_.deferred) then xs.length else 0

/-! ## What a core sees of a byte (R168) -/

/-- The core's stores that have not left it, oldest first. -/
def State.ownStores (s : State) (core : Nat) : List (Nat × List Byte) := (s.core core).stores.map (fun e => (e.key, e.bytes))

/-- The byte at a key as a load of the core sees it: from its stores on their way, from its L1 if `l1`, else from the
home. -/
def State.seenByte (s : State) (core : Nat) (l1 : Bool) (key : Nat) : Byte :=
  match storedByte (s.ownStores core) key with
  | some b => b
  | none =>
    match (if l1 then find? (s.core core).l1 (key / 16) else none) with
    | some w => (w.extractLsb' (8 * (key % 16)) 8)
    | none => s.homeByte key

/-- `n` bytes from `key` on, little-endian. -/
def State.seen (s : State) (core : Nat) (l1 : Bool) (key : Nat) : Nat → Nat
  | 0 => 0
  | n + 1 => (s.seenByte core l1 key).toNat + 256 * s.seen core l1 (key + 1) n

/-- The core's L1, which holds 8,192 sectors, makes room for one more (R10; DESIGN CHOICE, safe: assumption log, 6). -/
def State.roomL1 (s : State) (core : Nat) : State :=
  let c := s.core core
  if c.l1.length < Config.l1Sectors then s
  else
    let (f, t) := s.fresh
    let n := Config.l1Victim core f % c.l1.length
    t.setCore core { t.core core with l1 := c.l1.eraseIdx n }

/-- The core's L1 takes a copy of the sector of `key` (R15, R343). -/
def State.fillL1 (s : State) (core key : Nat) : State :=
  let s := if (find? (s.core core).l1 (key / 16)).isSome then s else s.roomL1 core
  let c := s.core core
  s.setCore core { c with l1 := Machine.put c.l1 (key / 16) (BitVec.ofNat 128 (s.seen core false (key / 16 * 16) 16)) }

/-- The core's L1 drops the sector of `key`. -/
def State.dropSector (s : State) (core key : Nat) : State :=
  let c := s.core core
  s.setCore core { c with l1 := del c.l1 (key / 16) }

/-- Whether a lane's load reads at the home slice, and the state in which a sector that has been evicted meanwhile is
gone (DESIGN CHOICE, safe: assumption log, 6). -/
def State.goesHome (s : State) (core key n : Nat) (home : Bool) : Bool × State :=
  if (List.range n).all (fun i => (storedByte (s.ownStores core) (key + i)).isSome) then (false, s)
  else if home || (find? (s.core core).l1 (key / 16)).isNone then (true, s)
  else
    let (f, s) := s.fresh
    if Config.l1Evicts core (key / 16) f then (true, s.dropSector core key) else (false, s)

/-- The lanes that read at their homes. -/
def State.homeLanes (s : State) (core n : Nat) (home : Bool) : List GLane → List GLane × State
  | [] => ([], s)
  | x :: xs =>
    if x.at_.control then s.homeLanes core n home xs
    else
      let (h, s) := s.goesHome core x.at_.key n home
      let (r, s) := s.homeLanes core n home xs
      (if h then x :: r else r, s)

/-! ## Waits at the home slice (R344, R258) -/

/-- Notes of each lane whether a pin refuses it. -/
def State.noteRefusals (s : State) (r : Req) (ls : List GLane) : State := s.noteLines r (ls.map (fun x => x.at_.key / 128))

/-- The homes hold back one of these lanes' loads of `n` bytes (R344, R311). -/
def State.lanesHeld (s : State) (k n : Nat) (first : Word64) (ls : List GLane) : Bool :=
  ls.any (fun x => s.homeHolds (.unit k first) x.at_ || s.wordHeld k first x.at_.key n)

/-! ## Miss-status entries (R85) -/

/-- Distinct lines that these lanes touch. -/
def linesOf (ls : List GLane) : Nat := (unionOnce [] (ls.map (fun x => x.at_.key / 128))).length

/-- Whether a unit that needs `n` entries gets them now; where it does not, it stands among the rejected. Entries freed since
are kept for the oldest of these. A unit that waits holds its own already. A store takes entries as a load does (R85; DEDUCED,
unsafe: assumption log, 26). -/
def State.missRoom (s : State) (k : Nat) (u : Flight) (n : Nat) : Bool × State :=
  let c := s.core (coreOf k)
  let given := (c.granted.filter (fun x => x.1 = k)).map Prod.snd
  if n ≤ u.miss + given.sum then
    (true, s.setCore (coreOf k) { c with
      granted := c.granted.filter (fun x => x.1 ≠ k), missUsed := c.missUsed - given.sum })
  else
    let first : Bool := match c.rejected with
      | [] => true
      | x :: _ => x.1 = k
    if c.missUsed + n + (if first then 0 else c.missKept) ≤ Config.missEntries then
      (true, s.setCore (coreOf k) (c.dropRejected (fun x => x = k)))
    else if c.rejected.any (fun x => x.1 = k) then (false, s)
    else (false, s.setCore (coreOf k) { c with rejected := c.rejected ++ [(k, n)] })

/-- A waiting unit's entries: held from now on, or given back. -/
def State.holdMiss (s : State) (k : Nat) (u : Flight) (n : Nat) : State :=
  let c := s.core (coreOf k)
  s.setCore (coreOf k) (if u.miss ≤ n then { c with missUsed := c.missUsed + n - u.miss } else c.freeMiss (u.miss - n))

/-! ## Loads -/

/-- The bytes that lanes name, for the same-byte order. -/
def spansOf (ls : List GLane) (n : Nat) : List Span := ls.map (fun x => ⟨x.at_.key, n⟩)

/-- The cause 0x09 of a lane whose codeword at the home is uncorrectable: it is read once no mark is in its way (R237, R344). -/
def State.badLane (s : State) (ls : List GLane) : Option Cause :=
  firstLane ls (fun x => s.bad.contains (x.at_.key / 64) && !s.markedOff x.at_.key)
    (fun x => ⟨9, BitVec.ofNat 64 x.va, 4⟩)

/-- The cause 0x08 of a lane at or above the mark of a STRANDED window. -/
def State.strandedLane (s : State) (ls : List GLane) : Option Cause := s.stranded (ls.map (fun x => (x.va, x.at_.key)))

/-- What a place of the control range reads. -/
def State.ctlRead (s : State) (p : Place) : Nat :=
  match ctlPlace p.pa with
  | some (pch, off) => (s.pchan pch).ctlValue off
  | none => 0

/-- What a lane reads once nothing holds it back. -/
def State.laneValue (s : State) (core n : Nat) (home : Bool) (x : GLane) : Nat :=
  if x.at_.control then s.ctlRead x.at_ else s.seen core (!home) x.at_.key n

/-- A lane's read of the control range is one that no register takes. -/
def GLane.ctlBadRead (x : GLane) (n : Nat) : Bool :=
  x.at_.control && (match ctlPlace x.at_.pa with
    | some (_, off) => !ctlTakes off n
    | none => true)

def GLane.ctlReadWaits (x : GLane) (s : State) : Bool :=
  x.at_.control && (match ctlPlace x.at_.pa with
    | some (pch, off) => (s.pchan pch).ctlReadWaits off
    | none => false)

/-- A load of `n` bytes by each listed (lane, address) for group `k` (R343, R344). `home` reads each lane at its home
slice. The values are in the order of the lanes. -/
def State.gLoad (s : State) (u : Flight) (k n : Nat) (home : Bool) (ls : List (Nat × Nat)) : Got :=
  let core := coreOf k
  let g := s.grp k
  match s.resolve core g.ctx n false ls with
  | .error c => .trap c
  | .ok xs =>
    if xs.any (fun x => x.at_.control) && g.controlAhead u then .stall s
    else
    match firstLane xs (fun x => x.ctlBadRead n) (fun x => u.operand (BitVec.ofNat 64 x.va)) with
    | some c => .trap c
    | none =>
      match firstLane xs (fun x => s.unreachable x.at_) unreachableCause with
      | some c => .trap c
      | none =>
        if g.sameBytes u (spansOf xs n) then .stall s
        else
          let need := linesOf xs
          match s.missRoom k u need with
          | (false, t) => .stall t
          | (true, t) =>
            let (hs, t) := t.homeLanes core n home xs
            let t := t.noteRefusals (.unit k u.first) hs
            match t.badLane (hs.filter (fun x => !t.lanesHeld k n u.first [x])) with
            | some c => .trap c
            | none =>
              match t.strandedLane xs with
              | some c => .trap c
              | none =>
                let t := t.touch (xs.map (fun x => x.at_.key))
                match t.markWait (xs.map (fun x => x.at_.key)) with
                | some w => .wait (t.holdMiss k u need) w need
                | none =>
                  match (if t.lanesHeld k n u.first hs || xs.any (fun x => x.ctlReadWaits t) then none else t.readPlanes hs) with
                  | none => .wait (t.holdMiss k u need) .home need
                  | some far =>
                    let vs := xs.map (fun x => (x.lane, t.laneValue core n home x))
                    let t := if home then t else hs.foldl (fun t x => t.fillL1 core x.at_.key) t
                    .vals ((t.sendReads far).holdMiss k u 0) vs

/-! ## Stores -/

/-- The bytes of one lane of a store enter core order (R168): they go on their way, and the L1's copy is updated. `first` is the
plane that a remote home's line names (R266), and `va` the lane's address. -/
def State.storeBytes (s : State) (k key first va : Nat) (bs : List Byte) : State :=
  let core := coreOf k
  let c := s.core core
  let had := (find? c.l1 (key / 16)).isSome
  let l1 := if had then
      Machine.put c.l1 (key / 16) (BitVec.ofNat 128 ((List.range 16).foldr (fun i v =>
        (match storedByte [(key, bs)] (key / 16 * 16 + i) with
         | some b => b.toNat
         | none => (s.seenByte core true (key / 16 * 16 + i)).toNat) + 256 * v) 0))
    else c.l1
  (s.setCore core { c with
    stores := c.stores ++ [{ key := key, bytes := bs, grp := k, marked := false, first := first, va := va, entered := s.cycle }],
    l1 := l1 }).onGrp k
    (fun g => { g with dirty := addOnce g.dirty (key / 128) })

/-- Contributions reach the switch: they join the open round of their word, or open one (R180). -/
def State.addParts (s : State) (key mset : Nat) (ps : List (Nat × Word32)) (launch : Option Nat) : State :=
  match s.rounds.find? (fun x => x.2.key = key) with
  | some (n, r) => { s with rounds := Machine.put s.rounds n { r with parts := r.parts ++ ps, launch := launch.or r.launch } }
  | none =>
    { s with
      rounds := Machine.put s.rounds s.nextRound { key := key, mset := mset, parts := ps, start := s.cycle, launch := launch },
      nextRound := s.nextRound + 1 }

/-- A contribution of this module to the round of a word (R180). -/
def State.contribute (s : State) (k : Nat) (p : Place) (v : Nat) : State :=
  let graph := s.graphOf k
  let seq := ((s.ring.find? (fun x => x.2.graph = graph)).map (fun x => x.2.seq)).getD 0
  s.addParts p.key (pteMset p.leaf) [(s.device, BitVec.ofNat 32 v)] (some seq)

/-- One lane of a store: its lane, and the value it stores. -/
def valueOf (vs : List (Nat × Nat)) (lane : Nat) : Nat := ((vs.find? (fun x => x.1 = lane)).map Prod.snd).getD 0

/-- One lane of a store of `n` bytes acts, with its value (R376). -/
def State.storeLane (s : State) (k n : Nat) (x : GLane) (v : Nat) : State :=
  if x.at_.control then
    match ctlPlace x.at_.pa with
    | some (pch, off) => s.ctlWrite pch off v
    | none => s
  else if x.at_.deferred then s.append k 0 (n = 8) v x.at_
  else if x.at_.reduce then s.contribute k x.at_ v
  else s.storeBytes k x.at_.key (x.at_.pa / 128 % 18) x.va ((cellsLE 0 n v).map Prod.snd)

/-- A lane that the control range or a multicast-reduce page refuses: 0x02 (R256, R267). -/
def State.storeMisuse (s : State) (n : Nat) (reduces : Bool) (vs : List (Nat × Nat)) (x : GLane) : Bool :=
  if x.at_.control then
    match ctlPlace x.at_.pa with
    | some (pch, off) => !(ctlTakes off n && (s.pchan pch).ctlGood off (valueOf vs x.lane))
    | none => true
  else x.at_.reduce && !(reduces && n = 4)

/-- A lane that a deferred page refuses: 0x07 (R141). -/
def deferMisuse (core n : Nat) (records : Bool) (x : GLane) : Bool :=
  x.at_.deferred && (isSteward core || !records || (stgRecord (pteFxa x.at_.leaf) n).isNone)

/-- The cause 0x07 of a lane. -/
def deferCause (x : GLane) : Cause := ⟨7, BitVec.ofNat 64 x.va, BitVec.ofNat 64 x.lane⟩

/-- A lane has to wait before it can act: the round of its word is open, or its register is not ready. -/
def State.storeWaits (s : State) (x : GLane) (v : Nat) : Bool :=
  if x.at_.control then
    match ctlPlace x.at_.pa with
    | some (pch, off) => s.ctlWriteWaits pch off v
    | none => false
  else x.at_.reduce && s.rounds.any (fun r => r.2.key = x.at_.key && r.2.parts.any (fun p => p.1 = s.device))

/-- The lanes of a store act in order, as far as none has to wait for one before it: for a check that it has begun, or for the end
of a round that it has contributed to (R180, R256, R376). The state, and the lanes that are left. -/
def State.storeLanes (k n : Nat) : List (GLane × Nat) → State → State × List (GLane × Nat)
  | [], s => (s, [])
  | x :: xs, s => if s.storeWaits x.1 x.2 then (s, x :: xs) else State.storeLanes k n xs (s.storeLane k n x.1 x.2)

/-- The lanes of a store with their values, in the order in which they act: every record is appended in one step, and every byte
enters core order in it; lanes that may wait for one another come last (R144, R376). -/
def storeOrder (vs : List (Nat × Nat)) (xs : List GLane) : List (GLane × Nat) :=
  (xs.filter (fun x => x.at_.deferred) ++ xs.filter (fun x => x.at_.plain)
    ++ xs.filter (fun x => !x.at_.deferred && !x.at_.plain)).map (fun x => (x, valueOf vs x.lane))

/-- These lanes of a store act; those that have to wait are what is left of it. -/
def State.storeFrom (s : State) (u : Flight) (k n need : Nat) (xs : List (GLane × Nat)) : Got :=
  let (t, rest) := State.storeLanes k n xs s
  if rest = [] then .vals (t.holdMiss k u 0) [] else .part (t.holdMiss k u need) rest need

/-- A store goes on with the lanes that are left of it, which are not checked again (R166); one that a trap has cancelled takes its
miss-status entries anew (DEDUCED, unsafe: assumption log, 11). -/
def State.storeRest (s : State) (u : Flight) (k n : Nat) : Got :=
  let need := linesOf (u.rest.map Prod.fst)
  match s.missRoom k u need with
  | (false, t) => .stall t
  | (true, t) => t.storeFrom u k n need u.rest

/-- A store of `n` bytes by each listed (lane, address) with its value, for group `k` (R376). `records` says that lanes on deferred
pages may append and lanes on multicast-reduce pages contribute; `rel` is the scope of a release. -/
def State.gStore (s : State) (u : Flight) (k n : Nat) (records : Bool) (rel : Option Nat) (ls vs : List (Nat × Nat)) : Got :=
  let core := coreOf k
  let g := s.grp k
  if u.rest ≠ [] then s.storeRest u k n
  else
  match s.resolve core g.ctx n true ls with
  | .error c => .trap c
  | .ok xs =>
    if xs.any (fun x => x.at_.control) && g.controlAhead u then .stall s
    else
    match firstLane xs (s.storeMisuse n records vs) (fun x => u.operand (BitVec.ofNat 64 x.va)) with
    | some c => .trap c
    | none =>
      match firstLane xs (deferMisuse core n records) deferCause with
      | some c => .trap c
      | none =>
        match firstLane xs (fun x => !x.at_.reduce && s.unreachable x.at_) unreachableCause with
        | some c => .trap c
        | none =>
          let ps := xs.filter (fun x => x.at_.plain)
          if g.sameBytes u (spansOf xs n) then .stall s
          else
            match s.strandedLane ps with
            | some c => .trap c
            | none =>
              let need := linesOf xs
              match s.missRoom k u need with
              | (false, t) => .stall t
              | (true, t) =>
                if !(t.core core).logRoom (logNeed xs) then .stall t
                else
                  let t := t.touch (ps.map (fun x => x.at_.key))
                  if xs.any (fun x => t.storeWaits x (valueOf vs x.lane)) then .wait (t.holdMiss k u need) .home need
                  else
                    let rel := if xs.any (fun x => x.at_.reduce) then some (max 8 (rel.getD 8)) else rel
                    match (match rel with
                      | none => some t
                      | some sc => t.release k u sc) with
                    | none => .wait (t.holdMiss k u need) .older need
                    | some t => t.storeFrom u k n need (storeOrder vs xs)

/-- A touch (WD 7): the address traps of a b8 access, then every ARMED window over these bytes starts (R119, R343). -/
def State.gTouch (s : State) (u : Flight) (k : Nat) (ls : List (Nat × Nat)) : Got :=
  match s.resolve (coreOf k) (s.grp k).ctx 1 false ls with
  | .error c => .trap c
  | .ok xs =>
    match firstLane xs (fun x => x.ctlBadRead 1) (fun x => u.operand (BitVec.ofNat 64 x.va)) with
    | some c => .trap c
    | none =>
      match firstLane xs (fun x => s.unreachable x.at_) unreachableCause with
      | some c => .trap c
      | none => .vals (s.touch (xs.map (fun x => x.at_.key))) []

/-- The spans of global (lane, address) pairs, as far as they translate for a load, or for a store where `write`. -/
def State.globalSpans (s : State) (k n : Nat) (write : Bool) (ls : List (Nat × Nat)) : List Span :=
  ls.filterMap (fun x =>
    match s.translate (coreOf k) (s.grp k).ctx x.2 x.1 write false with
    | .ok p => some ⟨p.key, n⟩
    | .error _ => none)

/-- What a `Got` makes of a unit that accesses these bytes: `f` takes the values. -/
def Got.then (r : Got) (s : State) (u : Flight) (spans : List Span) (f : State → List (Nat × Nat) → Res) : Res :=
  match r with
  | .trap c => .trap s c
  | .wait t w held => .wait t { u.waiting w spans with miss := held }
  | .part t rest held => .wait t { u.waiting .home spans with miss := held, rest := rest }
  | .stall t => .stall t
  | .vals t vs => f t vs

end Sys2Proof.Machine
end

