-- ==== Sys2Proof/Machine/Deferred.lean ====
section
/-! DEFINITION. Deferred records after their append: binning and shipment (R18, R19, R146, R147), polders (R148, R149), COMMIT
(R150 to R153, R322), notices, grants and applies (R151, R154, R155, R252), and acknowledgements. -/

namespace Sys2Proof.Machine
open Sys2Proof

/-! ## Where records are -/

/-- The binning unit of a core: die × 16 + unit (R18). -/
def unitOf (core : Nat) : Nat := core / 128 * 16 + core % 128 / 8

/-- The records of a bin, and all that a unit holds. -/
def BinUnit.bin (u : BinUnit) (b : Nat) : List Rec := look [] u.bins b
def BinUnit.all (u : BinUnit) : List Rec := u.bins.flatMap Prod.snd ++ u.staging

/-- Records of a core's log. -/
def Core.logRecs (c : Core) : List Rec :=
  c.log.filterMap (fun x => match x with
    | .rcd _ r _ => some r
    | .marker _ _ => none)

/-- A record that the apply engine has not yet taken. -/
def Rec.alive (r : Rec) : Bool := r.op ≠ 15

/-- The records of this module's own that have left the logs and are not yet parked, and those that are parked. -/
def State.moving (s : State) : List Rec := s.units.flatMap (fun u => u.2.all) ++ s.transit.flatMap Packet.recs
def Chan.parkedRecs (c : Chan) : List Rec := (c.slots.flatMap Slot.recs).filter Rec.alive
def State.parkedRecs (s : State) : List Rec := s.chans.flatMap (fun c => c.2.parkedRecs)

/-- A commit at scope `sc` waits for this record abroad: no notice covers it yet, or, at pod scope and wider, it is not known
to be applied (R151, R152). -/
def Abroad.awaited (a : Abroad) (sc : Nat) : Bool := a.commits = [] || 8 ≤ sc

/-- The origins of stream `st` (core × 8 + stream) of this module that still have records somewhere that a commit at scope `sc`
has to wait for. -/
def State.openOrigins (s : State) (sc st : Nat) : List Nat :=
  [st * 2, st * 2 + 1].filter (fun o =>
    ((s.core (st / 8)).logRecs ++ s.moving ++ s.parkedRecs).any (fun r => r.omod = s.device && r.origin = o)
      || s.abroad.any (fun a => a.awaited sc && a.rcd.origin = o))

/-- A notice or a commit covers a record. -/
def coversRec (module : Nat) (origins : List Nat) (r : Rec) : Bool := r.alive && r.omod = module && origins.contains r.origin

/-! ## Binning -/

/-- A bin with a record put into it: folded onto the latest record of the same word and origin, or appended (R147). -/
def foldInto (r : Rec) : List Rec → Option (List Rec)
  | [] => none
  | x :: xs =>
    match foldInto r xs with
    | some ys => some (x :: ys)
    | none =>
      if x.header.toNat % 2 ^ 60 ≠ r.header.toNat % 2 ^ 60 ∨ xs.any (fun y => y.header.toNat % 2 ^ 60 = r.header.toNat % 2 ^ 60)
      then none else (x.fold r).map (fun y => y :: xs)

def binRecord (r : Rec) (b : List Rec) : List Rec := (foldInto r b).getD (b ++ [r])

/-- Puts a record into a bin; none while the bin has no room for it. -/
def State.intoBin (s : State) (unit bin : Nat) (r : Rec) : Option State :=
  let u := s.bunit unit
  let b := binRecord r (u.bin bin)
  if Config.binSize < b.length then none else some (s.setBunit unit { u with bins := Machine.put u.bins bin b })

/-- Records of the ingress staging go into their channel bins, in order, as far as there is room (R19). -/
def State.restage (s : State) (unit : Nat) : List Rec → State
  | [] => s.setBunit unit { s.bunit unit with staging := [] }
  | r :: rs =>
    match s.intoBin unit r.chan r with
    | some t => t.restage unit rs
    | none => s.setBunit unit { s.bunit unit with staging := r :: rs }

/-! ## Commits -/

/-- Some waiting unit, or the end of a graph, belongs to this commit. -/
def State.commitHeld (s : State) (id : Nat) : Bool :=
  s.graphs.any (fun x => x.2.commit = some id) || s.groups.any (fun x => x.2.live
    && (x.2.svcCommit = some id || x.2.flight.any (fun u => !u.done && u.commit = some id)))

/-- Records of module `m` of these origins are between their logs and their polders, but for the bins for the modules that
`skip` names. -/
def State.onTheWay (s : State) (m : Nat) (origins skip : List Nat) : Bool :=
  s.units.any (fun u => u.2.staging.any (coversRec m origins)
      || u.2.bins.any (fun b => !(256 ≤ b.1 && skip.contains (b.1 - 256)) && b.2.any (coversRec m origins)))
    || s.transit.any (fun p => p.recs.any (coversRec m origins))

/-- The channels whose polders hold records of module `m` of these origins. -/
def State.noticeChans (s : State) (m : Nat) (origins : List Nat) : List Nat :=
  (s.chans.filter (fun x => x.2.parkedRecs.any (coversRec m origins))).map Prod.fst

/-- The commit's markers are placed and met, and each record that it covers has been parked, or sent to its module: it may
send its notices. -/
def State.commitReady (s : State) (c : Commit) : Bool :=
  !c.noticed && c.todo = [] && c.pending = [] && !s.onTheWay s.device c.origins c.skip

/-- A notice of this commit covers a record that has been sent to another module. -/
def Abroad.covered (a : Abroad) (c : Commit) : Bool :=
  a.awaited c.scope && c.origins.contains a.rcd.origin && !c.skip.contains a.module

/-- Sends the notices of a commit, to the channels and the modules that hold records which it covers (R151). -/
def State.sendNotices (s : State) (id : Nat) (c : Commit) : State :=
  let chans := s.noticeChans s.device c.origins
  { s with
    commits := Machine.put s.commits id { c with
      noticed := true, chans := chans,
      mods := unionOnce [] ((s.abroad.filter (fun a => a.covered c)).map Abroad.module) },
    abroad := s.abroad.map (fun (a : Abroad) => if a.covered c then { a with commits := addOnce a.commits id } else a),
    noticesOut := s.noticesOut ++ chans.map (fun ch => ⟨s.device, id, ch, c.origins⟩) }

/-- Every acknowledgement of the commit has come. -/
def Commit.finished (c : Commit) : Bool := c.noticed && c.todo = [] && c.pending = [] && c.chans = [] && c.mods = []

/-- The cause of a COMMIT that covered lost records: store 4 where a destination was uncorrectable, else store 5 (R155, R239). -/
def Commit.lossCause (c : Commit) : Option Cause :=
  if c.lost || c.losses.any Prod.snd then some ⟨9, 0, 4⟩ else if c.losses ≠ [] then some ⟨9, 0, 5⟩ else none

/-- The graphs that a stream has had records of in the generation before count for its current one as well, as many as it keeps
(R152). -/
def Core.regainGraphs (c : Core) (st : Nat) : Core :=
  let gs := unionOnce (look [] c.streamGraphs st) (look [] c.prevGraphs st)
  { c with
    streamGraphs := Machine.put c.streamGraphs st (gs.take 4),
    streamOverflow := Machine.put c.streamOverflow st (look false c.streamOverflow st || look false c.prevOverflow st || 4 < gs.length) }

/-- Forgets a finished commit: its streams are free (R145). One that has given modules up leaves records of these streams held, which a
later COMMIT of their graphs covers (R151 to R153). -/
def State.closeCommit (s : State) (id : Nat) : State :=
  let held : Bool := (find? s.commits id).any (fun c => c.skip ≠ [])
  { s with
    commits := del s.commits id,
    cores := mapVals s.cores (fun _ c =>
      let mine := (c.streamBusy.filter (fun b => b.2 = id)).map Prod.fst
      let c := if held then mine.foldl Core.regainGraphs c else c
      { c with
        streamBusy := c.streamBusy.filter (fun b => b.2 ≠ id),
        prevGraphs := delWhere c.prevGraphs mine.contains, prevOverflow := delWhere c.prevOverflow mine.contains }) }

/-- What a commit that has been cancelled leaves when it is finished: the losses that it covered wait for the next COMMIT
that covers their streams (R153, R155, R239). -/
def State.returnLosses (s : State) (c : Commit) : State :=
  let more := if c.lost && !c.losses.any Prod.snd then c.marks.map (fun o => (o, true)) else []
  { s with lostOrigins := (s.lostOrigins ++ c.losses ++ more).eraseDups }

/-- Modules for which the commit holds bins, or waits for an acknowledgement, that no plane reaches (R153). -/
def State.unreachedBy (s : State) (c : Commit) : List Nat :=
  let mods := (s.units.flatMap (fun u => u.2.bins)).filterMap (fun b =>
    if 256 ≤ b.1 ∧ !c.skip.contains (b.1 - 256) ∧ b.2.any (coversRec s.device c.origins) then some (b.1 - 256) else none)
  (mods ++ c.mods).filter (fun m => (s.planeFor m 0).isNone)

/-- A commit gives up modules that no plane reaches: what it holds for them, and what has gone there without an acknowledgement,
is left to a later COMMIT (R153). -/
def State.giveUp (s : State) (id : Nat) (ms : List Nat) (c : Commit) : State :=
  { s with
    commits := Machine.put s.commits id { c with mods := c.mods.filter (fun x => !ms.contains x), skip := unionOnce c.skip ms },
    abroad := s.abroad.map (fun (a : Abroad) =>
      if ms.contains a.module then { a with commits := a.commits.filter (fun x => x ≠ id) } else a) }

/-- Moves one commit on as far as it goes. A commit whose unit has been cancelled places no more markers, gives up the modules
that no plane reaches, and is forgotten when it is finished (R153). -/
def State.commitStep (s : State) (id : Nat) (held : Bool) : State :=
  match find? s.commits id with
  | none => s
  | some c =>
    let s := if held then s else s.giveUp id (s.unreachedBy c) { c with todo := [] }
    let c := look c s.commits id
    let s := if s.commitReady c then s.sendNotices id c else s
    match find? s.commits id with
    | some c => if c.finished && !held then (s.returnLosses c).closeCommit id else s
    | none => s

/-- Moves another module's commit on: once none of its records is on its way here, its channels have their notices, and once
these have acknowledged it is done (R151). -/
def State.farStep (s : State) (f : FarCommit) : State :=
  let n := f.notice
  if f.sent ∨ s.onTheWay n.module n.origins [] then s
  else
    let chans := s.noticeChans n.module n.origins
    { s with
      farCommits := if chans = [] then s.farCommits.erase f else s.farCommits.map (fun x =>
        if x = f then { f with sent := true, chans := chans } else x),
      noticesOut := s.noticesOut ++ chans.map (fun ch => { n with chan := ch }) }

def State.commitsStep (s : State) : State :=
  let t := (s.commits.map Prod.fst).foldl (fun t id => t.commitStep id (t.commitHeld id)) s
  t.farCommits.foldl State.farStep t

/-- The streams that a COMMIT of group `k` covers, in the order in which its markers are placed (R145, R152). -/
def State.streamsOf (s : State) (k sc : Nat) : List Nat :=
  let core := coreOf k
  let all := fun cs : List Nat => cs.flatMap (fun c => (List.range 8).map (fun i => c * 8 + i))
  match sc with
  | 1 | 2 | 3 => [core * 8 + (s.grp k).stream]
  | 4 => all [core]
  | 5 => all ((List.range 128).map (fun i => core / 128 * 128 + i))
  | 7 =>
    let g := s.graphOf k
    (all (List.range 256)).filter (fun st =>
      let c := s.core (st / 8)
      look false c.streamOverflow (st % 8) || (look [] c.streamGraphs (st % 8)).contains g
        || look false c.prevOverflow (st % 8) || (look [] c.prevGraphs (st % 8)).contains g)
  | _ => all (List.range 256)

/-- Another commit's marker in stream `st` is not complete (R145). -/
def State.streamTaken (s : State) (id st : Nat) : Bool :=
  match find? (s.core (st / 8)).streamBusy (st % 8) with
  | some other => other ≠ id && (find? s.commits other).isSome
  | none => false

/-- Places the commit's markers, stream by stream, up to the first stream that is not free (R145). A marker in a log that holds
no record of its stream has nothing to drain. -/
def State.placeMarkers (s : State) (id : Nat) : List Nat → State
  | [] =>
    match find? s.commits id with
    | none => s
    | some c => { s with commits := Machine.put s.commits id { c with todo := [] } }
  | st :: rest =>
    match find? s.commits id with
    | none => s
    | some c =>
      let x := s.core (st / 8)
      if s.streamTaken id st then { s with commits := Machine.put s.commits id { c with todo := st :: rest } }
      else
        let os := s.openOrigins c.scope st
        let lost := s.lostOrigins.filter (fun o => o.1 / 2 = st)
        let inLog : Bool := x.logRecs.any (fun r => r.omod = s.device && r.origin / 2 = st)
        let y : Core := { x with
          gen := Machine.put x.gen (st % 8) (!(look false x.gen (st % 8))),
          streamGraphs := del x.streamGraphs (st % 8), streamOverflow := del x.streamOverflow (st % 8),
          prevGraphs := Machine.put x.prevGraphs (st % 8) (look [] x.streamGraphs (st % 8)),
          prevOverflow := Machine.put x.prevOverflow (st % 8) (look false x.streamOverflow (st % 8)),
          streamBusy := Machine.put x.streamBusy (st % 8) id,
          log := if inLog then x.log ++ [.marker (st % 8) id] else x.log }
        let c := { c with
          origins := c.origins ++ os, todo := rest, pending := if inLog then c.pending ++ [st] else c.pending,
          marks := c.marks ++ [st * 2 + (if look false x.gen (st % 8) then 1 else 0)], losses := c.losses ++ lost }
        ({ s with
          commits := Machine.put s.commits id c,
          lostOrigins := s.lostOrigins.filter (fun o => o.1 / 2 ≠ st) }.setCore (st / 8) y).placeMarkers id rest

/-- COMMIT's wait for its commit `id`. Where no plane reaches a module that it needs, it is given up and goes on as one whose
unit is cancelled (R153). TADDR of that cause is 0 and TINFO the first of the modules in the model's order (DESIGN CHOICE, unsafe:
assumption log, 13). -/
def commitWait (sc id : Nat) (u : Flight) (s : State) : Res :=
  let s := match find? s.commits id with
    | some c => (s.placeMarkers id c.todo).commitStep id true
    | none => s
  match find? s.commits id with
  | none => .done s
  | some c =>
    match (s.unreachedBy c).head? with
    | some m => .trap (s.commitStep id false) ⟨0x0A, 0, BitVec.ofNat 64 m⟩
    | none =>
      if !c.finished then .wait s { u.waiting .commit [] with commit := some id }
      else
        match s.release s.cur u sc with
        | none => .wait s { u.waiting .commit [] with commit := some id }
        | some t =>
          let t := t.closeCommit id
          match c.lossCause with
          | some x => .trap t x
          | none => .done t

/-- A commit of group `grp` at a scope begins; it takes the next number. -/
def State.beginCommit (s : State) (grp sc : Nat) (todo : List Nat) : State :=
  { s with
    nextCommit := s.nextCommit + 1,
    commits := Machine.put s.commits s.nextCommit {
      grp := grp, scope := sc, todo := todo, origins := [], pending := [], noticed := false, chans := [], mods := [],
      lost := false } }

/-- COMMIT (R150, R151, R322). -/
def runCommit (sc : Fin 16) (u : Flight) (s : State) : Res :=
  if sc.val = 0 ∨ 10 ≤ sc.val then .trap s u.operand
  else if isSteward s.here then
    match s.release s.cur u sc with
    | none => .wait s (u.waiting .older [])
    | some t => .done t
  else
    let s := s.commitsStep
    match u.commit with
    | some id => commitWait sc id u s
    | none => commitWait sc s.nextCommit u (s.beginCommit s.cur sc (s.streamsOf s.cur sc))

def execCommit (sc : Fin 16) (s : State) : Out := issue (.commit sc) (runCommit sc) s

/-! ## Losses (R155, R239) -/

/-- The launches of these graphs have met uncorrectable data (R155, R276). -/
def State.noteLoss (s : State) (graphs : List Nat) : State :=
  { s with ring := mapVals s.ring (fun _ l => if graphs.contains l.graph then { l with events := setEvent l.events 4 } else l) }

/-- A loss is charged to the commit that covers the record, or else to the next that will. -/
def State.chargeLoss (s : State) (origin : Nat) (dest : Bool) : State :=
  match s.commits.find? (fun x => x.2.marks.contains origin) with
  | some (id, c) => { s with commits := Machine.put s.commits id { c with losses := (c.losses ++ [(origin, dest)]).eraseDups } }
  | none => { s with lostOrigins := (s.lostOrigins ++ [(origin, dest)]).eraseDups }

/-- A record is lost: `dest` says that its destination is uncorrectable, else it is lost on its way. The channel of its word, and
the launches whose groups appended it, note it. -/
def State.loseRecord (s : State) (ch : Nat) (r : Rec) (dest : Bool) : State :=
  let c := s.chan ch
  let t := (s.setChan ch { c with
    lostN := satAdd c.lostN 1, lost1 := c.lost0, lost0 := r.woff, events := setEvent c.events 5 }).noteLoss r.graphs
  if r.omod = s.device then t.chargeLoss r.origin dest else t

/-! ## Binning and shipment -/

/-- BIN_DRAIN (R146). A record that is lost in the log or its bin never leaves it (R239). -/
def execBinDrain (d : Drain) (s : State) : Out :=
  let core := d.core
  let c := s.core core
  match c.log with
  | [] => .next s
  | .rcd home r _ :: rest =>
    let t := s.setCore core { c with log := rest }
    if d.fails then
      .next ((if home = s.device then t.loseRecord r.chan r false
        else (t.noteLoss r.graphs).chargeLoss r.origin false).commitsStep)
    else
      match t.intoBin (unitOf core) (if home = s.device then r.chan else 256 + home) r with
      | none => .next s
      | some t => .next t.commitsStep
  | .marker st id :: rest =>
    let t := s.setCore core { c with log := rest }
    match find? t.commits id with
    | none => .next t
    | some x =>
      .next ({ t with commits := Machine.put t.commits id { x with pending := x.pending.erase (core * 8 + st) } }.commitsStep)

/-- A commit whose markers are all met needs this bin, or another module's whose notice has come (R151, R153). -/
def State.wanted (s : State) (bin : Nat) (b : List Rec) : Bool :=
  s.commits.any (fun c => c.2.todo = [] && c.2.pending = [] && !(256 ≤ bin && c.2.skip.contains (bin - 256))
      && b.any (coversRec s.device c.2.origins))
    || s.farCommits.any (fun f => !f.sent && b.any (coversRec f.notice.module f.notice.origins))

/-- The channel's polder has a slot for one more packet; the reserve serves bins that a commit ships (R148). -/
def State.polderRoom (s : State) (ch : Nat) (byCommit : Bool) : Bool :=
  let c := s.chan ch
  c.slots.length + c.parked + s.inTransit ch + (if byCommit then 0 else 64) < c.slotCount

/-- The origin summary of a bin that leaves this module's unit `unit` (R146, R149): OMOD is that of its first record, and the
ingress flag is set where any of its records comes from another module (DEDUCED, unsafe: assumption log, 42). -/
def originMask (rs : List Rec) : Word64 :=
  BitVec.ofNat 64 (rs.foldl (fun m r => m ||| 2 ^ (8 * r.strm + r.ocore % 8)) 0)
def State.summary (s : State) (unit : Nat) (b : List Rec) : Summary :=
  { omod := (b.head?.map Rec.omod).getD 0, unit := unit, ingress := b.any (fun r => r.omod ≠ s.device),
    omask := originMask b, gmask := originMask (b.filter (fun r => r.gen = 1)) }

/-- The bytes of a module bin: its tag, how many records it holds, its origin summary, and the records (R143, R146; DESIGN CHOICE,
unsafe: assumption log, 3). -/
def binBytes (tag : Nat) (x : Summary) (b : List Rec) : List Byte :=
  bytesLE 4 tag ++ bytesLE 2 b.length ++ bytesLE 2 x.omod ++ bytesLE 2 (x.unit + if x.ingress then 32 else 0)
    ++ bytesLE 8 x.omask.toNat ++ bytesLE 8 x.gmask.toNat
    ++ b.flatMap (fun r => bytesLE 8 r.value.toNat ++ bytesLE 8 r.header.toNat)

/-- Sends a module bin as 36 flits on VC 2 (R264). -/
def State.sendBin (s : State) (plane module : Nat) (bs : List Byte) : State :=
  (List.range 36).foldl (fun t i => t.sendFlit plane 2 module ((bs.drop (116 * i)).take 116)) s

/-- The plane that a unit's bins for a module would take first (R19). -/
def binPlane (unit module : Nat) : Nat := (module + unit) % 18

/-- A module bin can leave its unit on this plane: its virtual channel has credit, and every earlier bin of the unit for the
module that went another way, or whose path has failed, is acknowledged or sent again (R19). -/
def State.binLeaves (s : State) (unit module plane : Nat) : Bool :=
  s.hasCredit plane 2 && !s.binsOut.any (fun o => o.unit = unit && o.module = module && (o.plane ≠ plane || o.failed))

/-- BIN_SHIP: a full bin, or one that a commit needs (R19, R146, R148, R153). -/
def execBinShip (unit bin : Nat) (s : State) : Out :=
  let u := s.bunit unit
  let b := u.bin bin
  let w := s.wanted bin b
  let full : Bool := b.length = Config.binSize
  if b = [] ∨ (full = false ∧ w = false) then .next s
  else
    let t := s.setBunit unit { u with bins := del u.bins bin }
    if bin < 256 then
      if s.polderRoom bin w then
        let p : Packet := ⟨s.summary unit b, bin, b, w⟩
        .next (({ t with transit := t.transit ++ [p] }.noteFull bin |>.restage unit u.staging).commitsStep)
      else .next s
    else
      let m := bin - 256
      match s.planeFor m (binPlane unit m) with
      | none => .next s
      | some p =>
        if s.binLeaves unit m p then
          let bs := binBytes t.nextTag (s.summary unit b) b
          .next (({ t with
            nextTag := t.nextTag + 1, abroad := t.abroad ++ b.map (fun r => Abroad.mk m r []),
            binsOut := t.binsOut ++ [BinOut.mk unit m p t.nextTag bs t.cycle false] }.sendBin p m bs).commitsStep)
        else .next s

/-- Records of one origin, but for their generation (R156). -/
def Rec.sameOrigin (a b : Rec) : Bool := a.omod = b.omod && a.origin / 2 = b.origin / 2

/-- The unit that takes a record of a module bin that comes on a plane: its origin core mod 16, of the die on which the port
terminates (R19, R21). While the unit of that number on the other die still holds records of the origin, from before the plane
changed, the record joins them there, so that they stay in their order (R156; DEDUCED, unsafe: assumption log, 42). -/
def State.ingressUnit (s : State) (plane : Nat) (r : Rec) : Nat :=
  let unit := (if plane ≤ 8 then 0 else 16) + r.ocore % 16
  let other := (unit + 16) % 32
  if (s.bunit other).all.any r.sameOrigin then other else unit

/-- Records that one unit's staging holds: 128 KB (R18). -/
def stagingSize : Nat := 8192

/-- The records of a module bin that comes on a plane go to the staging of the units of their own origin cores, in order; none
where one of these has no room (DEDUCED, unsafe: assumption log, 42). -/
def State.ingest (s : State) (plane : Nat) : List Rec → Option State
  | [] => some s
  | r :: rs =>
    let unit := s.ingressUnit plane r
    let staged := (s.bunit unit).staging ++ [r]
    if stagingSize < staged.length then none else (s.restage unit staged).ingest plane rs

/-- MODULE_BIN_INGRESS (R19): a bin that has not been accepted before is re-binned and acknowledged; one that has is acknowledged
again. While the staging is full it stays with its sender, for want of credit. -/
def execModuleBinIngress (src : FarBin) (recs : List (Word64 × Word64)) (s : State) : Out :=
  if src.module = s.device ∨ recs = [] ∨ 18 ≤ src.plane then .next s
  else if s.farBins.any (fun b => b.module = src.module && b.tag = src.tag) then
    .next (s.respond src.plane src.module src.tag [])
  else
    match s.ingest src.plane (recs.map (fun x => { value := x.2, header := x.1 })) with
    | none => .next s
    | some t => .next ({ t with farBins := src :: t.farBins }.respond src.plane src.module src.tag [])

/-- Two packets stay in the order in which they left: of one unit, or of the two that take the same origins (R19, R156). -/
def Packet.ordered (p q : Packet) : Bool :=
  p.chan = q.chan && (p.from_.unit = q.from_.unit
    || (p.from_.ingress && q.from_.ingress && p.from_.unit % 16 = q.from_.unit % 16))

/-- The polder slot that the channel's next packet takes is one that its controller holds back (R252, R258, R261). -/
def State.parkHeld (s : State) (ch : Nat) : Bool :=
  let c := s.chan ch
  c.grant || (c.slotOffsets (Config.slotPlace ch c.nextSeq)).any (s.chanHolds ch) || c.slotCount ≤ c.slots.length + c.parked

/-- POLDER_PARK (R148, R149). -/
def execPolderPark (i : Nat) (s : State) : Out :=
  match s.transit[i]? with
  | none => .next s
  | some p =>
    if (s.transit.take i).any p.ordered ∨ s.parkHeld p.chan = true then .next s
    else
      let c := s.chan p.chan
      let slot : Slot := { seq := c.nextSeq, from_ := p.from_, live := p.recs.length, recs := p.recs }
      .next (({ s with transit := s.transit.eraseIdx i }.setChan p.chan { c with
        slots := c.slots ++ [slot], nextSeq := c.nextSeq + 1 }).noteFull p.chan).commitsStep

/-! ## Notices, grants and applies -/

/-- COMMIT_NOTICE (R151): a notice on its way reaches its channel; or one of another module comes, for all that this module
holds of what it covers. -/
def execCommitNotice (n : Notice) (s : State) : Out :=
  if s.noticesOut.contains n then
    .next ({ s with noticesOut := s.noticesOut.erase n }.setChan n.chan
      { s.chan n.chan with notices := (s.chan n.chan).notices ++ [n] })
  else if n.module = s.device ∨ s.farCommits.any (fun f => f.notice.module = n.module && f.notice.commit = n.commit) = true then
    .next s
  else .next ({ s with farCommits := s.farCommits ++ [FarCommit.mk n false [] false] }.commitsStep)

/-- APPLY_GRANT (R252): at a batch boundary, with notices pending; where a P2 request waits, 8 µs have passed since the last
grant began. -/
def execApplyGrant (a : GrantAsk) (s : State) : Out :=
  let ch := a.ch
  let c := s.chan ch
  if c.notices ≠ [] ∧ c.batch = [] ∧ c.grant = false ∧ (s.pchan (2 * ch)).own = false ∧ (s.pchan (2 * ch + 1)).own = false
    ∧ (a.p2 = true → (c.lastGrant.map (fun n => n + Config.grantCycles)).getD 0 ≤ s.cycle) then
    .next ((s.setChan ch { c with grant := true, lastGrant := some s.cycle }).boundary ch)
  else .next s

/-- The key of a record's word on this module. -/
def State.recKey (s : State) (r : Rec) : Nat := s.device * 2 ^ 52 + chanAddr r.chan (4 * r.woff)

/-- One record applied to its word (R154). -/
def State.applyOne (s : State) (ch : Nat) (r : Rec) : State :=
  let key := s.recKey r
  let (v, sat) := recApply r.op r.bytes (rdLE s.mem key r.bytes) (r.value.toNat % 2 ^ (8 * r.bytes))
  let t := { s with mem := wrLE s.mem key r.bytes v }
  if sat then t.setChan ch { t.chan ch with fxasat := satAdd (t.chan ch).fxasat 1 } else t

/-- One record taken by the engine: lost in the polder or the sort SRAM where `gone`, lost where its codeword is uncorrectable,
which is noted, else applied; and whether its destination was uncorrectable (R154, R155, R239). -/
def State.applyRec (s : State) (ch : Nat) (gone : Bool) (r : Rec) : State × Bool :=
  if gone then (s.loseRecord ch r false, false)
  else if s.bad.contains (s.recKey r / 64) then
    let t := s.loseRecord ch r true
    (t.setChan ch { t.chan ch with lastBad := s.recKey r % 2 ^ 52 / 64 * 64 }, true)
  else (s.applyOne ch r, false)

/-- Records in order, from place `i` on, with whether any had an uncorrectable destination. -/
def State.applyAll (s : State) (ch : Nat) (gone : List Nat) (i : Nat) : List Rec → State × Bool
  | [] => (s, false)
  | r :: rs =>
    let (t, a) := s.applyRec ch (gone.contains i) r
    let (t, b) := t.applyAll ch gone (i + 1) rs
    (t, a || b)

/-- Records with those that are covered and taken tombstoned, as far as `n` covered ones go, and how many of the `n` are left. -/
def tombstones (covered taken : Rec → Bool) : Nat → List Rec → List Rec × Nat
  | 0, rs => (rs, 0)
  | n + 1, [] => ([], n + 1)
  | n + 1, r :: rs =>
    if covered r then
      let (l, m) := tombstones covered taken n rs
      ((if taken r then { r with header := r.header ||| 0xF000000000000000 } else r) :: l, m)
    else
      let (l, m) := tombstones covered taken (n + 1) rs
      (r :: l, m)

/-- The same of slots, in order; a slot whose LIVE reaches 0 is free (R154). -/
def tombstoneSlots (covered taken : Rec → Bool) : Nat → List Slot → List Slot
  | _, [] => []
  | n, x :: xs =>
    let (rs, m) := tombstones covered taken n x.recs
    let x := { x with recs := rs, live := (rs.filter Rec.alive).length }
    if x.live = 0 then tombstoneSlots covered taken m xs else x :: tombstoneSlots covered taken m xs

/-- The row of a record's word. -/
def Rec.row (r : Rec) : RowAct := rowOf r.chan (4 * r.woff) false

/-- The rows that records touch, once each, in the engine's order of rows. -/
def rowsOf (rs : List Rec) : List RowAct :=
  sortOn (fun a => (a.pch % 2 * 64 + a.bank) * 2 ^ 14 + a.row) ((rs.map Rec.row).eraseDups)

/-- Uncorrectable codewords at which records are aimed. -/
def State.badWords (s : State) (rs : List Rec) : List Nat :=
  unionOnce [] ((rs.map (fun r => s.recKey r / 64)).filter (fun w => s.bad.contains w))

/-- Records that the engine sorts at a time (R154). -/
def sortSize : Nat := 8192

/-- A slot's masks meet a notice (R149). -/
def Slot.meets (x : Slot) (n : Notice) : Bool :=
  n.origins.any (fun o => (if o % 2 = 1 then x.from_.gmask else x.from_.omask).getLsbD (8 * (o / 2 % 8) + o / 16 % 8))

/-- The records that a notice covers, in slot order and then bin order (R154). -/
def Chan.coveredRecs (c : Chan) (n : Notice) : List Rec :=
  (c.slots.filter (fun x => x.meets n)).flatMap (fun x => x.recs.filter (coversRec n.module n.origins))

/-- What the engine has in its SRAM for its oldest notice: those that it has read before and not yet applied, else the first 8,192
that the notice covers (R154). -/
def Chan.load (c : Chan) (n : Notice) : Nat := if c.loaded = 0 then min sortSize (c.coveredRecs n).length else c.loaded
def Chan.sorted (c : Chan) (n : Notice) : List Rec := (c.coveredRecs n).take (c.load n)

/-- The slots that it reads, in SEQ order, until they give it `k` covered records (R154). -/
def readSlots (n : Notice) : List Slot → Nat → List Slot
  | [], _ => []
  | _ :: _, 0 => []
  | x :: xs, k + 1 =>
    if x.meets n then x :: readSlots n xs (k + 1 - (x.recs.filter (coversRec n.module n.origins)).length)
    else readSlots n xs (k + 1)

/-- The rows of the polder that it opens to read them, where it reads any (R154, R254). -/
def Chan.polderReads (c : Chan) (ch : Nat) (n : Notice) : List RowAct :=
  if c.loaded ≠ 0 then []
  else ((readSlots n c.slots (c.load n)).flatMap (fun x =>
    (c.slotOffsets (Config.slotPlace ch x.seq)).map (fun o => rowOf ch o false))).eraseDups

/-- The acknowledgement of a channel for a notice, with what the applies for it have lost (R151, R155). -/
def State.channelDone (s : State) (ch : Nat) (n : Notice) (lost : Bool) : State :=
  if n.module = s.device then { s with acks := s.acks ++ [(n.commit, ch, lost)] }
  else
    { s with farCommits := (s.farCommits.map (fun (f : FarCommit) =>
        if f.notice.module = n.module ∧ f.notice.commit = n.commit then { f with chans := f.chans.erase ch, lost := f.lost || lost }
        else f)).filter (fun f => !f.sent || f.chans ≠ []) }

/-- APPLY: the engine, in its grant, works on the oldest notice, in `w.rows` rows at most, and yields; once every record that the
notice covers is applied, it acknowledges (R154, R155, R252). It opens the copy of a row that a bank test has copied (R254, R261). -/
def execApply (w : ApplyWork) (s : State) : Out :=
  let ch := w.ch
  let c := s.chan ch
  match c.notices with
  | [] => .next s
  | n :: ns =>
    if c.grant = false then .next s
    else
      let as := (rowsOf (c.sorted n)).take w.rows
      let rs := as.flatMap (fun a => (c.sorted n).filter (fun r => r.row = a))
      let opened := ((c.polderReads ch n ++ as).map s.landAct).mapIdx (fun i a => { a with parityFails := w.parity.contains i })
      let t := opened.foldl State.activate s
      let (t, lost) := t.applyAll ch w.lost 0 rs
      let c' := t.chan ch
      let slots := tombstoneSlots (coversRec n.module n.origins) (fun r => as.contains r.row) (c.load n) c'.slots
      let finished := !slots.any (fun x => x.recs.any (coversRec n.module n.origins))
      let lost := c'.applyLost || lost
      let c' := { c' with
        slots := slots, loaded := c.load n - rs.length, notices := if finished then ns else n :: ns, grant := false,
        applyLost := !finished && lost, uncorr := satAdd c'.uncorr (s.badWords rs).length,
        corr := satAdd c'.corr w.corrected, fullSince := none }
      let t := ((t.setChan ch c').noteFull ch).boundary ch
      .next (if finished then t.channelDone ch n lost else t)

/-- Two records on one module name a byte in common. -/
def Rec.overlaps (a b : Rec) : Bool :=
  a.chan = b.chan && 4 * a.woff < 4 * b.woff + b.bytes && 4 * b.woff < 4 * a.woff + a.bytes

/-- The records abroad, each with whether module `m` has applied it when it acknowledges commit `commit`: those that the commit
covers, and before these the ones to the same words that an earlier commit's notice covers (R156). -/
def takenAbroad (commit m : Nat) : List Abroad → List (Abroad × Bool)
  | [] => []
  | a :: as =>
    let r := takenAbroad commit m as
    (a, a.module = m && (a.commits.contains commit
      || (a.commits ≠ [] && r.any (fun x => x.2 && x.1.rcd.overlaps a.rcd)))) :: r

/-- Commit `id` in progress covers a record abroad: its notice does, or its notice, which it has still to send, will. -/
def Abroad.chargedTo (a : Abroad) (id : Nat) (c : Commit) : Bool := a.commits.contains id || (!c.noticed && a.covered c)

/-- A record that another module has lost is charged to the commits in progress that cover it, or else to the next that covers its
stream, and to its launches (R155, R239; DEDUCED, unsafe: assumption log, 26). -/
def State.loseAbroad (s : State) (a : Abroad) (dest : Bool) : State :=
  let loss := (a.rcd.origin, dest)
  { s with
    commits := mapVals s.commits (fun id c => if a.chargedTo id c then { c with losses := (c.losses ++ [loss]).eraseDups } else c),
    lostOrigins := if s.commits.any (fun x => a.chargedTo x.1 x.2) then s.lostOrigins
      else (s.lostOrigins ++ [loss]).eraseDups }.noteLoss a.rcd.graphs

/-- One record that another module has taken: its word there has its value (R157), or it is lost: as `gone` says, else where its
codeword is uncorrectable (R155). -/
def State.takeAbroad (s : State) (gone : Option Bool) (a : Abroad) : State :=
  let key := a.module * 2 ^ 52 + chanAddr a.rcd.chan (4 * a.rcd.woff)
  match gone.or (if s.bad.contains (key / 64) then some true else none) with
  | some dest => s.loseAbroad a dest
  | none =>
    let n := a.rcd.bytes
    { s with mem := wrLE s.mem key n (recApply a.rcd.op n (rdLE s.mem key n) (a.rcd.value.toNat % 2 ^ (8 * n))).1 }

/-- Another module has applied what a commit covered, but for the records at the places that `gone` names. -/
def State.applyAbroad (s : State) (commit m : Nat) (gone : List (Nat × Bool)) : State :=
  let xs := takenAbroad commit m s.abroad
  let t := { s with abroad := (xs.filter (fun x => !x.2)).map Prod.fst }
  (((xs.filter Prod.snd).map Prod.fst).mapIdx (fun i a => (i, a))).foldl (fun t x =>
    t.takeAbroad ((gone.find? (fun g => g.1 = x.1)).map Prod.snd) x.2) t

/-- A commit with an acknowledgement taken. A remote module's receipt is enough below pod scope (R151). -/
def Commit.take (c : Commit) (src : AckSrc) (lost : Bool) : Commit :=
  match src with
  | .chan ch => { c with chans := c.chans.erase ch, lost := c.lost || lost }
  | .receipt m => { c with mods := if c.scope < 8 then c.mods.erase m else c.mods }
  | .applied m _ => { c with mods := c.mods.erase m, lost := c.lost || lost }

/-- COMMIT_ACK (R151, R155). -/
def execCommitAck (commit : Nat) (src : AckSrc) (lost : Bool) (s : State) : Out :=
  let s' := match src with
    | .chan ch => { s with acks := s.acks.erase (commit, ch, lost) }
    | .receipt _ => s
    | .applied m gone => s.applyAbroad commit m gone
  let comes : Bool := match src with
    | .chan ch => s.acks.contains (commit, ch, lost)
    | .receipt _ => true
    | .applied _ _ => true
  match find? s'.commits commit with
  | none => .next s'
  | some c =>
    if comes then .next ({ s' with commits := Machine.put s'.commits commit (c.take src lost) }.commitsStep) else .next s

/-- The contexts whose records a channel's polder holds. -/
def State.polderContexts (s : State) (ch : Nat) : List Nat :=
  let gs := unionOnce [] (((s.chan ch).parkedRecs.filter (fun r => r.omod = s.device)).flatMap Rec.graphs)
  unionOnce [] (gs.filterMap (fun g => (find? s.graphs g).map Graph.ctx))

/-- POLDER_OVERFLOW (R158): the service enlarges the polder or ends the contexts, and records which, in every launch of these contexts
that has not ended (DESIGN CHOICE, unsafe: assumption log, 25). -/
def execPolderOverflow (ch : Nat) (enlarge : Bool) (s : State) : Out :=
  let c := s.chan ch
  match c.fullSince with
  | none => .next s
  | some since =>
    if s.cycle < since + Config.overflowCycles ∨ c.grant = true ∨ s.freeSlotsOf ch ≠ 0 ∨ (enlarge = true ∧ 16 ≤ c.polder) then
      .next s
    else
      let ctxs := s.polderContexts ch
      let bit := if enlarge then 0 else 1
      let t := s.setChan ch { c with
        polder := if enlarge then c.polder + 1 else c.polder, fullSince := none, events := setEvent c.events bit }
      let t := { t with ring := mapVals t.ring (fun _ l =>
        if ctxs.contains l.ctx ∧ l.ending = none then { l with events := setEvent l.events bit } else l) }
      .next (if enlarge then t else ctxs.foldl (fun t x => t.endContext x Config.overflowCause.toNat) t)

end Sys2Proof.Machine
end

