-- ==== Sys2Proof/Machine/Fabric.lean ====
section
/-! DEFINITION. What Freilo ports receive, replays and planes (R265, R266), requests to remote homes (R178, R179),
multicast-reduce rounds (R180, R267) and Ultra Ethernet packets (R268). Port k is this module's on plane k. -/

namespace Sys2Proof.Machine
open Sys2Proof

/-- A marked store of the core has reached its home: its line is pinned for its group (R175). -/
def State.arriveMarked (s : State) (k line : Nat) (marked : Bool) : State :=
  if marked = true ∧ k ≠ noGroup then
    (s.onGrp k (fun g => { g with marked := addOnce g.marked line })).pinOwn (coreOf k) line
  else s

/-- A store to a remote home has been applied there. -/
def State.applyRemote (s : State) (r : RemoteReq) : State :=
  if r.applied then s
  else { s with
    mem := wrBytes s.mem (r.bytes.mapIdx (fun i b => (r.key + i, b))),
    remote := s.remote.map (fun (x : RemoteReq) => if x.tag = r.tag then { x with applied := true } else x) }

/-- The receiving module has accepted the bin with this tag (R19). -/
def State.binTaken (s : State) (src tag : Nat) : State :=
  { s with binsOut := s.binsOut.filter (fun o => !(o.tag % 2 ^ 32 = tag && o.module = src)) }

/-- The home has applied the request with this tag, and those of its core to its sector that were ahead of it: its bytes are in
the pod's memory, and it is no longer outstanding (R174, R178, R179). The stores of several cores apply in the order in which their
acknowledgements come, which their home has given them (DEDUCED, safe: assumption log, 3). A home that refuses it names the
cause, which its group is to take (R121, R181). -/
def State.acknowledge (s : State) (src tag code : Nat) (tinfo : Word64) : State :=
  match s.remote.find? (fun r => r.tag % 2 ^ 32 = tag && r.key / 2 ^ 52 = src) with
  | none => s.binTaken src tag
  | some r =>
    if code ≠ 0 then
      { s with remote := s.remote.map (fun (x : RemoteReq) =>
          if x.tag = r.tag then { x with cause := some ⟨code, BitVec.ofNat 64 x.va, tinfo⟩ } else x) }
    else
      let ahead := (s.remote.takeWhile (fun x => x.tag ≠ r.tag)).filter (fun x => x.core = r.core && x.key / 16 = r.key / 16)
      let t := (ahead ++ [r]).foldl State.applyRemote s
      { t with remote := t.remote.filter (fun x => x.tag ≠ r.tag) }.arriveMarked r.grp (r.key / 128) r.marked

/-- Requests and bins on a path that has failed: from now on the core holds its later requests to their lines, and the unit its
later bins for the module (R19, R179). -/
def State.failPaths (s : State) : State :=
  { s with
    remote := s.remote.map (fun (r : RemoteReq) =>
      if s.planeUp (r.key / 2 ^ 52) r.plane then r else { r with failed := true }),
    binsOut := s.binsOut.map (fun (o : BinOut) => if s.planeUp o.module o.plane then o else { o with failed := true }) }

/-- A flit of the port whose request or bin carries this tag has got through: its replays no longer fail in a row (R265). -/
def State.gotThrough (s : State) (port tag : Nat) : State :=
  let p := s.port port
  if p.failed = [] then s
  else s.setPort port { p with failed := delWhere p.failed (fun q => p.kept.any (fun k =>
    k.1 = q && (flitVc k.2 = 0 || flitVc k.2 = 2) && field k.2 8 4 = tag)) }

/-- A NAK has come (R265): the flits from `seq` on go out again; the NAK after the eighth replay of one flit in a row makes the port
retrain at half its lanes, and at 2 lanes takes it down. A flit's failures are in a row until a response shows that it has got
through, or the port keeps it no longer (DEDUCED, unsafe: assumption log, 44). -/
def State.replayFrom (s : State) (port seq : Nat) : State :=
  let p := s.port port
  if p.kept.any (fun k => k.1 = seq) = false then s
  else
    let fails := look 0 p.failed seq + 1
    let p := { p with replay := countUp 32 p.replay, failed := Machine.put p.failed seq fails }
    if fails ≤ 8 then s.setPort port p
    else
      let t := s.setPort port { p with step := p.step + 1, retrain := countUp 32 p.retrain, failed := [] }
      let t := if p.step + 1 = 3 then { t with down := addOnce t.down (s.device * 18 + port) }.failPaths else t
      t.portLimits

/-- What a flit that is taken does: a response carries the tag of the request or bin that it acknowledges, and after it the cause
of a refusal, or 0, with its TINFO; a management flit has a kind after its first two bytes: a NAK (0), whose first two are the SEQ
that it carries, or credit withheld (1) or returned (2), of the virtual channel that follows (R264, R265; DESIGN CHOICE, unsafe:
assumption log, 3). -/
def State.takeFlit (s : State) (port : Nat) (flit : List Byte) : State :=
  let vc := field flit 11 1
  if flitDest flit ≠ s.device then s
  else if flitVc flit = 1 then
    (s.acknowledge (flitOrigin flit) (field flit 8 4) (field flit 12 1) (BitVec.ofNat 64 (field flit 13 8))).gotThrough port
      (field flit 8 4)
  else if flitVc flit ≠ 3 then s
  else if field flit 10 1 = 0 then s.replayFrom port (field flit 8 2)
  else if vc < 4 ∧ field flit 10 1 = 1 then s.setCredit port vc false
  else if vc < 4 ∧ field flit 10 1 = 2 then s.setCredit port vc true
  else s

/-- The next flit in order has come. -/
def State.countFlit (s : State) (port : Nat) : State :=
  s.setPort port { s.port port with rxSeq := ((s.port port).rxSeq + 1) % 2 ^ 16 }

/-- FLIT_RECEIVE (R265): a flit whose CRC fails, or that does not follow the last one taken, is dropped. -/
def execFlitReceive (port : Nat) (flit : List Byte) (s : State) : Out :=
  let p := s.port port
  if 18 ≤ port ∨ p.step = 3 ∨ flit.length ≠ 128 then .next s
  else if !flitGood flit then
    .next ((s.setPort port { p with crcfail := countUp 32 p.crcfail }).sendFlit port 3 (flitOrigin flit) (bytesLE 2 (flitSeq flit)))
  else if flitSeq flit ≠ p.rxSeq then .next s
  else .next ((s.countFlit port).takeFlit port flit)

/-- FLIT_REPLAY (R265): the next flit that comes is a NAK for `seq`. -/
def execFlitReplay (port seq : Nat) (s : State) : Out :=
  let p := s.port port
  if 18 ≤ port ∨ p.step = 3 ∨ p.kept.any (fun k => k.1 = seq) = false then .next s
  else .next ((s.countFlit port).replayFrom port seq)

/-- A request whose path has failed goes out again, on the plane that a request to its line takes now (R179, R266). -/
def State.resendReq (s : State) (i : Nat) (r : RemoteReq) : State :=
  match s.planeFor (r.key / 2 ^ 52) r.first with
  | none => s
  | some p =>
    if r.failed = false ∨ r.cause.isSome = true ∨ s.cycle < r.since + Config.replayCycles then s
    else
      { s with remote := s.remote.set i { r with plane := p, since := s.cycle } }.sendFlit p 0 (r.key / 2 ^ 52)
        (reqPayload r.tag (r.key % 2 ^ 52) r.bytes.length r.bytes)

/-- A bin whose path has failed goes out again on the plane that its unit uses now, after those of its unit that left before
it (R19). -/
def State.resendBin (s : State) (i : Nat) (o : BinOut) : State :=
  match s.planeFor o.module (binPlane o.unit o.module) with
  | none => s
  | some p =>
    if o.failed = false ∨ s.cycle < o.since + Config.replayCycles
      ∨ (s.binsOut.take i).any (fun x => x.unit = o.unit && x.module = o.module && x.failed) = true then s
    else
      { s with binsOut := s.binsOut.set i { o with plane := p, since := s.cycle, failed := false } }.sendBin p o.module o.bytes

/-- PATH_REPLAY (R19, R179): what has gone 20 µs without acknowledgement on a path that has failed is sent again: request `i`, or
after the requests a bin. -/
def execPathReplay (i : Nat) (s : State) : Out :=
  let n := s.remote.length
  match s.remote[i]?, s.binsOut[i - n]? with
  | some r, _ => .next (s.resendReq i r)
  | none, some o => .next (s.resendBin (i - n) o)
  | none, none => .next s

/-- PLANE_DOWN and PLANE_UP (R266). -/
def execPlaneDown (module plane : Nat) (s : State) : Out :=
  .next (if plane < 18 then { s with down := addOnce s.down (module * 18 + plane) }.failPaths else s)
def execPlaneUp (module plane : Nat) (s : State) : Out :=
  if plane < 18 ∧ ¬(module = s.device ∧ (s.port plane).step = 3)
  then .next { s with down := s.down.filter (fun x => x ≠ module * 18 + plane) }
  else .next s

/-! ## Rounds (R180) -/

/-- The sum of contributions in rank order. -/
def roundSum : List Word32 → Word32
  | [] => 0
  | c :: cs => cs.foldl (fun a x => BitVec.ofNat 32 (f32.add .rne a.toNat x.toNat).1) c

/-- A round's value is written to this member's copy as a store at its home, at once: it is held to the end of no merge window
(DESIGN CHOICE, unsafe: assumption log, 40). -/
def State.closeRound (s : State) (n : Nat) (r : Round) (v : Word32) : State :=
  { s with rounds := del s.rounds n, mem := wrLE s.mem r.key 4 v.toNat }

/-- The members of a set in the order of their ranks: ascending (R180). -/
def State.ranks (s : State) (mset : Nat) : List Nat := sortOn id (look [] s.msets mset)

/-- MULTICAST_ROUND_CLOSE: the switch takes contributions of other members, one from each, and closes the round where every
member's has come. -/
def execMulticastRoundClose (word : RoundWord) (others : List (Nat × Word32)) (s : State) : Out :=
  let ms := s.ranks word.mset
  let had := ((s.rounds.find? (fun x => x.2.key = word.key)).map (fun x => x.2.parts.map Prod.fst)).getD []
  let ms' := ((s.rounds.find? (fun x => x.2.key = word.key)).map (fun x => x.2.mset)).getD word.mset
  let come := had ++ others.map Prod.fst
  if ms' ≠ word.mset ∨ ms.contains s.device = false ∨ others.any (fun o => o.1 = s.device || !ms.contains o.1) = true
    ∨ ms.any (fun m => 1 < (come.filter (fun x => x = m)).length) = true then .next s
  else
    let t := if others = [] then s else s.addParts word.key word.mset others none
    match t.rounds.find? (fun x => x.2.key = word.key) with
    | none => .next t
    | some (n, r) =>
      if ms.all come.contains && !t.keyHeld r.key then
        .next (t.closeRound n r (roundSum (ms.filterMap (fun m => (r.parts.find? (fun o => o.1 = m)).map Prod.snd))))
      else .next t

/-- MULTICAST_TIMEOUT: every member's copy receives the NaN, and the launch record logs the error; a member that has made no
contribution logs it in every launch that has not completed (DESIGN CHOICE, unsafe: assumption log, 40). -/
def execMulticastTimeout (round : Nat) (s : State) : Out :=
  match find? s.rounds round with
  | none => .next s
  | some r =>
    if s.cycle < r.start + Config.roundCycles ∨ s.keyHeld r.key = true then .next s
    else
      let t := s.closeRound round r 0x7FC00000
      .next { t with ring := mapVals t.ring (fun _ l =>
        if (r.launch.map (fun n => decide (l.seq = n))).getD l.ending.isNone then { l with events := setEvent l.events 2 }
        else l) }

/-- UE_PACKET_DROP (R268, R275). -/
def execUePacketDrop (port : Nat) (s : State) : Out :=
  match port with
  | 0 => .next { s with ueDrop0 := countUp 32 s.ueDrop0 }
  | 1 => .next { s with ueDrop1 := countUp 32 s.ueDrop1 }
  | _ => .next s

end Sys2Proof.Machine
end

