-- ==== Sys2Proof/Machine/Home.lean ====
section
/-! DEFINITION. The home slice: plain stores that arrive and the end of a merge window (R174), pinned lines (R175, R176), bulk
data of PUT (R270), and page walks (R244). -/

namespace Sys2Proof.Machine
open Sys2Proof

/-- The module and the core under which the service's and Ultra Ethernet's writes are held: after every core (R174). -/
def serviceModule : Nat := 2 ^ 16

/-- A request for this byte has to wait at its home: a mark of a window over it, or a pseudo-channel in training or a row that is
being copied (R121, R122, R258, R261). -/
def State.homeBlocked (s : State) (key : Nat) : Bool :=
  s.markedOff key || s.keyHeld key

/-- A store of these bytes has to wait at its home: as `homeBlocked` says, or for a word that is held for an atomic (R311). -/
def State.storeBlocked (s : State) (key n : Nat) : Bool := s.homeBlocked key || s.wordHeld noGroup 0 key n

/-- A store of the core leaves its egress port for its home (R178, R266). The port has accepted it, whether or not its virtual channel
has credit (DESIGN CHOICE, unsafe: assumption log, 3). -/
def State.sendStore (s : State) (core plane : Nat) (e : StoreEntry) : State :=
  let r : RemoteReq :=
    { core := core, tag := s.nextTag, key := e.key, bytes := e.bytes, plane := plane, grp := e.grp, marked := e.marked,
      since := s.cycle, first := e.first, va := e.va }
  { s with remote := s.remote ++ [r], nextTag := s.nextTag + 1 }.sendFlit plane 0 (e.key / 2 ^ 52)
      (reqPayload s.nextTag (e.key % 2 ^ 52) e.bytes.length e.bytes)

/-- A store is held at its home in the current merge window (R174). -/
def State.holdStore (s : State) (module core key : Nat) (bytes : List Byte) (grp : Nat) (marked : Bool)
    (seq : Option Nat := none) (entered : Option Nat := none) : State :=
  { s with held := s.held ++ [{
      module := module, core := core, key := key, bytes := bytes, grp := grp, marked := marked,
      window := s.cycle / Config.mergeWindow, seq := seq, entered := entered }] }

/-- Group `k` takes the cause with which its store has been refused, once it can: it runs, and no handler of its own (R121, R376;
DEDUCED, unsafe: assumption log, 45), and TEPC can name its oldest incomplete unit (R233). -/
def State.takesRefusal (s : State) (k : Nat) : Bool :=
  (s.grp k).live && (s.grp k).status = .running && !(s.grp k).priv && !s.skipStuck k

/-- A store in the buffer of core `core`, or one that is held at its home, is of the instruction that entry `e` is of. -/
def StoreEntry.sibling (e y : StoreEntry) : Bool := y.grp = e.grp && y.entered = e.entered
def StoreEntry.heldSibling (e : StoreEntry) (device core : Nat) (h : HeldStore) : Bool :=
  h.module = device && h.core = core && h.grp = e.grp && h.entered = some e.entered

/-- The stores of the instruction of entry `e` are withdrawn where they have not applied, and the core's L1 drops its copies of
their sectors (R376). -/
def State.withdraw (s : State) (core : Nat) (e : StoreEntry) : State :=
  let x := s.core core
  let gone := (x.stores.filter e.sibling).map StoreEntry.key ++ (s.held.filter (e.heldSibling s.device core)).map HeldStore.key
  { s with held := s.held.filter (fun h => !e.heldSibling s.device core h) }.setCore core
    { x with stores := x.stores.filter (fun y => !e.sibling y), l1 := x.l1.filter (fun y => !gone.any (fun a => a / 16 = y.1)) }

/-- Entry `e` of the core's store buffer has reached a STRANDED window at or above its mark: its group takes the cause, and no store
of its instruction is applied (R121, R376). Those of a group which has exited are dropped. -/
def State.refuseStore (s : State) (core : Nat) (e : StoreEntry) (c : Cause) : State :=
  if e.grp = noGroup then s.withdraw core e
  else if s.takesRefusal e.grp then (s.withdraw core e).takeTrap e.grp c
  else s

/-- Another store of the instruction of entry `i` is still in the buffer and lies above a mark here: this one stays with it, so that
no lane is applied where the window strands (R376; DEDUCED, unsafe: assumption log, 45). -/
def State.siblingWaits (s : State) (core i : Nat) (e : StoreEntry) : Bool :=
  ((s.core core).stores.eraseIdx i).any (fun y => e.sibling y && y.key / 2 ^ 52 = s.device && s.markedOff y.key)

/-- The key of a transfer: XFER of a connection. -/
def xferKey (conn xfer : Nat) : Nat := conn * 2 ^ 32 + xfer

/-- The group under which the bytes of a transfer are held at the home slices, or sent to them. -/
def xferGroup (key : Nat) : Nat := 2 ^ 65 + key

/-- A request that a transfer was for ends with status 1 and this cause, and the transfer's bytes are dropped (R121, R273). -/
def State.failXfer (s : State) (key cause : Nat) : State :=
  match find? s.xfers key with
  | none => s
  | some x =>
    { s with
      xfers := del s.xfers key, svcStores := s.svcStores.filter (fun h => h.grp ≠ xferGroup key),
      replies := s.replies ++ [{
        conn := x.hdr.conn, opc := x.hdr.opc, flags := 1, tag := x.hdr.tag, ctx := x.hdr.ctx, status := 1, cause := cause,
        body := [] }] }

/-- Entry `i` of the requests to remote homes has been refused by its home: its group takes the cause, or the transfer's request ends
with it. -/
def State.refusedRemote (s : State) (i : Nat) : State :=
  match s.remote[i]? with
  | none => s
  | some r =>
    match r.cause with
    | none => s
    | some c =>
      if r.grp = noGroup then { s with remote := s.remote.eraseIdx i }
      else if 2 ^ 65 ≤ r.grp then { s with remote := s.remote.eraseIdx i }.failXfer (r.grp - 2 ^ 65) c.code
      else if s.takesRefusal r.grp then { s with remote := s.remote.eraseIdx i }.takeTrap r.grp c
      else s

/-- Entry `i` of the core's store buffer moves on: it is held at its home, or sent to it (R168, R174, R178). -/
def State.ownArrival (s : State) (core i : Nat) : State :=
  let c := s.core core
  match c.stores[i]? with
  | none => s
  | some e =>
    if (c.stores.take i).any (fun x => x.key / 16 = e.key / 16) then s
    else
      let s := s.noteRefusal (.store core) (e.key / 128)
      if s.lineShut (.store core) (e.key / 128) then s
      else
        let s := if e.key / 2 ^ 52 = s.device then s.touch [e.key] else s
        let t := s.setCore core { c with stores := c.stores.eraseIdx i }
        if e.key / 2 ^ 52 = s.device then
          match s.stranded [(e.va, e.key)] with
          | some x => s.refuseStore core e x
          | none =>
          if s.storeBlocked e.key e.bytes.length || s.siblingWaits core i e then s
          else (t.holdStore s.device core e.key e.bytes e.grp e.marked none (some e.entered)).arriveMarked e.grp (e.key / 128) e.marked
        else
          match (if s.pathHeld core e.key || s.siblingWaits core i e then none else s.planeFor (e.key / 2 ^ 52) e.first) with
          | none => s
          | some p => t.sendStore core p e

/-- The request of another module is this one. -/
def sameReq (r : FarReq) (d : FarDone) : Bool := d.module = r.module && d.core = r.core && d.seq = r.seq

/-- An answer to another module's request, on the path of its line (R178, R179, R266): a cause, or 0, and what comes after it. -/
def State.answerFar (s : State) (r : FarReq) (bs : List Byte) : State := s.respond (r.pa / 128 % 18) r.module r.seq bs

/-- Another module's request waits at its home here. -/
def State.keepFar (s : State) (i : FarAsk) : State :=
  if s.farQueue.contains i then s else { s with farQueue := s.farQueue ++ [i] }

/-- Another module's request is done, or is refused, with this answer. -/
def State.farEnds (s : State) (r : FarReq) (i : FarAsk) (reply : List Byte) : State :=
  { s with farQueue := s.farQueue.filter (fun x => x ≠ i), farSeen := ⟨r.module, r.core, r.seq, reply⟩ :: s.farSeen }

/-- The granules over which a request of `n` bytes reaches. -/
def State.farKeys (s : State) (r : FarReq) (n : Nat) : List Nat :=
  granuleKeys (s.farKey r / 16 * 16) (s.farKey r % 16 + n)

/-- The bytes that another module's request names. -/
def FarAsk.size : FarAsk → Nat
  | .store _ bytes _ => bytes.length
  | .atom _ _ ty _ _ _ _ => tyBytes ty
  | .load _ n => n

/-- An older request of the same core of another module, which names a sector that this one names, still waits here (R168, R174). -/
def State.farBehind (s : State) (r : FarReq) (i : FarAsk) (n : Nat) : Bool :=
  (s.farQueue.takeWhile (fun x => x ≠ i)).any (fun x => (farReqOf x).module = r.module && (farReqOf x).core = r.core
    && (s.farKeys (farReqOf x) x.size).any (fun a => (s.farKeys r n).contains a))

/-- A request of another module for `n` bytes at a home here (R174, R175, R179, R181). One that has been answered is answered again;
one behind an older request of its core for the same sector, one that a pin refuses, or one that `waits`, is kept; a STRANDED
window's cause is its answer; else `run` does it, with its answer: a store's goes out once it is applied. -/
def State.farServe (s : State) (r : FarReq) (i : FarAsk) (n : Nat) (waits : State → Bool) (run : State → State × Option (List Byte)) :
    State :=
  if r.module = s.device ∨ 2 ^ 52 ≤ r.pa ∨ n = 0 then s
  else
    match s.farSeen.find? (sameReq r) with
    | some d =>
      if s.held.any (fun h => h.module = r.module && h.core = r.core && h.seq = some r.seq) then s else s.answerFar r d.reply
    | none =>
      let t := s.noteRefusal (.far r.module r.core) (s.farKey r / 128)
      if t.farBehind r i n || t.lineShut (.far r.module r.core) (s.farKey r / 128) then t.keepFar i
      else
        let t := t.touch (s.farKeys r n)
        match t.stranded ((s.farKeys r n).map (fun a => (0, a))) with
        | some c => (t.farEnds r i (8 :: bytesLE 8 c.tinfo.toNat)).answerFar r (8 :: bytesLE 8 c.tinfo.toNat)
        | none =>
          if waits t then t.keepFar i
          else
            match run t with
            | (t, some reply) => (t.farEnds r i reply).answerFar r reply
            | (t, none) => t.farEnds r i [0]

/-- A store of another module arrives; one that a release has marked pins its line to its core (R175). -/
def State.otherArrival (s : State) (r : FarReq) (bytes : List Byte) (marked : Option Nat) : State :=
  let key := s.farKey r
  if 16 < r.pa % 16 + bytes.length then s
  else
    s.farServe r (.store r bytes marked) bytes.length (fun t => t.storeBlocked key bytes.length) (fun t =>
      let t := t.holdStore r.module r.core key bytes noGroup false (some r.seq)
      (match marked with
        | none => t
        | some g => t.pin (some r.module) r.core (key / 128) [g], none))

/-- Entry `i` of the service's writes reaches its home (R122, R174, R175, R270): it waits behind an earlier one to its sector,
at a pin, at a mark, and a STRANDED window refuses its request. One to a remote home goes out on the plane of its line, and where
none is left its request ends with cause 0x0A (R179, R266). -/
def State.svcArrival (s : State) (i : Nat) : State :=
  match s.svcStores[i]? with
  | none => s
  | some e =>
    if (s.svcStores.take i).any (fun x => x.key / 16 = e.key / 16) then s
    else if e.key / 2 ^ 52 ≠ s.device then
      match s.planeFor (e.key / 2 ^ 52) e.first with
      | none => s.failXfer (e.grp - 2 ^ 65) 0x0A
      | some p =>
        if s.pathHeld serviceCore e.key || s.lineShut .service (e.key / 128) then s.noteRefusal .service (e.key / 128)
        else { s with svcStores := s.svcStores.eraseIdx i }.sendStore serviceCore p
          { key := e.key, bytes := e.bytes, grp := e.grp, marked := false, first := e.first }
    else
      let s := s.noteRefusal .service (e.key / 128)
      if s.lineShut .service (e.key / 128) then s
      else if (s.stranded [(0, e.key)]).isSome then s.failXfer (e.grp - 2 ^ 65) 8
      else
        let s := s.touch [e.key]
        if s.storeBlocked e.key e.bytes.length then s
        else { s with svcStores := s.svcStores.eraseIdx i }.holdStore serviceModule 0 e.key e.bytes e.grp false

/-- A write of another module, of up to a sector, has applied at a home that is not here (R172; DESIGN CHOICE, unsafe: assumption
log, 3). -/
def State.awayWrite (s : State) (home pa : Nat) (bytes : List Byte) : State :=
  if home = s.device ∨ 288 ≤ home ∨ 2 ^ 52 ≤ pa ∨ 16 < pa % 16 + bytes.length then s
  else { s with mem := wrBytes s.mem (bytes.mapIdx (fun i b => (home * 2 ^ 52 + pa + i, b))) }

/-- PLAIN_STORE_ARRIVAL (R172, R174). -/
def execPlainStoreArrival (src : StoreSrc) (s : State) : Out :=
  match src with
  | .own core i => .next (s.ownArrival core i)
  | .service i => .next (s.svcArrival i)
  | .other r bytes marked => .next (s.otherArrival r bytes marked)
  | .away home pa bytes => .next (s.awayWrite home pa bytes)

/-- Stores in the order in which they apply: window, origin module, core, arrival (R174). -/
def applyOrder (hs : List HeldStore) : List HeldStore :=
  let before : HeldStore → HeldStore → Bool := fun a b =>
    a.window < b.window || (a.window = b.window && (a.module < b.module || (a.module = b.module && a.core ≤ b.core)))
  hs.foldr (fun x l => l.takeWhile (fun y => !before x y) ++ x :: l.dropWhile (fun y => !before x y)) []

/-- The bytes of a transfer have all come (R271). -/
def Xfer.complete (x : Xfer) : Bool := (List.range x.len).all (fun i => x.got.any (fun g => g.1 = i))

/-- An applied store of another module is acknowledged to it (R178, R179). -/
def State.ackHeld (s : State) (h : HeldStore) : State :=
  match h.seq with
  | none => s
  | some q => s.answerFar ⟨h.module, h.core, q, h.key % 2 ^ 52⟩ [0]

/-- The end of a merge window: every store held in a window that is over applies (R174). -/
def State.applyHeld (s : State) : State :=
  let due := applyOrder (s.held.filter (fun h => h.window < s.cycle / Config.mergeWindow))
  due.foldl State.ackHeld { s with
    held := s.held.filter (fun h => !(h.window < s.cycle / Config.mergeWindow)),
    mem := due.foldl (fun m h => wrBytes m (h.bytes.mapIdx (fun i b => (h.key + i, b)))) s.mem }

/-- A group of another module has exited: its lines here are unpinned where no other group of its pins them (R176). -/
def State.farExit (s : State) (m core g : Nat) : State :=
  { s with pins := s.pins.filterMap (fun x =>
      if x.2.module = some m ∧ x.2.core = core ∧ x.2.groups.contains g = true then
        let gs := x.2.groups.filter (fun y => y ≠ g)
        if gs = [] then none else some (x.1, { x.2 with groups := gs })
      else some x) }

/-- PIN_LINE (R175, R176): a marked store's line is pinned as it reaches its home, which this event says again where it has still
to be done; or what another module does to its own pins here. -/
def execPinLine (core : Nat) (src : PinSrc) (s : State) : Out :=
  match src with
  | .own line => .next (s.pinOwn core line)
  | .opened m sc => .next (if m = s.device ∨ sc < 8 then s else s.raisePins (some m) core sc)
  | .exited m g => .next (s.farExit m core g)
  | .marked m g line => .next (if m = s.device ∨ lineHome line ≠ s.device then s else s.pin (some m) core line [g])

/-- A request for the line has been refused for the cycles after which the slice unpins it (R176). -/
def State.pinExpired (s : State) (line : Nat) : Bool :=
  s.refusals.any (fun x => x.line = line && s.reqLive x && s.refuses x.req line && x.since + Config.pinCycles ≤ s.cycle)

/-- PIN_FORCED_WIDENING (R176). A line's own slice counts it: that of a line of another module's is in the other's record. -/
def execPinForcedWidening (line : Nat) (s : State) : Out :=
  if s.pinExpired line then
    let slice := 48 * (pchOf false (line * 128 % 2 ^ 52) / 256) + Config.sliceOf line % 48
    .next { s with
      pins := del s.pins line,
      forced := if lineHome line = s.device then Machine.put s.forced slice (countUp 64 (look 0 s.forced slice)) else s.forced }
  else .next s

/-- PAGE_WALK (R244): the TLB takes the page, in the place of its oldest entry where it is full (DESIGN CHOICE, safe: assumption
log, 19). -/
def execPageWalk (core ctx : Nat) (va : Word64) (s : State) : Out :=
  let a := va.toNat
  match (if a < 2 ^ 48 then find? s.ctxs ctx else none) with
  | none => .next s
  | some x =>
    match s.walkFrom a 3 x.root with
    | .leaf w l =>
      let c := s.core core
      if s.leafOk ctx w l (ptePa w + a % pageSize l) = false ∨ c.tlb.any (fun e => e.ctx = ctx && e.va / e.size = a / e.size) = true
      then .next s
      else
        let size := pageSize l
        let old := c.tlb.drop (c.tlb.length + 1 - Config.tlbEntries)
        .next (s.setCore core { c with tlb := old ++ [{ ctx := ctx, va := a / size * size, size := size, leaf := w }] })
    | _ => .next s

end Sys2Proof.Machine
end

