-- ==== Sys2Proof/Machine/Crews.lean ====
section
/-! DEFINITION. Crews: JOIN, LEAVE, CBAR and CBARA, and the completion of a phase (R37 to R40, R319, R320, R340, R347). -/

namespace Sys2Proof.Machine
open Sys2Proof

def Group.inCrew (g : Group) : Bool := g.crew.getLsbD 16
def Group.crewSlot (g : Group) : Nat := fld g.crew.toNat 28 4
def Group.crewTag (g : Group) : Nat := fld g.crew.toNat 0 16
def Group.crewPhase (g : Group) : Nat := fld g.crew.toNat 24 4

/-- CREW of a member (R40). -/
def crewWord (slot phase tag : Nat) : Word64 := BitVec.ofNat 64 (slot * 2 ^ 28 + phase % 16 * 2 ^ 24 + 2 ^ 16 + tag)

/-- The phase, counted without bound, that the group's next arrival belongs to: at most two ahead of the open one. -/
def Crew.arrivalPhase (c : Crew) (g : Group) : Nat := c.phase + (g.crewPhase + 16 - c.phase % 16) % 16

/-- The open phase completes while every group of its party has arrived in it or left; the next begins with the members
of that moment (R39). At most three complete at once, since no arrival is further ahead. -/
def Crew.settleBy (c : Crew) : Nat → Crew
  | 0 => c
  | n + 1 =>
    if c.party.all (fun k => c.arrived.contains (k, c.phase)) then
      ({ c with
        phase := c.phase + 1, party := c.members,
        arrived := c.arrived.filter (fun a => c.phase < a.2) } : Crew).settleBy n
    else c

def Crew.settle (c : Crew) : Crew := c.settleBy 3

/-- The phase that counts as open in this cycle for an arrival that may run two ahead: one that completes in a cycle lets
such an arrival pass in the next (R320). -/
def Crew.openIn (c : Crew) (cycle : Nat) : Nat :=
  match c.closed with
  | some (t, p) => if t = cycle then p else c.phase
  | none => c.phase

/-- A crew with its phases settled in a cycle. -/
def Crew.settleIn (c : Crew) (cycle : Nat) : Crew :=
  let d := c.settle
  if d.phase = c.phase then d else { d with closed := some (cycle, c.openIn cycle) }

/-- The CBAR of a unit has recorded its arrival in a phase of the crew that is complete. -/
def Crew.passes (c : Crew) (u : Flight) : Bool :=
  !u.done && u.wait = .crew && (match u.arrived with
    | some n => n < c.phase
    | none => false)

/-- The group has taken up the CBAR that a trap had cancelled; a handler's own CBARs leave that one as it is (R58). -/
def Group.dropHeld (g : Group) : Group := if g.priv then g else { g with heldCbar := none }

/-- Every CBAR that waits on a complete phase of the crew completes (R319, R320): its acquire, at crew scope, has nothing to
drop (R169). -/
def State.passCrew (s : State) (c : Crew) : State :=
  c.members.foldl (fun t k =>
    match (t.grp k).flight.find? c.passes with
    | none => t
    | some u => (t.onGrp k (fun g => g.dropHeld.settle u.first)).calm k) s

/-- A crew as an arrival or a leave makes it, whose phases are settled at the end of the cycle (R320); one without members frees
its slot (R38). -/
def State.setCrew (s : State) (core slot : Nat) (c : Crew) : State :=
  let x := s.core core
  s.setCore core { x with crews := if c.members = [] then del x.crews slot else Machine.put x.crews slot c }

/-- The crew at `slot` with its phases settled, and the CBARs of those that have completed. -/
def State.settleCrew (s : State) (core slot : Nat) (c : Crew) : State :=
  (s.setCrew core slot (c.settleIn s.cycle)).passCrew (c.settleIn s.cycle)

/-- A cycle ends: every phase whose condition holds completes, and with it its CBARs (R320). -/
def State.settleCrews (s : State) : State :=
  let t := { s with cores := mapVals s.cores (fun _ c => { c with crews := mapVals c.crews (fun _ x => x.settleIn s.cycle) }) }
  t.cores.foldl (fun u c => c.2.crews.foldl (fun u x => u.passCrew x.2) u) t

/-- The group leaves its crew, counted as arrived in the phases that are open (R38, R347). -/
def State.leaveCrew (s : State) (k : Nat) : State :=
  let g := s.grp k
  if g.inCrew then
    let t := s.onGrp k (fun g => { g with crew := 0, heldCbar := none })
    match find? (s.core (coreOf k)).crews g.crewSlot with
    | none => t
    | some c =>
      t.setCrew (coreOf k) g.crewSlot { c with
        members := c.members.filter (fun x => x ≠ k), party := c.party.filter (fun x => x ≠ k),
        arrived := c.arrived.filter (fun x => x.1 ≠ k) }
  else s

/-- LEAVE (R347). -/
def runLeave (u : Flight) (s : State) : Res :=
  match s.release s.cur u s.me.crewScope with
  | none => .wait s (u.waiting .older [])
  | some t => .done (t.leaveCrew s.cur)
def execLeave (s : State) : Out := issue .leave runLeave s

/-- CBAR, with `waits`, and CBARA (R319): a CBAR waits at least for the end of its cycle, in which its phase may complete (R320). An
arrival that a trap has left recorded is that of the same CBAR when it issues
again; a handler's own arrivals leave it as it is (R58; DEDUCED, unsafe: assumption log, 26). -/
def runCbar (waits : Bool) (u : Flight) (s : State) : Res :=
  let k := s.cur
  let g := s.me
  if !g.inCrew then
    match s.release k u 1 with
    | none => .wait s (u.waiting .older [])
    | some t => .done t
  else
    let c := look { tag := 0, born := 0, phase := 0, members := [], party := [], arrived := [] } (s.core (coreOf k)).crews g.crewSlot
    let before : Option Nat := match u.arrived with
      | some n => some n
      | none => if waits && !g.priv then (g.heldCbar.filter (fun h => h.1 == u.first)).map Prod.snd else none
    match before with
    | some n =>
      if n < c.phase then .done ((s.onMe Group.dropHeld).acquire k g.crewScope)
      else .wait (s.onMe Group.dropHeld) { u.waiting .crew [] with arrived := some n }
    | none =>
      let a := c.arrivalPhase g
      if a = c.openIn s.cycle + 2 then .wait s (u.waiting .crew [])
      else
        match s.release k u g.crewScope with
        | none => .wait s (u.waiting .older [])
        | some t =>
          let t := (t.onMe (fun g => { g.dropHeld with crew := crewWord g.crewSlot (a + 1) g.crewTag })).setCrew
            (coreOf k) g.crewSlot { c with arrived := c.arrived ++ [(k, a)] }
          if waits then .wait t { u.waiting .crew [] with arrived := some a } else .done t

def execCbar (s : State) : Out := issue .cbar (runCbar true) s
def execCbara (s : State) : Out := issue .cbara (runCbar false) s

/-- The crew of a core with a tag. -/
def Core.crewOf (c : Core) (tag : Nat) : Option (Nat × Crew) := c.crews.find? (fun x => x.2.tag = tag)

/-- The crew slot that a new crew takes: the lowest free one (DESIGN CHOICE, unsafe: assumption log, 7). -/
def Core.freeSlot (c : Core) : Option Nat := (List.range 16).find? (fun i => (find? c.crews i).isNone)

/-- The tag that a unit of group `g` JOINs. -/
def joinTag (g : Group) : Instr → Option Nat
  | .join a => some (g.sreg a).toNat
  | .joinNb a _ => some (g.sreg a).toNat
  | _ => none

/-- Distinct new tags that JOINs older than `u` are waiting for on the core (R340). -/
def State.joinsAhead (s : State) (k : Nat) (u : Flight) : Nat :=
  let core := coreOf k
  let mine := (s.grp k).flight.any (fun x => x.first = u.first)
  (unionOnce [] ((s.coreGroups core).flatMap (fun x =>
    (x.2.flight.filter (fun w => !w.done && w.wait = .join && x.1 ≠ k
      && (!mine || w.since < u.since || (w.since = u.since && x.1 < k)))).filterMap (fun w =>
        (joinTag x.2 w.instr).map (fun t => t % 2 ^ 16))))).length

/-- The group becomes a member of the crew at `slot`; its first arrival belongs to `phase`. -/
def State.enterCrew (s : State) (k slot phase : Nat) (c : Crew) : State :=
  (s.onGrp k (fun g => { g with crew := crewWord slot phase c.tag, heldCbar := none })).setCore (coreOf k)
    { s.core (coreOf k) with crews := Machine.put (s.core (coreOf k)).crews slot c }

/-- The group joins the crew with a tag, if it can do so now; groups that join a new tag in the cycle in which the crew is
made all have phase 0, and one that joins in the cycle in which a phase completes is a member when the next begins (R37,
R39, R320, R340). -/
def State.joinCrew (s : State) (k tag ahead : Nat) : Option State :=
  let co := s.core (coreOf k)
  match co.crewOf tag with
  | some (slot, c) =>
    if (c.born = s.cycle ∧ c.phase = 0) ∨ c.closed = some (s.cycle, c.phase - 1) then
      some (s.enterCrew k slot c.phase { c with members := c.members ++ [k], party := c.party ++ [k] })
    else some (s.enterCrew k slot (c.phase + 1) { c with members := c.members ++ [k] })
  | none =>
    match co.freeSlot with
    | none => none
    | some slot =>
      if 16 ≤ co.crews.length + ahead then none
      else some (s.enterCrew k slot 0 { tag := tag, born := s.cycle, phase := 0, members := [k], party := [k], arrived := [] })

/-- JOIN: `nb` is the predicate of the non-blocking form. -/
def runJoin (a : SReg) (nb : Option (Fin 8)) (u : Flight) (s : State) : Res :=
  if s.me.inCrew then .trap s u.operand
  else
    match s.joinCrew s.cur ((s.me.sreg a).toNat % 2 ^ 16) (s.joinsAhead s.cur u), nb with
    | some t, none => .done t
    | some t, some p => .done (t.onMe (fun g => g.setPAll p true))
    | none, none => .wait s (u.waiting .join [])
    | none, some p => .done (s.onMe (fun g => g.setPAll p false))

def execJoin (a : SReg) (s : State) : Out := issue (.join a) (runJoin a none) s
def execJoinNb (a : SReg) (p : Fin 8) (s : State) : Out := issue (.joinNb a p) (runJoin a (some p)) s

end Sys2Proof.Machine
end

