-- ==== Sys2Proof/Machine/Local.lean ====
section
/-! DEFINITION. Local memory: its addresses and their checks (R100 to R102), full-empty bits (R105, R107), and the waits
of an access (R120, R122). -/

namespace Sys2Proof.Machine
open Sys2Proof

/-! ## Addresses -/

/-- The place of a local address for a group of instance `i` on `core`; none is 0x02 (R100). -/
def State.localPlace (s : State) (core : Nat) (i : Inst) (a : Nat) : Option Nat :=
  let off := a % 2 ^ 20
  let n := a / 2 ^ 20 % 128
  if 2 ^ 28 ≤ a then none
  else if a / 2 ^ 27 = 1 then
    if n ≠ 0 ∨ i.spad * 4096 ≤ off then none else some (i.localStart core + off)
  else if isSteward core then none
  else
    let t := core / 128 * 128 + n
    if (s.core t).mappedOut then none else some (t * 2 ^ 20 + off)

/-- The slot of a place is local memory of an instance of the context (R102). -/
def State.ownsSlot (s : State) (ctx at_ : Nat) : Bool :=
  s.insts.any (fun x => x.2.live && x.2.ctx = ctx
    && x.2.localStart (x.1 / 16) ≤ at_ && at_ < x.2.localStart (x.1 / 16) + x.2.spad * 4096)

/-- The checks of a local access in the order of R237: R100 and, where `selfOnly`, SELF = 0 (0x02), alignment (0x04), the
slot's owner (0x06). -/
def State.resolveLocal (s : State) (u : Flight) (k n : Nat) (selfOnly write : Bool) (ls : List (Nat × Nat)) :
    Except Cause (List LLane) :=
  let core := coreOf k
  let g := s.grp k
  let i := s.inst (instKey k g)
  let xs : List LLane := ls.map (fun x =>
    { lane := x.1, addr := x.2, at_ := (s.localPlace core i x.2).getD 0, self := x.2 / 2 ^ 27 = 1 })
  match xs.find? (fun x => (s.localPlace core i x.addr).isNone || (selfOnly && !x.self)) with
  | some x => .error (u.operand (BitVec.ofNat 64 x.addr))
  | none =>
    match firstMisaligned n ls with
    | some c => .error c
    | none =>
      match xs.find? (fun x => !x.self && !s.ownsSlot g.ctx x.at_) with
      | some x =>
        .error ⟨6, BitVec.ofNat 64 x.addr, pageInfo x.lane (Config.openLevel 6 x.addr) 2 write false⟩
      | none => .ok xs

/-- Instructions that write local bytes and read what is there. -/
def rereads : Instr → Bool
  | .latom _ _ _ _ _ | .txarrive _ | .txexpect _ _ | .txwait _ _ | .flip _ | .merge => true
  | _ => false

/-- A word of these bytes is held for a LATOM, which a plain access waits for; another LATOM waits for an older one only (R311). -/
def State.localHeld (s : State) (u : Flight) (k n : Nat) (keys : List Nat) : Bool :=
  match u.instr with
  | .latom _ _ _ _ _ => s.heldByOlder k (s.ageOf k u) u.first n keys
  | _ => keys.any (fun a => s.wordHeld k u.first a n)

/-- The cause 0x09 of a local access of `n` bytes that reads: of the first lane that no mark and no held word keeps from its
bytes, and finds a word of theirs uncorrectable (R237, R239). -/
def State.localBad (s : State) (u : Flight) (k n : Nat) (xs : List LLane) : Option Cause :=
  s.sramCause ((xs.filter (fun x => !s.localHeld u k n [localKey x.at_]
    && !(granuleKeys (localKey x.at_) n).any s.markedOff)).map (fun x => (x.addr, localKey x.at_, n)))

/-- The checks and waits of a local access of `n` bytes at each (lane, address): the state in which it may act and its
lanes. Every local access touches the ARMED windows over it and waits at their marks (R119, R120, R122) and for words that are
held for a LATOM (R311), and one that reads an uncorrectable word traps before any lane's STRANDED window does (R237, R239). The
cause 0x08 of a 64-byte record names its first address (DESIGN CHOICE, unsafe: assumption log, 13). -/
def State.localAccess (s : State) (u : Flight) (k n : Nat) (selfOnly write : Bool) (ls : List (Nat × Nat)) :
    Except Got (State × List LLane) :=
  match s.resolveLocal u k n selfOnly write ls with
  | .error c => .error (.trap c)
  | .ok xs =>
    let keys := xs.flatMap (fun x => granuleKeys (localKey x.at_) n)
    if (s.grp k).sameBytes u (xs.map (fun x => ⟨localKey x.at_, n⟩)) then .error (.stall s)
    else
      match (if write && !rereads u.instr then none else s.localBad u k n xs) with
      | some c => .error (.trap c)
      | none =>
        match s.stranded (xs.flatMap (fun x => (granuleKeys (localKey x.at_) n).map (fun a => (x.addr, a)))) with
        | some c => .error (.trap c)
        | none =>
          let t := s.touch keys
          match t.markWait keys with
          | some w => .error (.wait t w 0)
          | none => if s.localHeld u k n (xs.map (fun x => localKey x.at_)) then .error (.wait t .accept 0) else .ok (t, xs)

/-- The spans of local (lane, address) pairs, as far as they have a place. -/
def State.localSpans (s : State) (k n : Nat) (ls : List (Nat × Nat)) : List Span :=
  let i := s.inst (instKey k (s.grp k))
  ls.filterMap (fun x => (s.localPlace (coreOf k) i x.2).map (fun a => ⟨localKey a, n⟩))

/-! ## Data -/

/-- The value of a lane. -/
def State.localValue (s : State) (n : Nat) (x : LLane) : Nat := rdLE s.lm x.at_ n

/-- Each lane's value written, the highest lane last (R165). -/
def State.localStore (s : State) (n : Nat) (vs : Nat → Nat) (xs : List LLane) : State :=
  State.healSram { s with lm := xs.foldl (fun m x => wrLE m x.at_ n (vs x.lane)) s.lm } (xs.map (fun x => (localKey x.at_, n)))

/-! ## Full-empty bits -/

def State.isFull (s : State) (granule : Nat) : Bool := look false s.full granule

/-- Sets granules full or empty; an unlisted granule is empty. -/
def State.setFull (s : State) (b : Bool) (gs : List Nat) : State :=
  { s with full := gs.foldl (fun m g => if b then Machine.put m g true else del m g) s.full }

/-- The granules that lanes touch (R106). -/
def granules (xs : List LLane) : List Nat := unionOnce [] (xs.map (fun x => x.at_ / 16))

/-- What an instruction that waits on full-empty bits waits for. -/
def feWants : Instr → Option Bool
  | .ldlFe _ _ _ _ _ => some true
  | .ldlFec _ _ _ _ _ => some true
  | .stlFw _ _ _ _ _ => some false
  | _ => none

/-- Its test over granules (R107). -/
def State.feTest (s : State) (i : Instr) (gs : List Nat) : Bool :=
  match feWants i with
  | some b => gs.all (fun g => s.isFull g = b)
  | none => true

/-- The granules of a waiting unit. -/
def Flight.granules (u : Flight) : List Nat := unionOnce [] (u.spans.map (fun a => (a.key - localBase) / 16))

/-- The units that wait on full-empty bits, as (issue cycle, group, unit): also those that a mark or a held word keeps from their
test now (R120). A `.fw` store whose test has passed and that waits for its release is none, and a younger waiter may take the
granule before it (R107, R378; DESIGN CHOICE, unsafe: assumption log, 22). -/
def State.feWaiters (s : State) : List (Nat × Nat × Flight) :=
  s.groups.flatMap (fun x => if x.2.live then
    (x.2.flight.filter (fun u => !u.done && (feWants u.instr).isSome && u.wait ≠ .older)).map (fun u => (u.since, x.1, u)) else [])

/-- A waiter of group `k` could act now: its group runs, its test passes, and no mark and no held word is in its way. -/
def State.feReady (s : State) (k : Nat) (u : Flight) : Bool :=
  (s.grp k).status = .running && s.feTest u.instr u.granules && (s.markWait (u.spans.map Span.key)).isNone
    && !u.spans.any (fun a => s.wordHeld k u.first a.key a.len)

/-- An older waiter on one of these granules could act, and goes first (R107). Of two that issued in one cycle the one of the lower
core, and then of the lower group slot, is the older (DESIGN CHOICE, unsafe: assumption log, 22). -/
def State.feAhead (s : State) (k : Nat) (u : Flight) (gs : List Nat) : Bool :=
  let mine := (s.grp k).flight.any (fun x => x.first = u.first)
  s.feWaiters.any (fun w => !(w.2.1 = k && w.2.2.first = u.first)
    && (!mine || w.1 < u.since || (w.1 = u.since && w.2.1 < k))
    && w.2.2.granules.any (fun g => gs.contains g) && s.feReady w.2.1 w.2.2)

/-- The scope of a full-empty synchroniser: core where every lane is a SELF address, else cluster (R108). -/
def feScope (xs : List LLane) : Nat := if xs.all LLane.self then 4 else 5

end Sys2Proof.Machine
end

