-- ==== Sys2Proof/Machine/Special.lean ====
section
/-! DEFINITION. MFSR and MTSR: the special registers of R295, what each reads, which writes each refuses and what a write
does (R354, R355). -/

namespace Sys2Proof.Machine
open Sys2Proof

/-- The handle of task set `n`: never zero, another for every set (R47; DESIGN CHOICE, unsafe: assumption log, 7). -/
def handleOf (n : Nat) : Word64 := BitVec.ofNat 64 (1 + (Config.handleBase + n) % (2 ^ 64 - 1))

/-- The set that a handle names. -/
def State.setOf (s : State) (h : Word64) : Option (Nat × TaskSet) := s.sets.find? (fun x => handleOf x.1 == h)

/-- The launch of a group's graph, as the ring holds it (R276). -/
def State.launchOf (s : State) (k : Nat) : Option (Nat × Launch) :=
  match find? s.sets (s.inst (instKey k (s.grp k))).set with
  | some t => s.ring.find? (fun x => x.2.graph = t.graph)
  | none => none

/-- The register exists; it is one that only a privileged group may name; it may be written (R295). -/
def specialExists (n : Nat) : Bool :=
  n ≤ 0x0A || (0x10 ≤ n && n ≤ 0x17) || (0x20 ≤ n && n ≤ 0x2F) || (0x40 ≤ n && n ≤ 0x5F) || (0x100 ≤ n && n ≤ 0x10F)
def specialPrivileged (n : Nat) : Bool := 0x100 ≤ n
def specialWritable (n : Nat) : Bool :=
  n = 0x09 || (0x11 ≤ n && n ≤ 0x16) || (0x20 ≤ n && n ≤ 0x2F) || n = 0x100 || n = 0x102 || (0x105 ≤ n && n ≤ 0x10F)

/-- GSTAT as a word (R224). -/
def Flags.word (f : Flags) : Nat :=
  f.iv.toNat + 2 * f.dz.toNat + 4 * f.ovf.toNat + 8 * f.uf.toNat + 16 * f.nx.toNat
def flagsOf (w : Word64) : Flags := ⟨w.getLsbD 0, w.getLsbD 1, w.getLsbD 2, w.getLsbD 3, w.getLsbD 4⟩

/-- TMODE (R231). -/
def Group.tmode (g : Group) : Nat := g.priv.toNat + 2 * g.pol.toNat + 4 * g.det.toNat + 8 * g.susp.toNat

/-- Courses of a core that are free within its placement limit (R53, R99). -/
def Core.free (c : Core) : Nat := c.limCourses - c.used

/-- POOLFREE (R99). -/
def poolFree (i : Inst) (c : Core) : Nat := i.lmbase * 2 ^ 28 + i.held * 2 ^ 16 + c.free

/-- STATE of WST (R111). -/
def WState.code : WState → Nat
  | .empty => 0
  | .armed => 1
  | .landing => 2
  | .frozen => 3
  | .stranded => 4
  | .landed => 5

/-- WST (R111). -/
def Window.status (w : Window) : Word64 :=
  (w.raddr &&& ~~~(63 : Word64)) ||| BitVec.ofNat 64 (32 * w.rg.toNat + w.state.code)

/-- What special register `n` reads for group `k` (R295). -/
def State.special (s : State) (k n : Nat) : Word64 :=
  let g := s.grp k
  let core := coreOf k
  let c := s.core core
  let i := s.inst (instKey k g)
  let nat := fun x : Nat => BitVec.ofNat 64 x
  if 0x20 ≤ n ∧ n ≤ 0x2F then look 0 c.qcfg (n - 0x20)
  else if 0x40 ≤ n ∧ n ≤ 0x4F then nat (look {} i.wins (n - 0x40)).mark
  else if 0x50 ≤ n ∧ n ≤ 0x5F then (look {} i.wins (n - 0x50)).status
  else if 0x108 ≤ n ∧ n ≤ 0x10F then look 0 g.shadow (n - 0x108 + 56)
  else
    match n with
    | 0x000 => nat g.gidx
    | 0x001 => nat g.width
    | 0x002 => nat core
    | 0x003 => nat s.device
    | 0x004 => nat i.taskix
    | 0x005 => handleOf i.set
    | 0x006 => i.argp
    | 0x007 => g.crew
    | 0x008 => nat g.vcount
    | 0x009 => nat g.gstat.word
    | 0x00A => ((s.launchOf k).map (fun x => x.2.seed)).getD 0
    | 0x010 => nat s.cycle
    | 0x011 => g.mstride
    | 0x012 => g.mfmt
    | 0x013 => g.mkres
    | 0x014 => g.dsb
    | 0x015 => g.dsd
    | 0x016 => g.dfmt
    | 0x017 => nat (poolFree i c)
    | 0x100 => g.tvec
    | 0x101 => g.tcause
    | 0x102 => g.tepc
    | 0x103 => g.taddr
    | 0x104 => g.tinfo
    | 0x105 => nat g.tmode
    | 0x106 => g.wdlim
    | 0x107 => g.tskip
    | _ => 0

/-- MTSR of `w` to register `n` passes the register's own checks: no reserved bit set, no value out of range (R30, R55,
R91, R190, R198, R224, R231, R234). -/
def specialGood (n : Nat) (w : Word64) : Bool :=
  let v := w.toNat
  if 0x20 ≤ n ∧ n ≤ 0x2F then
    v % 8 = 0 && (fld v 28 4 = 0 || (fld v 48 16 + 2 ^ 16 - fld v 32 16) % 2 ^ 16 ≤ 2 ^ fld v 28 4)
  else
    match n with
    | 0x009 => v < 2 ^ 5
    | 0x011 => v < 2 ^ 20 && v % 16 = 0
    | 0x012 => v < 2 ^ 16
    | 0x013 => v < 2 ^ 5
    | 0x014 => v < 2 ^ 28 && v % 32 = 0
    | 0x015 => v < 2 ^ 32 && fld v 0 16 ≤ fld v 16 16
    | 0x016 => v < 2 ^ 16
    | 0x100 => v % 2 ^ 12 = 0
    | 0x102 => v % 4 = 0
    | 0x105 => v < 2 ^ 4
    | 0x106 => v < 2 ^ 48 && (v = 0 || 2 ^ 16 ≤ v)
    | 0x107 => v < 2 ^ 16
    | _ => true

/-- The write of `w` to register `n` by group `k`. -/
def State.setSpecial (s : State) (k n : Nat) (w : Word64) : State :=
  if 0x20 ≤ n ∧ n ≤ 0x2F then
    let c := s.core (coreOf k)
    s.setCore (coreOf k) { c with
      qcfg := Machine.put c.qcfg (n - 0x20) w,
      qowner := Machine.put c.qowner (n - 0x20) (s.inst (instKey k (s.grp k))).serial }
  else
    s.onGrp k (fun g =>
      if 0x108 ≤ n ∧ n ≤ 0x10F then { g with shadow := Machine.put g.shadow (n - 0x108 + 56) w }
      else
        match n with
        | 0x009 => { g with gstat := flagsOf w }
        | 0x011 => { g with mstride := w }
        | 0x012 => { g with mfmt := w }
        | 0x013 => { g with mkres := w }
        | 0x014 => { g with dsb := w }
        | 0x015 => { g with dsd := w }
        | 0x016 => { g with dfmt := w }
        | 0x100 => { g with tvec := w }
        | 0x102 => { g with tepc := w }
        | 0x105 => { g with susp := w.getLsbD 3 }
        | 0x106 => { g with wdlim := w }
        | 0x107 => { g with tskip := w }
        | _ => g)

/-- The traps of MFSR and MTSR: a number of no register 0x02; a privileged register, or a write of one that only reads,
0x03 (R295). -/
def specialTrap (u : Flight) (g : Group) (n : Nat) (write : Bool) : Option Cause :=
  if !specialExists n then some u.operand
  else if (specialPrivileged n && !g.priv) || (write && !specialWritable n) then some ⟨3, 0, u.word⟩
  else none

/-- MFSR (R354). -/
def execMfsr (d : SReg) (n : BitVec 12) (s : State) : Out :=
  issue (.mfsr d n) (fun u s =>
    match specialTrap u s.me n.toNat false with
    | some c => .trap s c
    | none => .done (s.onMe (fun g => g.setS d (s.special s.cur n.toNat)))) s

/-- MTSR (R355). -/
def execMtsr (a : SReg) (n : BitVec 12) (s : State) : Out :=
  issue (.mtsr a n) (fun u s =>
    match specialTrap u s.me n.toNat true with
    | some c => .trap s c
    | none =>
      if specialGood n.toNat (s.me.sreg a) then .done (s.setSpecial s.cur n.toNat (s.me.sreg a)) else .trap s u.operand) s

end Sys2Proof.Machine
end

