-- ==== Sys2Proof/Machine/Sync.lean ====
section
/-! DEFINITION. FENCE and CINV (R321, R334), queues (R55 to R57, R364, R365), register claims (R52 to R54, R387) and WAITX
(R94 to R96, R391). -/

namespace Sys2Proof.Machine
open Sys2Proof

/-! ## FENCE and CINV -/

/-- FENCE: the release acts first, then the acquire (R334). An acquire waits until the group's earlier accesses are
complete, so that what a load before it reads orders every access after it (R335; DEDUCED, unsafe: assumption log, 27). -/
def runFence (k : FenceKind) (sc : Fin 16) (u : Flight) (s : State) : Res :=
  if 10 ≤ sc.val then .trap s u.operand
  else if k = .acq ∧ sc.val ≠ 0 ∧ (s.me.older u).any (fun o => !o.done && accesses o.instr) = true then .wait s (u.waiting .older [])
  else
    match (if k = .acq then some s else s.release s.cur u sc.val) with
    | none => .wait s (u.waiting .older [])
    | some t => .done (if k = .rel then t else t.acquire s.cur sc.val)
def execFence (k : FenceKind) (sc : Fin 16) (s : State) : Out := issue (.fence k sc) (runFence k sc) s

/-- The pages of [lo, hi) that the table at `t`, whose first entry maps `base`, holds a leaf for: (virtual start, size). -/
def State.pagesIn (s : State) (lo hi : Nat) : Nat → Nat → Nat → List (Nat × Nat)
  | 0, t, base =>
    (List.range 32).filterMap (fun i =>
      let a := base + i * 2 ^ 16
      if a < hi ∧ lo < a + 2 ^ 16 ∧ pteValid (s.entry (t + 8 * i)) = true then some (a, 2 ^ 16) else none)
  | n + 1, t, base =>
    (List.range 512).flatMap (fun i =>
      let size := 2 ^ (21 + 9 * n)
      let a := base + i * size
      if a < hi ∧ lo < a + size then
        let w := s.entry (t + 8 * i)
        if !pteValid w then [] else if pteLeaf w then [(a, size)] else s.pagesIn lo hi n (pteNext w) a
      else [])

/-- The physical address that the state keeps at `a` under a leaf's interleave: `storeAddr` the other way. -/
def physOf (dil : Bool) (a : Nat) : Nat :=
  if dil then
    let io := interleave false a
    io.1 / 128 * 2 ^ 48 + (io.2 / 8192 * 128 + (io.1 % 128 ^^^ io.2 / 8192 % 128)) * 8192 + io.2 % 8192
  else a

/-- Whether a virtual line of page (va, size) that overlaps [lo, hi) is the line whose first byte has key `key`. -/
def State.lineIn (s : State) (core ctx lo hi key : Nat) (page : Nat × Nat) : Bool :=
  match s.translate core ctx page.1 0 false false with
  | .error _ => false
  | .ok p =>
    let pa := physOf (pteDil p.leaf) (key % 2 ^ 52)
    let va := page.1 + (pa - p.pa)
    key / 2 ^ 52 = p.home && p.pa ≤ pa && pa < p.pa + page.2 && va < hi && lo < va + 128

/-- CINV of a range of virtual addresses (R321): the lines of the core's L1 that it covers; an address that no page holds is
passed over, and an address has the page of the TLB or, without one, of the tables (DEDUCED, unsafe: assumption log, 26). -/
def execCinv (a b : SReg) (s : State) : Out :=
  issue (.cinv a b) (fun u s =>
    let lo := (s.me.sreg a).toNat
    let hi := lo + (s.me.sreg b).toNat
    let c := s.core s.here
    let ctx := s.me.ctx
    if 2 ^ 64 < hi then .trap s u.operand
    else if hi = lo ∨ c.l1 = [] then .done s
    else
      let known := (c.tlb.filter (fun e => e.ctx = ctx)).map (fun e => (e.va, e.size))
      let pages := known ++ (match find? s.ctxs ctx with
        | none => []
        | some x => s.pagesIn lo hi 3 x.root 0)
      .done (s.setCore s.here { c with l1 := delWhere c.l1 (fun k => pages.any (s.lineIn s.here ctx lo hi (k / 8 * 128))) })) s

/-- CINV.all: the core's L1 and its instruction buffer (R321). -/
def execCinvAll (s : State) : Out :=
  issue .cinvAll (fun _ s => .done (s.setCore s.here { s.core s.here with l1 := [], ibuf := [] })) s

/-! ## Queues -/

def qTail (w : Word64) : Nat := fld w.toNat 48 16
def qHead (w : Word64) : Nat := fld w.toNat 32 16
def qLog (w : Word64) : Nat := fld w.toNat 28 4
def qBase (w : Word64) : Nat := fld w.toNat 0 28
/-- The items that a queue holds. -/
def qCount (w : Word64) : Nat := (qTail w + 2 ^ 16 - qHead w) % 2 ^ 16
/-- QCFG with other indexes. -/
def qWord (w : Word64) (tail head : Nat) : Word64 :=
  BitVec.ofNat 64 (tail % 2 ^ 16 * 2 ^ 48 + head % 2 ^ 16 * 2 ^ 32 + w.toNat % 2 ^ 32)

/-- The queue and direction of a unit: whether it pushes. -/
def queueOf : Instr → Option (Nat × Bool)
  | .qpush _ q => some (q.val, true)
  | .qpushNb _ q _ => some (q.val, true)
  | .qpop _ q => some (q.val, false)
  | .qpopNb _ q _ => some (q.val, false)
  | _ => none

/-- The ring's place in its owner's local memory, under the checks of R365: an item that QPUSH writes is a store there (R236). -/
def State.ring365 (s : State) (core q : Nat) (u : Flight) : Except Cause Nat :=
  let w := look 0 (s.core core).qcfg q
  if 16 ≤ q ∨ qLog w = 0 then .error u.operand
  else if qBase w / 2 ^ 20 ≠ 128 then .error (u.operand (BitVec.ofNat 64 (qBase w)))
  else
    match s.insts.find? (fun x => x.1 / 16 = core && x.2.live && x.2.serial = look 0 (s.core core).qowner q) with
    | none =>
      .error ⟨6, BitVec.ofNat 64 (qBase w), pageInfo 0 (Config.openLevel 6 (qBase w)) 2 ((queueOf u.instr).any Prod.snd) false⟩
    | some (_, i) =>
      if i.spad * 4096 < qBase w % 2 ^ 20 + 8 * 2 ^ qLog w then .error (u.operand (BitVec.ofNat 64 (qBase w)))
      else .ok (i.localStart core + qBase w % 2 ^ 20)

/-- An item's bytes under windows and at words that are held for a LATOM, like any local access (R120, R122, R311, R365). -/
def State.itemAccess (s : State) (at_ : Nat) : Except Got State :=
  match s.stranded [(at_, localKey at_)] with
  | some c => .error (.trap c)
  | none =>
    let t := s.touch [localKey at_]
    match t.markWait [localKey at_] with
    | some w => .error (.wait t w 0)
    | none => if s.wordHeld noGroup 0 (localKey at_) 8 then .error (.wait t .accept 0) else .ok t

/-- One pass of QPUSH (`some` item) or QPOP over queue `q`; none where it cannot act. -/
def State.queueStep (s : State) (core q base : Nat) (item : Option Word64) :
    Except Got (Option (State × Word64)) :=
  let w := look 0 (s.core core).qcfg q
  let set := fun (t : State) (w : Word64) => t.setCore core { t.core core with qcfg := Machine.put (t.core core).qcfg q w }
  match item with
  | some x =>
    if 2 ^ qLog w ≤ qCount w then .ok none
    else
      let a := base + 8 * (qTail w % 2 ^ qLog w)
      match s.itemAccess a with
      | .error e => .error e
      | .ok t => .ok (some (set ({ t with lm := wrLE t.lm a 8 x.toNat }.healSram [(localKey a, 8)]) (qWord w (qTail w + 1) (qHead w)), 0))
  | none =>
    if qCount w = 0 then .ok none
    else
      let a := base + 8 * (qHead w % 2 ^ qLog w)
      match s.itemAccess a with
      | .error e => .error e
      | .ok t =>
        match t.sramCause [(a, localKey a, 8)] with
        | some c => .error (.trap c)
        | none => .ok (some (set t (qWord w (qTail w) (qHead w + 1)), BitVec.ofNat 64 (rdLE t.lm a 8)))

/-- QPUSH of scalar `src` or QPOP into scalar `dst`, on its own; `nb` is the predicate of the non-blocking form (R364). -/
def queueOnce (q : Fin 64) (src dst : Option SReg) (nb : Option (Fin 8)) (u : Flight) (s : State) : Res :=
  match s.ring365 s.here q u with
  | .error c => .trap s c
  | .ok base =>
    match (if src.isSome then s.release s.cur u 4 else some s) with
    | none => .wait s (u.waiting .older [])
    | some t =>
      let finish := fun (t : State) (acted : Bool) => match nb with
        | none => Res.done t
        | some p => Res.done (t.onMe (fun g => g.setPAll p acted))
      let w := look 0 (s.core s.here).qcfg q
      let item := base + 8 * ((if src.isSome then qTail w else qHead w) % 2 ^ qLog w)
      match t.queueStep s.here q base (src.map (fun r => s.me.sreg r)) with
      | .error e => e.then t u [⟨localKey item, 8⟩] (fun t _ => .done t)
      | .ok none => if nb.isSome then finish t false else .wait t (u.waiting .queue [])
      | .ok (some (t, x)) =>
        match dst with
        | none => finish t true
        | some d => finish ((t.onMe (fun g => g.setS d x)).acquire s.cur 4) true

/-- A unit of a running group that waits on queue `q`, or for the bytes of its item. -/
def Flight.onQueue (u : Flight) (q : Nat) : Bool := !u.done && u.wait ≠ .older && (queueOf u.instr).map Prod.fst = some q

/-- The units that wait on queue `q` of a core and are older than unit `u` of group `k`, oldest first: by issue cycle, then by group
slot (R364). -/
def State.queueAhead (s : State) (k q : Nat) (u : Flight) : List (Nat × Flight) :=
  let mine := (s.grp k).flight.any (fun x => x.first = u.first)
  let all := (s.coreGroups (coreOf k)).flatMap (fun x => if x.2.live ∧ x.2.status = .running then
    ((if x.1 = k then x.2.older u else x.2.flight).filter (fun w => w.onQueue q && (x.1 = k || !mine || w.since < u.since
      || (w.since = u.since && x.1 < k)))).map (fun w => (x.1, w)) else [])
  sortOn (fun x => x.2.since * 2 ^ 6 + x.1 % 64) all

/-- A waiting unit takes its step on queue `q`, where it can. -/
def State.queueTurn (s : State) (q : Fin 64) (x : Nat × Flight) : State :=
  match (s.grp x.1).incomplete.find? (fun v => v.first = x.2.first) with
  | none => s
  | some v =>
    let t := { s with cur := x.1 }
    let r := match v.instr with
      | .qpush a _ => queueOnce q (some a) none none v t
      | .qpushNb a _ p => queueOnce q (some a) none (some p) v t
      | .qpop d _ => queueOnce q none (some d) none v t
      | .qpopNb d _ p => queueOnce q none (some d) (some p) v t
      | _ => .stall t
    { t.reconclude x.1 v r with cur := s.cur }

/-- QPUSH or QPOP: every older waiter that can act on the queue acts first (R364). A trap that one of them takes, which cancels the
unit or ends its group, leaves it there. -/
def runQueue (q : Fin 64) (src dst : Option SReg) (nb : Option (Fin 8)) (u : Flight) (s : State) : Res :=
  let t := (s.queueAhead s.cur q u).foldl (fun t x => t.queueTurn q x) s
  if t.me.live && t.me.status = .running && t.me.priv = s.me.priv then queueOnce q src dst nb u t else .left t

def execQpush (a : SReg) (q : Fin 64) (s : State) : Out := issue (.qpush a q) (runQueue q (some a) none none) s
def execQpushNb (a : SReg) (q : Fin 64) (p : Fin 8) (s : State) : Out :=
  issue (.qpushNb a q p) (runQueue q (some a) none (some p)) s
def execQpop (d : SReg) (q : Fin 64) (s : State) : Out := issue (.qpop d q) (runQueue q none (some d) none) s
def execQpopNb (d : SReg) (q : Fin 64) (p : Fin 8) (s : State) : Out :=
  issue (.qpopNb d q p) (runQueue q none (some d) (some p)) s

/-! ## Register claims -/

/-- Courses of `n` blocks of a group (R97). -/
def Group.coursesOf (g : Group) (n : Nat) : Nat := n * g.width / 16

/-- The group without what registers from `lo` to below `hi` held: they read zero. -/
def Group.clearV (g : Group) (lo hi : Nat) : Group := { g with v := delWhere g.v (fun k => lo * 64 ≤ k && k < hi * 64) }

/-- A number of courses more or less that the group's instance holds on its core. -/
def State.courses (s : State) (k : Nat) (f : Nat → Nat) : State :=
  let i := s.inst (instKey k (s.grp k))
  let c := s.core (coreOf k)
  (s.setInst (instKey k (s.grp k)) { i with held := f i.held }).setCore (coreOf k) { c with used := f c.used }

/-- The group takes `n` blocks more, which read zero, and its claim leaves the queue (R387). -/
def State.takeBlocks (s : State) (k n : Nat) : State :=
  let t := (s.courses k (fun x => x + (s.grp k).coursesOf n)).onGrp k (fun g =>
    { g.clearV (8 * g.blocks) (8 * (g.blocks + n)) with blocks := g.blocks + n })
  t.setCore (coreOf k) { t.core (coreOf k) with claims := (t.core (coreOf k)).claims.filter (fun c => c.grp ≠ k) }

/-- The core's waiting claims granted oldest first, each to its waiting VCLAIM (R54, R387). -/
def State.grantFrom (s : State) (core : Nat) : List Claim → State
  | [] => s
  | c :: cs =>
    if (s.grp c.grp).coursesOf c.n ≤ (s.core core).free then
      ((((s.takeBlocks c.grp c.n).onGrp c.grp (fun g => match g.incomplete.find? (fun u => u.wait = .claim) with
        | some u => g.settle u.first
        | none => g))).calm c.grp).grantFrom core cs
    else s
def State.grantClaims (s : State) (core : Nat) : State := s.grantFrom core (s.core core).claims

/-- Puts a claim of group `k` in its place: by issue cycle, then by group slot. -/
def State.enqueueClaim (s : State) (k n : Nat) : State :=
  let c := s.core (coreOf k)
  let now : Claim → Bool := fun x =>
    k < x.grp && ((s.grp x.grp).flight.any (fun u => u.wait = .claim && !u.done && u.since = s.cycle))
  s.setCore (coreOf k) { c with
    claims := c.claims.takeWhile (fun x => !now x) ++ ⟨k, n⟩ :: c.claims.dropWhile (fun x => !now x) }

/-- VCLAIM: `nb` is the predicate of the non-blocking form. -/
def runVclaim (n : Fin 64) (nb : Option (Fin 8)) (u : Flight) (s : State) : Res :=
  let g := s.me
  let c := s.core s.here
  let fits : Bool := g.coursesOf n ≤ c.free
  if n.val = 0 ∨ 15 < n.val ∨ 16 < g.blocks + n.val then .trap s u.operand
  else
    match nb with
    | some p =>
      if c.claims = [] ∧ fits = true then .done ((s.takeBlocks s.cur n).onMe (fun g => g.setPAll p true))
      else .done (s.onMe (fun g => g.setPAll p false))
    | none =>
      if (c.claims = [] ∨ (c.claims.head?.map Claim.grp) = some s.cur) ∧ fits = true then .done (s.takeBlocks s.cur n)
      else if c.claims.any (fun x => x.grp = s.cur) then .wait s (u.waiting .claim [])
      else .wait (s.enqueueClaim s.cur n) (u.waiting .claim [])

def execVclaim (n : Fin 64) (s : State) : Out := issue (.vclaim n) (runVclaim n none) s
def execVclaimNb (n : Fin 64) (p : Fin 8) (s : State) : Out := issue (.vclaimNb n p) (runVclaim n (some p)) s

/-- VGIVE (R54, R387). -/
def execVgive (n : Fin 64) (s : State) : Out :=
  issue (.vgive n) (fun u s =>
    let g := s.me
    if n.val = 0 ∨ 15 < n.val ∨ g.blocks ≤ n.val then .trap s u.operand
    else
      .done (((s.courses s.cur (fun x => x - g.coursesOf n)).onMe (fun g =>
        { g.clearV (8 * (g.blocks - n)) (8 * g.blocks) with blocks := g.blocks - n })).grantClaims s.here)) s

/-! ## WAITX -/

/-- The interval after the next poll (R96). -/
def nextPoll (n : Nat) : Nat := min (2 * n) 65536

/-- A WAITX of the acting group that issues now takes an entry of the watch table, where one is free (R95). -/
def State.enterWatch (s : State) (u : Flight) (line : Nat) : State :=
  let c := s.core s.here
  if s.me.flight.any (fun x => x.first = u.first) || Config.watchEntries ≤ c.watch.length then s
  else s.setCore s.here { c with watch := c.watch ++ [{ grp := s.cur, line := line }] }

/-- WAITX (R94 to R96). A unit that has read its word once and waits has `prog` 1: each later read is that of a notice, or
of a poll. A WAITX that gets an entry holds it from its issue until the home slice acknowledges its deregistration. -/
def runWaitx (d a b : SReg) (u : Flight) (s : State) : Res :=
  let sc := u.modScope
  let g := s.me
  let ls := [(0, (g.sreg a).toNat)]
  if sc < 6 ∨ 9 < sc then .trap s u.operand
  else
    match s.resolve s.here g.ctx 8 false ls with
    | .error c => .trap s c
    | .ok xs =>
      if xs.any (fun x => x.at_.control) then .trap s (u.operand (g.sreg a))
      else
        let line := (xs.head?.map (fun x => x.at_.key / 128)).getD 0
        let spans := s.globalSpans s.cur 8 false ls
        match s.gLoad u s.cur 8 true ls with
        | .trap c => .trap s c
        | .stall t => .stall t
        | .wait t w held => .wait (t.enterWatch u line) { u.waiting w spans with miss := held }
        | .part t _ _ => .stall t
        | .vals t vs =>
          let room : Bool := (t.core s.here).watch.length < Config.watchEntries
          let t := t.enterWatch u line
          let v := BitVec.ofNat 64 (valueOf vs 0)
          let w := { u.waiting .waitx [] with prog := 1 }
          let watched := (t.core s.here).watch.any (fun w => w.grp = s.cur && !w.leaving)
          if v ≠ g.sreg b ∨ (u.prog ≠ 0 ∧ watched = false ∧ room = true) then
            let t := t.onMe (fun g => g.setS d v)
            .done ((t.setCore s.here ((t.core s.here).unwatch (fun x => x = s.cur))).acquire s.cur sc)
          else if watched then .wait t w
          else .wait t { w with since := s.cycle, poll := if u.prog = 0 then u.poll else nextPoll u.poll }

def execWaitx (d a b : SReg) (s : State) : Out := issue (.waitx d a b) (runWaitx d a b) s

end Sys2Proof.Machine
end

