-- ==== Sys2Proof/Machine/Binary8.lean ====
section
/-! DEFINITION. The binary8 family (R217 to R220), conversion to it (R227) and block scales. -/

namespace Sys2Proof.Machine
open Sys2Proof

/-- The format of a code 0b01 s i b ppp with b = 0 and ppp ≠ 0 (R7). -/
def b8Of (code : Nat) : Option B8Fmt :=
  if code / 64 % 4 = 1 ∧ code / 8 % 2 = 0 ∧ code % 8 ≠ 0 ∧ code < 256 then
    some ⟨code / 32 % 2 = 1, code / 16 % 2 = 1, code % 8⟩
  else none

/-- The format and whether its storage is block-scaled (R7). -/
def b8Block (code : Nat) : Option (B8Fmt × Bool) :=
  if code / 64 % 4 = 1 ∧ code % 8 ≠ 0 ∧ code < 256 then
    some (⟨code / 32 % 2 = 1, code / 16 % 2 = 1, code % 8⟩, code / 8 % 2 = 1)
  else none

def B8Fmt.bias (f : B8Fmt) : Int := if f.signed then 2 ^ (7 - f.prec) else 2 ^ (8 - f.prec)
def B8Fmt.emin (f : B8Fmt) : Int := 1 - f.bias
def B8Fmt.nanCode (f : B8Fmt) : Nat := if f.signed then 0x80 else 0xFF
/-- The largest finite magnitude F (R217). -/
def B8Fmt.maxCode (f : B8Fmt) : Nat := (if f.signed then 0x7F else 0xFE) - (if f.infs then 1 else 0)
def B8Fmt.infCode (f : B8Fmt) : Nat := f.maxCode + 1
def B8Fmt.withSign (f : B8Fmt) (neg : Bool) (mag : Nat) : Nat := if neg && f.signed then 0x80 + mag else mag

/-- The number of a binary8 code (R217). A NaN of the family is quiet. -/
def B8Fmt.toNum (f : B8Fmt) (b : Nat) : Num :=
  if b = f.nanCode then .nan false else
  let neg := f.signed && b / 128 % 2 = 1
  let mag := if f.signed then b % 128 else b % 256
  if f.infs && mag = f.infCode then .inf neg else
  let t := f.prec - 1
  let e := mag / 2 ^ t
  let fr := mag % 2 ^ t
  if e = 0 then .fin neg fr (1 - f.bias - t) else .fin neg (2 ^ t + fr) ((e : Int) - f.bias - t)

/-- Conversion to binary8 by the rows of R227, in its order; `ovf` is the overflow mode. UF is set for a tiny inexact result
as R224 has it (DEDUCED, unsafe: assumption log, 17). -/
def B8Fmt.ofNum (f : B8Fmt) (rm : RMode) (ovf : Bool) : Num → Nat × Flags
  | .nan sig => (f.nanCode, { iv := sig })
  | .inf neg =>
    if neg && !f.signed then (0, { iv := true })
    else if f.infs then (f.withSign neg f.infCode, {})
    else if ovf then (f.nanCode, {}) else (f.withSign neg f.maxCode, {})
  | .fin neg m e =>
    if m = 0 then (0, {})
    else if neg && !f.signed then (0, { iv := true })
    else
      let r := roundGrid f.prec f.emin f.maxCode rm neg ⟨m, e, false⟩
      if r.overflow then
        let fl : Flags := { ovf := true, nx := true }
        if !ovf then (f.withSign neg f.maxCode, fl)
        else if f.infs then (f.withSign neg f.infCode, fl) else (f.nanCode, fl)
      else if r.code = 0 then (0, { uf := true, nx := true })
      else (f.withSign neg r.code, { uf := r.tiny && r.inexact, nx := r.inexact })

/-- What a block-scale byte stands for: the exponent of 2^(b − 127), or none for the NaN byte 0xFF (R220). -/
def scaleExp (b : Nat) : Option Int := if b = 0xFF then none else some ((b : Int) - 127)

end Sys2Proof.Machine
end

