-- ==== Sys2Proof/Machine/GlobalMem.lean ====
section
/-! DEFINITION. LDG, STG, SLD and SST (R342 to R344, R370, R371, R375 to R377). -/

namespace Sys2Proof.Machine
open Sys2Proof

/-- LDG: `acq` is the scope of an acquire. -/
def runLdg (w : Width) (r : VReg) (b : SReg) (o : VReg) (sc : Bool) (acq : Option Nat) (u : Flight) (s : State) : Res :=
  if 10 ≤ acq.getD 0 then .trap s u.operand
  else
    let n := widthBytes w
    let ls := u.addresses s.me b o (scaleOf w sc)
    (s.gLoad u s.cur n (5 ≤ acq.getD 0) ls).then s u (s.globalSpans s.cur n false ls) (fun t vs =>
      .done ((t.onMe (fun g => g.loadRegs w r vs)).acquire s.cur (acq.getD 0)))

def execLdg (w : Width) (q : Bool) (r : VReg) (b : SReg) (o : VReg) (sc : Bool) (s : State) : Out :=
  issue (.ldg w q r b o sc) (runLdg w r b o sc none) s
def execLdgAcq (w : Width) (r : VReg) (b : SReg) (o : VReg) (sc : Bool) (s : State) : Out :=
  issue (.ldgAcq w r b o sc) (fun u => runLdg w r b o sc (some u.modScope) u) s
def execLdgTouch (b : SReg) (o : VReg) (sc : Bool) (s : State) : Out :=
  issue (.ldgTouch b o sc) (fun u s =>
    (s.gTouch u s.cur (u.addresses s.me b o 1)).then s u [] (fun t _ => .done t)) s

/-- STG: `rel` is the scope of a release. -/
def runStg (w : Width) (r : VReg) (b : SReg) (o : VReg) (sc : Bool) (rel : Option Nat) (u : Flight) (s : State) : Res :=
  if 10 ≤ rel.getD 0 then .trap s u.operand
  else
    let n := widthBytes w
    let ls := u.addresses s.me b o (scaleOf w sc)
    (s.gStore u s.cur n true rel ls (u.storeValues s.me w r)).then s u (s.globalSpans s.cur n true ls) (fun t _ => .done t)

def execStg (w : Width) (q : Bool) (r : VReg) (b : SReg) (o : VReg) (sc : Bool) (s : State) : Out :=
  issue (.stg w q r b o sc) (runStg w r b o sc none) s
def execStgRel (w : Width) (r : VReg) (b : SReg) (o : VReg) (sc : Bool) (s : State) : Out :=
  issue (.stgRel w r b o sc) (fun u => runStg w r b o sc (some u.modScope) u) s

/-- The one (lane, address) of an SMEM access (R371). -/
def Flight.smem (u : Flight) (g : Group) (a : SReg) (imm : BitVec 12) : List (Nat × Nat) :=
  [(0, (g.sreg a + u.simm imm).toNat)]

def runSld (d a : SReg) (imm : BitVec 12) (u : Flight) (s : State) : Res :=
  let ls := u.smem s.me a imm
  (s.gLoad u s.cur 8 false ls).then s u (s.globalSpans s.cur 8 false ls) (fun t vs =>
    .done (t.onMe (fun g => g.setS d (BitVec.ofNat 64 (valueOf vs 0)))))
def execSld (d a : SReg) (imm : BitVec 12) (s : State) : Out := issue (.sld d a imm) (runSld d a imm) s

def runSst (d a : SReg) (imm : BitVec 12) (u : Flight) (s : State) : Res :=
  let ls := u.smem s.me a imm
  (s.gStore u s.cur 8 false none ls [(0, (s.me.sreg d).toNat)]).then s u (s.globalSpans s.cur 8 true ls)
    (fun t _ => .done t)
def execSst (d a : SReg) (imm : BitVec 12) (s : State) : Out := issue (.sst d a imm) (runSst d a imm) s

end Sys2Proof.Machine
end

