-- ==== Sys2Proof/Machine/LocalMem.lean ====
section
/-! DEFINITION. LDL, STL, SLD.l and SST.l (R106 to R109, R345, R346, R371, R378). -/

namespace Sys2Proof.Machine
open Sys2Proof

/-- What a local access that may not act yet makes of its unit. -/
def localWait (r : Got) (s : State) (u : Flight) (spans : List Span) : Res := r.then s u spans (fun t _ => .done t)

/-- LDL, plain, `.fe` or `.fec`: `i` is the instruction itself, and `change` what a change of granules' bits does. One that waits at
another instance's memory finds, at each test, whether that is still there, or a new instance's (R102, R106; DESIGN CHOICE, unsafe:
assumption log, 22). -/
def ldlStep (change : State → Bool → List Nat → State) (i : Instr) (w : Width) (r : VReg) (b : SReg) (o : VReg) (sc : Bool)
    (u : Flight) (s : State) : Res :=
  let n := widthBytes w
  let ls := u.addresses s.me b o (scaleOf w sc)
  let spans := s.localSpans s.cur n ls
  match s.localAccess u s.cur n false false ls with
  | .error e => localWait e s u spans
  | .ok (t, xs) =>
    let gs := granules xs
    if (feWants i).isSome ∧ (t.feAhead s.cur u gs ∨ !t.feTest i gs) then .wait t (u.waiting .fullEmpty spans)
    else
      let t' := t.onMe (fun g => g.loadRegs w r (xs.map (fun x => (x.lane, t.localValue n x))))
      match i with
      | .ldlFe _ _ _ _ _ => .done (t'.acquire s.cur (feScope xs))
      | .ldlFec _ _ _ _ _ => .done ((change t' false gs).acquire s.cur (feScope xs))
      | _ => .done t'

/-- STL, plain, `.full` or `.fw`: `rel` says that it releases and sets its granules full. -/
def stlStep (change : State → Bool → List Nat → State) (i : Instr) (rel : Bool) (w : Width) (r : VReg) (b : SReg) (o : VReg)
    (sc : Bool) (u : Flight) (s : State) : Res :=
  let n := widthBytes w
  let ls := u.addresses s.me b o (scaleOf w sc)
  let spans := s.localSpans s.cur n ls
  match s.localAccess u s.cur n false true ls with
  | .error e => localWait e s u spans
  | .ok (t, xs) =>
    let gs := granules xs
    let vs := u.storeValues s.me w r
    if (feWants i).isSome ∧ (t.feAhead s.cur u gs ∨ !t.feTest i gs) then .wait t (u.waiting .fullEmpty spans)
    else if rel then
      match t.release s.cur u (feScope xs) with
      | none => .wait t (u.waiting .older spans)
      | some t => .done (change (t.localStore n (valueOf vs) xs) true gs)
    else .done (t.localStore n (valueOf vs) xs)

/-! ## A granule changes state (R107) -/

/-- What a unit that waits on full-empty bits comes to. -/
def feStep (u : Flight) (s : State) : Option Res :=
  match u.instr with
  | .ldlFe w r b o sc => some (ldlStep State.setFull (.ldlFe w r b o sc) w r b o sc u s)
  | .ldlFec w r b o sc => some (ldlStep State.setFull (.ldlFec w r b o sc) w r b o sc u s)
  | .stlFw w r b o sc => some (stlStep State.setFull (.stlFw w r b o sc) true w r b o sc u s)
  | _ => none

/-- The units that wait on one of these granules, oldest first, but for the unit that changes them; of two that issued in one cycle
the lower core, and then the lower group slot, goes first (DESIGN CHOICE, unsafe: assumption log, 22). -/
def State.feQueue (s : State) (me : Option (Nat × Word64)) (gs : List Nat) : List (Nat × Nat × Flight) :=
  (s.feWaiters.filter (fun w => w.2.2.granules.any (fun g => gs.contains g) && some (w.2.1, w.2.2.first) ≠ me)).foldr
    (fun x l =>
      let before : Nat × Nat × Flight → Bool := fun y => y.1 < x.1 || (y.1 = x.1 && y.2.1 < x.2.1)
      l.takeWhile before ++ x :: l.dropWhile before) []

/-- Unit `u` of group `k` completes, if its test over these granules passes and nothing else holds it. -/
def State.fePass (s : State) (k : Nat) (u : Flight) : Option State :=
  if s.feReady k u then
    match feStep u { s with cur := k } with
    | some (.done t) => some { (t.onGrp k (fun g => g.settle u.first)).calm k with cur := s.cur }
    | _ => none
  else none

/-- The waiting units of changed granules are tested oldest first, and each that passes completes its step, and may change
granules, before the next is tested (R107). -/
def State.feWake (s : State) (me : Option (Nat × Word64)) (gs : List Nat) : Nat → State
  | 0 => s
  | n + 1 =>
    match (s.feQueue me gs).findSome? (fun w => (s.fePass w.2.1 w.2.2).map (fun t => (t, w.2.2.granules))) with
    | none => s
    | some (t, hs) => t.feWake me (unionOnce gs hs) n

/-- Granules become full or empty by the unit `me`, or by a landing, and their waiters are tested. -/
def State.turnFull (s : State) (me : Option (Nat × Word64)) (b : Bool) (gs : List Nat) : State :=
  (s.setFull b gs).feWake me gs s.feWaiters.length

def runLdl (i : Instr) (w : Width) (r : VReg) (b : SReg) (o : VReg) (sc : Bool) (u : Flight) (s : State) : Res :=
  ldlStep (fun t => t.turnFull (some (s.cur, u.first))) i w r b o sc u s

def execLdl (w : Width) (r : VReg) (b : SReg) (o : VReg) (sc : Bool) (s : State) : Out :=
  issue (.ldl w r b o sc) (runLdl (.ldl w r b o sc) w r b o sc) s
def execLdlFe (w : Width) (r : VReg) (b : SReg) (o : VReg) (sc : Bool) (s : State) : Out :=
  issue (.ldlFe w r b o sc) (runLdl (.ldlFe w r b o sc) w r b o sc) s
def execLdlFec (w : Width) (r : VReg) (b : SReg) (o : VReg) (sc : Bool) (s : State) : Out :=
  issue (.ldlFec w r b o sc) (runLdl (.ldlFec w r b o sc) w r b o sc) s

/-- The lanes of an `.fb` access: 512-byte blocks of SELF addresses (R109). -/
def State.fbLanes (s : State) (b : SReg) (o : VReg) (sc : Bool) (u : Flight) : Except Cause (List LLane) :=
  s.resolveLocal u s.cur 512 true false (u.addresses s.me b o (if sc then 4 else 1))

/-- LDL.fb: bit k of a lane is the bit of granule k of its block. -/
def execLdlFb (r : VReg) (b : SReg) (o : VReg) (sc : Bool) (s : State) : Out :=
  issue (.ldlFb r b o sc) (fun u s =>
    match s.fbLanes b o sc u with
    | .error c => .trap s c
    | .ok xs => .done (s.onMe (fun g => xs.foldl (fun g x =>
        g.setV r x.lane (BitVec.ofNat 32 (bitsOf (fun k => s.isFull (x.at_ / 16 + k)) 32))) g))) s

/-- LDL.touch: the address traps of a b8 access; every ARMED window over the bytes starts (R119). -/
def execLdlTouch (b : SReg) (o : VReg) (sc : Bool) (s : State) : Out :=
  issue (.ldlTouch b o sc) (fun u s =>
    match s.resolveLocal u s.cur 1 false false (u.addresses s.me b o 1) with
    | .error c => .trap s c
    | .ok xs => .done (s.touch (xs.map (fun x => localKey x.at_)))) s

def runStl (i : Instr) (rel : Bool) (w : Width) (r : VReg) (b : SReg) (o : VReg) (sc : Bool) (u : Flight) (s : State) : Res :=
  stlStep (fun t => t.turnFull (some (s.cur, u.first))) i rel w r b o sc u s

def execStl (w : Width) (r : VReg) (b : SReg) (o : VReg) (sc : Bool) (s : State) : Out :=
  issue (.stl w r b o sc) (runStl (.stl w r b o sc) false w r b o sc) s
def execStlFull (w : Width) (r : VReg) (b : SReg) (o : VReg) (sc : Bool) (s : State) : Out :=
  issue (.stlFull w r b o sc) (runStl (.stlFull w r b o sc) true w r b o sc) s
def execStlFw (w : Width) (r : VReg) (b : SReg) (o : VReg) (sc : Bool) (s : State) : Out :=
  issue (.stlFw w r b o sc) (runStl (.stlFw w r b o sc) true w r b o sc) s

/-- STL.fb writes the bits that LDL.fb reads. -/
def execStlFb (r : VReg) (b : SReg) (o : VReg) (sc : Bool) (s : State) : Out :=
  issue (.stlFb r b o sc) (fun u s =>
    match s.fbLanes b o sc u with
    | .error c => .trap s c
    | .ok xs =>
      let t := xs.foldl (fun t x => (List.range 32).foldl (fun t k =>
        t.setFull ((s.me.vreg r x.lane).getLsbD k) [x.at_ / 16 + k]) t) s
      .done (t.feWake none (xs.flatMap (fun x => (List.range 32).map (fun k => x.at_ / 16 + k))) s.feWaiters.length)) s

/-- SLD.l and SST.l (R371). -/
def runSldL (d a : SReg) (imm : BitVec 12) (u : Flight) (s : State) : Res :=
  let ls := u.smem s.me a imm
  match s.localAccess u s.cur 8 false false ls with
  | .error e => localWait e s u (s.localSpans s.cur 8 ls)
  | .ok (t, xs) =>
    .done (t.onMe (fun g => xs.foldl (fun g x => g.setS d (BitVec.ofNat 64 (t.localValue 8 x))) g))
def execSldL (d a : SReg) (imm : BitVec 12) (s : State) : Out := issue (.sldL d a imm) (runSldL d a imm) s

def runSstL (d a : SReg) (imm : BitVec 12) (u : Flight) (s : State) : Res :=
  let ls := u.smem s.me a imm
  match s.localAccess u s.cur 8 false true ls with
  | .error e => localWait e s u (s.localSpans s.cur 8 ls)
  | .ok (t, xs) => .done (t.localStore 8 (fun _ => (s.me.sreg d).toNat) xs)
def execSstL (d a : SReg) (imm : BitVec 12) (s : State) : Out := issue (.sstL d a imm) (runSstL d a imm) s

end Sys2Proof.Machine
end

