-- ==== Sys2Proof/Machine/Engine.lean ====
section
/-! DEFINITION. Sluice windows: the record and its checks (R114 to R117), binding and release (R121, R132, R133), the landing
of a granule (R118, R123 to R125, R127, R128), and the transaction barrier (R135, R136). -/

namespace Sys2Proof.Machine
open Sys2Proof

/-! ## The record -/

/-- The record in 64 bytes, given as a number (R114). -/
def winRec (v : Nat) : WinRec :=
  let s32 := fun i => (BitVec.ofNat 32 (fld v i 32)).toInt
  { src := fld v 0 64, dst := fld v 64 64,
    ext := [fld v 128 16, fld v 144 16, fld v 160 16, fld v 176 16],
    sstr := [s32 192, s32 224, s32 256, s32 288],
    dstr := [fld v 320 32, fld v 352 32, fld v 384 32],
    ctl := fld v 416 32, txb := fld v 448 32, start := fld v 480 32 }

/-- A floating selector. -/
def isFloatSel (x : Nat) : Bool := 4 ≤ x && x ≤ 8

/-- The pairing copies bit for bit (R117). -/
def copiesBits (a b : Nat) : Bool := a == b || ((a < 4 || b < 4) && elemSize a == elemSize b)

/-- The pairing is allowed (R117). -/
def pairs (a b : Nat) : Bool := copiesBits a b || ((isFloatSel a || a == 9) && isFloatSel b)

/-- A local SELF address of `n` bytes within the instance's local memory. -/
def Inst.holdsLocal (i : Inst) (a n : Nat) : Bool := a / 2 ^ 20 == 128 && a % 2 ^ 20 + n ≤ i.spad * 4096

/-- A field of the record is refused with 0x02, whatever the page tables say (R116). -/
def WinRec.bad (r : WinRec) (i : Inst) : Bool :=
  let se := elemSize r.sfmt
  r.ctl / 2 ^ 20 != 0 || 2 < r.dkind || 4 < r.red || 10 ≤ r.sfmt || 10 ≤ r.dfmt
    || r.ext.contains 0
    || r.dst % 16 != 0 || r.dstr.any (fun d => d % 16 != 0)
    || r.dstride 1 < r.span 0 || r.dstride 2 < r.span 1 || r.dstride 3 < r.span 2
    || r.src % se != 0 || r.sstr.any (fun d => d % (se : Int) != 0)
    || !pairs r.sfmt r.dfmt
    || (r.dkind == 0 && !i.holdsLocal r.dst r.total)
    || (r.dkind == 1 && 2 ^ 22 < r.dst + r.total)
    || (r.dkind == 2 && 2 ^ 26 < r.total)
    || (r.setfull && r.dkind != 0)
    || (r.red != 0 && (r.dkind == 1 || r.dfmt != [0, 4, 5, 4, 0].getD r.red 0))
    || (r.txbOn && !(r.txb % 16 == 0 && i.holdsLocal r.txb 16))
    || r.total < r.start * 16

/-- The first addresses of the 64 KB pages of a global destination. -/
def WinRec.pages (r : WinRec) : List Nat :=
  (List.range ((r.dst + r.total - 1) / 2 ^ 16 + 1 - r.dst / 2 ^ 16)).map (fun i => (r.dst / 2 ^ 16 + i) * 2 ^ 16)

/-- The traps that the pages of a global destination give, in the order of R237; TADDR is the lowest page that fails the
chosen check. -/
def State.windowPages (s : State) (core ctx : Nat) (word : Word64) (r : WinRec) : Option Cause :=
  match s.translateAll core ctx true (r.pages.map (fun a => (0, a))) with
  | .error c => some c
  | .ok xs =>
    match firstLane xs (fun x => !pteW x.at_.leaf) (fun x => ⟨6, BitVec.ofNat 64 x.va, pageInfo 0 x.at_.level 0 true false⟩) with
    | some c => some c
    | none =>
      match firstLane xs (fun x => x.at_.home ≠ s.device || x.at_.control || x.at_.reduce)
          (fun x => ⟨2, BitVec.ofNat 64 x.va, word⟩) with
      | some c => some c
      | none => firstLane xs (fun x => x.at_.deferred) (fun x => ⟨7, BitVec.ofNat 64 x.va, 0⟩)

/-- The cause that refuses a record read at address `a`; `word` is the instruction word, 0 at a placement (R116). -/
def State.recordCause (s : State) (core : Nat) (i : Inst) (a : Nat) (word : Word64) (r : WinRec) : Option Cause :=
  if r.bad i then some ⟨2, BitVec.ofNat 64 a, word⟩
  else if r.dkind = 2 then s.windowPages core i.ctx word r else none

/-- The record names the B-store on a core that has none (R11, R392). -/
def WinRec.noBstore (r : WinRec) (core : Nat) : Bool := isSteward core && r.dkind = 1

/-! ## Engines, lines and bindings -/

/-- A window that holds an engine (R110). -/
def WState.holdsEngine : WState → Bool
  | .armed | .landing | .frozen => true
  | .empty | .stranded | .landed => false

/-- Engines of a core that are taken: by windows, and by WSETs that wait for their lines. -/
def State.enginesUsed (s : State) (core : Nat) : Nat :=
  (s.insts.flatMap (fun x => if x.1 / 16 = core ∧ x.2.live then x.2.wins.filter (fun w => w.2.state.holdsEngine) else [])).length
    + ((s.coreGroups core).flatMap (fun x => x.2.flight.filter (fun u => !u.done && u.wait = .lines))).length

/-- The keys of a global destination's lines, in order. -/
def State.windowLines (s : State) (core ctx : Nat) (r : WinRec) : List Nat :=
  (List.range ((r.dst + r.total - 1) / 128 + 1 - r.dst / 128)).map (fun i =>
    match s.translate core ctx ((r.dst / 128 + i) * 128) 0 true false with
    | .ok p => p.key / 128
    | .error _ => 2 ^ 80 + i)

/-- A line of these is held for a window of another core, or a pin refuses its taking (R121, R175). -/
def State.linesHeld (s : State) (r : Req) (core : Nat) (lines : List Nat) : Bool :=
  lines.any (s.lineShut r)
    || s.insts.any (fun x => x.2.live && x.1 / 16 ≠ core && x.2.wins.any (fun w => w.2.lines.any (fun l => lines.contains l)))

/-- Every L1 of the module drops these lines. -/
def State.dropLines (s : State) (lines : List Nat) : State :=
  if lines = [] then s
  else { s with cores := mapVals s.cores (fun _ c => { c with l1 := delWhere c.l1 (fun k => lines.contains (k / 8)) }) }

/-- The window as release leaves it: EMPTY, its mark kept (R133). -/
def Window.release (w : Window) : Window := { w with state := .empty, lines := [], freeze := none }

/-- Binds window `n` of the instance of key `ik`, for a WSET issued in cycle `issued` by the group in slot `slot` (R132). -/
def State.bindWindow (s : State) (ik n : Nat) (r : WinRec) (raddr : Nat) (rg : Bool) (lines : List Nat) (issued slot : Nat) :
    State :=
  let whole : Bool := r.start * 16 = r.total
  let w : Window :=
    { state := if whole then .landed else .armed, raddr := BitVec.ofNat 64 raddr, rg := rg, mark := r.start * 16,
      total := r.total, rcd := r, freeze := none, strand := 0, bound := s.cycle, issued := issued, slot := slot,
      order := s.nextWin, lines := if whole then [] else lines }
  { s.dropLines lines with nextWin := s.nextWin + 1 }.onWin ik n (fun _ => w)

/-! ## The transaction barrier -/

/-- A barrier with one change made, and its phase closed if that is due (R136): phase, initial count, arrivals, sectors. -/
def barrierWord (phase init arrv sect : Nat) : Nat :=
  if arrv = 0 ∧ sect % 2 ^ 32 = 0 then (phase + 1) % 16 + init * 2 ^ 16 + init * 2 ^ 32
  else phase % 16 + init * 2 ^ 16 + arrv * 2 ^ 32 + sect % 2 ^ 32 * 2 ^ 64

def barPhase (v : Nat) : Nat := fld v 0 4
def barInit (v : Nat) : Nat := fld v 16 16
def barArrv (v : Nat) : Nat := fld v 32 32
def barSect (v : Nat) : Nat := fld v 64 32
def barBad (v : Nat) : Bool := fld v 4 12 != 0 || fld v 96 32 != 0

/-- TXWAITs that wait on the barrier at a place and find its phase another leave (R381). -/
def State.wakeTx (s : State) (at_ : Nat) : State :=
  let phase := barPhase (rdLE s.lm at_ 16)
  s.groups.foldl (fun t x =>
    match x.2.flight.find? (fun u => !u.done && u.wait = .tx && u.spans.any (fun a => a.key = localKey at_)) with
    | none => t
    | some u =>
      match u.instr with
      | .txwait _ b =>
        if (x.2.sreg b).toNat % 16 = phase then t else (t.onGrp x.1 (fun g => g.settle u.first)).calm x.1
      | _ => t) s

/-- Writes a barrier, as every step on it does. -/
def State.setBarrier (s : State) (at_ v : Nat) : State :=
  ({ s with lm := wrLE s.lm at_ 16 v }.healSram [(localKey at_, 16)]).wakeTx at_

/-- The reserved bits of a barrier, in place: landings do not change them (R135). -/
def barRest (v : Nat) : Nat := fld v 4 12 * 2 ^ 4 + fld v 96 32 * 2 ^ 96

/-- A landing subtracts 1 from the pending sectors (R124); it does so whatever the reserved bits hold (DESIGN CHOICE, unsafe:
assumption log, 29). -/
def State.landSector (s : State) (at_ : Nat) : State :=
  let v := rdLE s.lm at_ 16
  s.setBarrier at_ (barrierWord (barPhase v) (barInit v) (barArrv v) (barSect v + 2 ^ 32 - 1) + barRest v)

/-! ## Elements -/

/-- The element whose first byte lies at offset `b` of the destination: its source address (R118). -/
def WinRec.element (r : WinRec) (b : Nat) : Option Nat :=
  let x3 := b / r.dstride 3
  let b2 := b % r.dstride 3
  let x2 := b2 / r.dstride 2
  let b1 := b2 % r.dstride 2
  let x1 := b1 / r.dstride 1
  let b0 := b1 % r.dstride 1
  let x0 := b0 / elemSize r.dfmt
  if x3 < r.extent 3 ∧ x2 < r.extent 2 ∧ x1 < r.extent 1 ∧ x0 < r.extent 0 then
    let off : Int := x0 * r.sstr.getD 0 0 + x1 * r.sstr.getD 1 0 + x2 * r.sstr.getD 2 0 + x3 * r.sstr.getD 3 0
    some ((BitVec.ofInt 64 (r.src + off)).toNat)
  else none

/-- The elements of granule `k`: destination offset and source address. -/
def WinRec.elements (r : WinRec) (k : Nat) : List (Nat × Nat) :=
  let e := elemSize r.dfmt
  (List.range (16 / e)).filterMap (fun j => (r.element (16 * k + e * j)).map (fun a => (16 * k + e * j, a)))

/-- The number that an element of a floating or i8 selector stands for. -/
def elemNum (sel v : Nat) : Num :=
  match sel with
  | 4 => f32.toNum v
  | 5 => bf16.toNum v
  | 6 => f16.toNum v
  | 7 => (⟨true, false, 4⟩ : B8Fmt).toNum v
  | 8 => (⟨true, false, 3⟩ : B8Fmt).toNum v
  | _ =>
    let x := (BitVec.ofNat 8 v).toInt
    .fin (x < 0) x.natAbs 0

/-- A number in a wide floating format, rounded to nearest even, a finite one saturating (R117). -/
def satFloat (f : FFmt) (x : Num) : Nat :=
  let v := (f.ofNum .rne x).1
  match x with
  | .fin neg _ _ => if v % f.signBit = f.infCode then f.signed neg f.maxCode else v
  | .nan _ => f.nanCode
  | .inf neg => f.signed neg f.infCode

/-- An element converted (R117). -/
def elemConvert (a b v : Nat) : Nat :=
  if copiesBits a b then v
  else
    match b with
    | 4 => satFloat f32 (elemNum a v)
    | 5 => satFloat bf16 (elemNum a v)
    | 6 => satFloat f16 (elemNum a v)
    | 7 => ((⟨true, false, 4⟩ : B8Fmt).ofNum .rne false (elemNum a v)).1
    | _ => ((⟨true, false, 3⟩ : B8Fmt).ofNum .rne false (elemNum a v)).1

/-- The combination of a reducing window (R123). -/
def elemCombine (red old new : Nat) : Nat :=
  match red with
  | 1 => (f32.add .rne old new).1
  | 2 => (bf16.add .rne old new).1
  | 3 => f32max old new
  | 4 => (old + new) % 2 ^ 32
  | _ => new

/-! ## Landing -/

/-- The key of a byte of the destination. -/
def Window.keyOf (w : Window) (core : Nat) (i : Inst) (off : Nat) : Nat :=
  match w.rcd.dkind with
  | 0 => localKey (i.localStart core + w.rcd.dst % 2 ^ 20 + off)
  | 1 => bstoreKey (core * 2 ^ 22 + w.rcd.dst + off)
  | _ =>
    let a := w.rcd.dst + off
    w.lines.getD (a / 128 - w.rcd.dst / 128) 0 * 128 + a % 128

/-- Reads and writes of a destination by the key of its first byte. -/
def State.readKey (s : State) (key n : Nat) : Nat :=
  if bstoreBase ≤ key then rdLE s.bstore (key - bstoreBase) n
  else if localBase ≤ key then rdLE s.lm (key - localBase) n else rdLE s.mem key n
def State.writeKey (s : State) (key n v : Nat) : State :=
  if bstoreBase ≤ key then { s with bstore := wrLE s.bstore (key - bstoreBase) n v }
  else if localBase ≤ key then { s with lm := wrLE s.lm (key - localBase) n v } else { s with mem := wrLE s.mem key n v }

/-- An earlier window of the core over granule `k` of window `w`. -/
def State.earlier (s : State) (core : Nat) (i : Inst) (w : Window) (k : Nat) : List Cover :=
  (s.covers (w.keyOf core i (16 * k))).filter (fun c => c.inst / 16 = core && c.w.before w && c.w.state.holdsEngine)

/-- An earlier window has not passed every granule that it shares with this one (R125). -/
def State.heldByEarlier (s : State) (core : Nat) (i : Inst) (w : Window) (k : Nat) : Bool :=
  (s.earlier core i w k).any (fun c =>
    (List.range (w.total / 16)).any (fun j =>
      match c.w.offsetOf core (s.inst c.inst) (w.keyOf core i (16 * j)) with
      | some o => c.w.mark ≤ o
      | none => false))

/-- The policy of a context is TRAP (R246). -/
def State.trapPolicy (s : State) (ctx : Nat) : Bool :=
  match (find? s.ctxs ctx).bind Ctx.mode with
  | some (_, pol) => pol
  | none => false

/-- A window that has reached its freeze point: FROZEN, and under TRAP STRANDED at once (R128, R129). -/
def Window.frozen (w : Window) (trap : Bool) (code : Nat) : Window :=
  if trap then { w with state := .stranded, strand := code } else { w with state := .frozen, strand := code }

/-- Source reads of a granule: the first fault, else whether some read has to wait, else the places. -/
def State.sources (s : State) (core ctx : Nat) (xs : List (Nat × Nat)) : Except Cause (List GLane) :=
  match s.translateAll core ctx false (xs.map (fun x => (0, x.2))) with
  | .error c => .error c
  | .ok ps =>
    match firstLane ps (fun p => s.unreachable p.at_) unreachableCause with
    | some c => .error c
    | none =>
      match firstLane ps (fun p => s.bad.contains (p.at_.key / 64)) (fun p => ⟨9, BitVec.ofNat 64 p.va, 4⟩) with
      | some c => .error c
      | none => .ok ps

/-- What the engine reads of `n` bytes at a source (R127): in the control range a register, as a load does (R256); where no
register takes the read, a free value (DESIGN CHOICE, safe: assumption log, 36). -/
def State.sourceValue (s : State) (n : Nat) (x : GLane) : Nat :=
  if x.ctlBadRead n then Config.openSource x.va s.free % 2 ^ (8 * n)
  else if x.at_.control then s.ctlRead x.at_ else s.homeBytes x.at_.key n

/-- A source read has to wait: at the home, at the mark of another window, at a register, or at a page walk (R121, R181, R258).
The bytes of a STRANDED window are read as they stand (DESIGN CHOICE, unsafe: assumption log, 37). -/
def State.sourceWaits (s : State) (r : Req) (n : Nat) (ps : List GLane) : Bool :=
  ps.any (fun p => s.homeHolds r p.at_ || s.wordHeld noGroup 0 p.at_.key n || (s.markWait [p.at_.key]).isSome || p.ctlReadWaits s)

/-- The granule of a global destination lies in a pseudo-channel in training, or in a sector with stores that reached the home
before the window held it (R258, R174). -/
def State.destWaits (s : State) (key : Nat) : Bool :=
  key < localBase && (s.keyHeld key || s.held.any (fun h => h.key / 16 = key / 16))

/-- A granule of the destination holds an uncorrectable word, which a reducing window would read (R123, R128). -/
def State.destBad (s : State) (key : Nat) : Bool := if key < localBase then s.bad.contains (key / 64) else s.badSram key 16

/-- The elements of a granule are written: `es` with their offsets, `ps` with their sources (R118, R123). -/
def State.landBytes (s : State) (core : Nat) (i : Inst) (w : Window) (es : List (Nat × Nat)) (ps : List GLane) : State :=
  let e := elemSize w.rcd.dfmt
  (es.zip ps).foldl (fun t x =>
    let v := elemConvert w.rcd.sfmt w.rcd.dfmt (s.sourceValue (elemSize w.rcd.sfmt) x.2)
    let key := w.keyOf core i x.1.1
    t.writeKey key e (elemCombine w.rcd.red (t.readKey key e) v))
    (if ps.any (fun p => p.ctlBadRead (elemSize w.rcd.sfmt)) then { s with free := s.free + 1 } else s)

/-- The window of a landing that meets cause `c` freezes at its mark, and the service learns of it (R128, R239). -/
def State.freezeAt (s : State) (ik n : Nat) (c : Cause) : State :=
  let i := s.inst ik
  let graph := ((find? s.sets i.set).map TaskSet.graph).getD 0
  (s.noteCause (ik / 16) i.ctx graph c).onWin ik n (fun w =>
    { w with freeze := some (w.mark, c) }.frozen (s.trapPolicy i.ctx) c.code)

/-- A window's next granule lands, or the window faults, waits or freezes (R118, R123 to R125, R128). Its reads of remote sources wait
for credit and go out on the planes of their lines (R264, R266). A granule without an
element passes. The waiters on a granule that becomes full are tested after the mark has passed it (R107, R120, R124). -/
def State.landGranule (s : State) (ik n : Nat) : State :=
  let core := ik / 16
  let i := s.inst ik
  let w := look {} i.wins n
  let k := w.mark / 16
  if !(i.live && w.state = .landing) then s
  else if w.total ≤ w.mark then s.onWin ik n (fun w => { w with state := .landed, lines := [] })
  else
    match w.freeze.filter (fun f => f.1 ≤ w.mark) with
    | some f => s.onWin ik n (fun w => w.frozen (s.trapPolicy i.ctx) f.2.code)
    | none =>
      let s := (s.earlier core i w k).foldl (fun t c => t.onWin c.inst c.win Window.start) s
      if s.heldByEarlier core i w k then s
      else
        let es := w.rcd.elements k
        match s.sources core i.ctx es with
        | .error c =>
          if c.code = 0 then s else s.freezeAt ik n c
        | .ok ps =>
          let key := w.keyOf core i w.mark
          let s := s.touch (ps.map (fun p => p.at_.key))
          let s := s.noteRefusals (.engine ik n) ps
          if s.sourceWaits (.engine ik n) (elemSize w.rcd.sfmt) ps ∨ (es ≠ [] ∧ s.destWaits key = true) then s
          else if es ≠ [] ∧ w.rcd.red ≠ 0 ∧ s.destBad key = true then
            s.freezeAt ik n ⟨9, BitVec.ofNat 64 (w.rcd.dst + w.mark), if w.rcd.dkind = 2 then 4 else 0⟩
          else
            match s.readPlanes ps with
            | none => s
            | some far =>
              let t := (s.sendReads far).landBytes core i w es ps
              let t := if es.length * elemSize w.rcd.dfmt = 16 then t.healSram [(key, 16)] else t
              let t := t.setCore core { t.core core with served := ik % 16 * 16 + n }
              let t := t.onWin ik n (fun w => { w with mark := w.mark + 16 })
              let t := if w.mark + 16 = w.total then t.onWin ik n (fun w => { w with state := .landed, lines := [] }) else t
              let t := if w.rcd.setfull ∧ es ≠ [] then t.turnFull none true [(key - localBase) / 16] else t
              if w.rcd.txbOn ∧ es ≠ [] then t.landSector (i.localStart core + w.rcd.txb % 2 ^ 20) else t

/-- GRANULE_LANDING (R118). -/
def execGranuleLanding (core slot w : Nat) (s : State) : Out := .next (s.landGranule (core * 16 + slot) w)

/-- The cause that reading the source of granule `k` meets: a fault that is found there, or one of the data, and of the fabric where
a source lies on another module, which come from outside (R128). A granule without an element reads no source (R118). -/
def State.sourceCause (s : State) (ik : Nat) (w : Window) (k cause : Nat) : Option Cause :=
  match s.sources (ik / 16) (s.inst ik).ctx (w.rcd.elements k) with
  | .error c => if c.code = cause ∧ c.code ≠ 0 then some c else none
  | .ok ps =>
    if cause = 9 then ps.head?.map (fun x => ⟨9, BitVec.ofNat 64 x.va, 4⟩)
    else if cause = 10 then firstLane ps (fun x => x.at_.home ≠ s.device) unreachableCause
    else none

/-- SOURCE_FAULT: the freeze point is set, or lowered (R128). -/
def execSourceFault (core slot w k cause : Nat) (s : State) : Out :=
  let ik := core * 16 + slot
  let x := look {} (s.inst ik).wins w
  match (if (s.inst ik).live ∧ x.state = .landing ∧ x.mark ≤ 16 * k ∧ 16 * k < x.total
    then s.sourceCause ik x k cause else none) with
  | none => .next s
  | some c =>
    let p := match x.freeze with
      | some (p, c') => if p ≤ 16 * k then (p, c') else (16 * k, c)
      | none => (16 * k, c)
    let graph := ((find? s.sets (s.inst ik).set).map TaskSet.graph).getD 0
    let t := (s.noteCause core (s.inst ik).ctx graph c).onWin ik w (fun x => { x with freeze := some p })
    .next (if p.1 = x.mark then t.onWin ik w (fun x => x.frozen (s.trapPolicy (s.inst ik).ctx) p.2.code) else t)

end Sys2Proof.Machine
end

