-- ==== Sys2Proof/Machine/Windows.lean ====
section
/-! DEFINITION. The window and barrier instructions (R131 to R137, R380, R381, R392 to R394). -/

namespace Sys2Proof.Machine
open Sys2Proof

/-- An in-flight matrix instruction of the core reads one of these bytes (R132). -/
def State.matrixReads (s : State) (core : Nat) (a : Span) : Bool :=
  (s.coreGroups core).any (fun x => x.2.flight.any (fun u => !u.done && (match u.instr with
      | .mma _ _ _ _ _ _ => true
      | .mmas _ _ _ _ _ _ => true
      | _ => false) && u.spans.any (fun b => b.overlaps a)))

/-- Window `n` is bound and a matrix instruction still reads its destination. -/
def State.windowInUse (s : State) (ik n : Nat) : Bool :=
  let w := look {} (s.inst ik).wins n
  w.state ≠ .empty && s.matrixReads (ik / 16) ⟨w.keyOf (ik / 16) (s.inst ik) 0, w.total⟩

/-- The bytes of a record at a global address, as a number. -/
def sixteens (a n : Nat) : List (Nat × Nat) := (List.range n).map (fun i => (0, a + 16 * i))
def joined (vs : List (Nat × Nat)) : Nat := vs.foldr (fun x v => x.2 + 2 ^ 128 * v) 0

/-- Puts a WSET of group `k`, issued in cycle `since`, in its place among those that wait for an engine (R110). -/
def State.enqueueEngine (s : State) (k since : Nat) : State :=
  let c := s.core (coreOf k)
  let age : Nat → Nat := fun x =>
    (((s.grp x).flight.filter (fun u => !u.done && u.wait = .engine)).map Flight.since).foldl min (s.cycle + 1)
  let before : Nat → Bool := fun x => age x < since || (age x = since && x ≤ k)
  s.setCore (coreOf k) { c with engineQueue := c.engineQueue.takeWhile before ++ k :: c.engineQueue.dropWhile before }

/-- An engine is free for this unit: it is its turn, and no older WSET of its group waits for one. -/
def State.engineFor (s : State) (k : Nat) (u : Flight) : Bool :=
  let c := s.core (coreOf k)
  s.enginesUsed (coreOf k) < Config.engines && (c.engineQueue = [] || c.engineQueue.head? = some k)
    && !((s.grp k).older u).any (fun o => !o.done && o.wait = .engine)

/-- The last part of WSET: the engine and, for a global destination, the lines. -/
def State.takeEngine (s : State) (w : WReg) (raddr : Nat) (g : Bool) (u : Flight) : Res :=
  let k := s.cur
  let ik := s.myInstKey
  let core := s.here
  let r := u.rcd.getD {}
  let issued := if s.me.flight.any (fun x => x.first = u.first) then u.since else s.cycle
  let mine : Bool := (s.me.flight.any (fun x => x.first = u.first && x.wait = .engine))
  if u.prog < 2 ∧ s.engineFor k u = false then
    let t := if mine then s else s.enqueueEngine k issued
    .wait t { u.waiting .engine [] with prog := 1 }
  else
    match (if r.dkind = 2 then s.windowPages core s.myInst.ctx u.word r else none) with
    | some c => .trap s c
    | none =>
      let c := s.core core
      let s := if mine then s.setCore core { c with engineQueue := c.engineQueue.erase k } else s
      let lines := if r.dkind = 2 then s.windowLines core s.myInst.ctx r else []
      let s := s.noteLines (.unit k u.first) lines
      if s.linesHeld (.unit k u.first) core lines then .wait s { u.waiting .lines [] with prog := 2 }
      else .done (s.bindWindow ik w r raddr g lines issued (k % 64))

/-- A WWAIT on window `n` that waits in an instance. -/
def Flight.awaits (u : Flight) (n : Nat) : Bool :=
  !u.done && (match u.instr with
    | .wwait w => w.val = n
    | .wwaitMark w _ => w.val = n
    | _ => false)

/-- WDROP and WSET release a window: every WWAIT that waits on it completes, as on an EMPTY window, before it is bound again (R132 to
R134, R394). -/
def State.releaseWindow (s : State) (ik n : Nat) : State :=
  s.groups.foldl (fun t x =>
    if x.2.live ∧ instKey x.1 x.2 = ik then
      (x.2.flight.filter (fun u => u.awaits n)).foldl (fun t u => (t.onGrp x.1 (fun g => g.settle u.first)).calm x.1) t
    else t) (s.onWin ik n Window.release)

/-- WSET from its record on, which it has read and checked once (R132, R393). -/
def wsetBind (w : WReg) (raddr : Nat) (g : Bool) (u : Flight) (s : State) : Res :=
  match s.release s.cur u 6 with
  | none => .wait s (u.waiting .older [])
  | some t =>
    if t.windowInUse s.myInstKey w then .wait t (u.waiting .older [])
    else (t.releaseWindow s.myInstKey w).takeEngine w raddr g u

/-- WSET as its record has been read (R132, R393). -/
def wsetRecord (w : WReg) (raddr : Nat) (g : Bool) (v : Nat) (u : Flight) (s : State) : Res :=
  let r := winRec v
  if r.noBstore s.here then .trap s (illegal u.pc (BitVec.ofNat 32 (u.instr.code.getD 0)))
  else
    match s.recordCause s.here s.myInst raddr u.word r with
    | some c => .trap s c
    | none => wsetBind w raddr g { u with rcd := some r } s

/-- WSET; `g` reads the record from global memory. One that waits after its record has been read keeps it (R132, R393). -/
def runWset (g : Bool) (w : WReg) (a : SReg) (u : Flight) (s : State) : Res :=
  let addr := (s.me.sreg a).toNat
  if u.prog ≠ 0 then s.takeEngine w addr g u
  else if u.rcd.isSome then wsetBind w addr g u s
  else if g then
    if addr % 64 ≠ 0 then .trap s (misaligned addr 0)
    else
      (s.gLoad u s.cur 16 false (sixteens addr 4)).then s u (s.globalSpans s.cur 16 false (sixteens addr 4))
        (fun t vs => wsetRecord w addr g (joined vs) u t)
  else
    match s.localAccess u s.cur 64 true false [(0, addr)] with
    | .error e => e.then s u (s.localSpans s.cur 64 [(0, addr)]) (fun t _ => .done t)
    | .ok (t, xs) => wsetRecord w addr g (((xs.head?).map (t.localValue 64)).getD 0) u t

def execWset (w : WReg) (a : SReg) (s : State) : Out := issue (.wset w a) (runWset false w a) s
def execWsetG (w : WReg) (a : SReg) (s : State) : Out := issue (.wsetG w a) (runWset true w a) s

/-- WDROP (R133). -/
def runWdrop (w : WReg) (u : Flight) (s : State) : Res :=
  if (look {} s.myInst.wins w).state = .empty then .done s
  else if s.windowInUse s.myInstKey w then .wait s (u.waiting .older [])
  else .done (s.releaseWindow s.myInstKey w)
def execWdrop (w : WReg) (s : State) : Out := issue (.wdrop w) (runWdrop w) s

/-- WSTAT and WMARK (R394). -/
def execWstat (w : WReg) (d : SReg) (s : State) : Out :=
  issue (.wstat w d) (fun _ s => .done (s.onMe (fun g => g.setS d (s.special s.cur (0x50 + w.val))))) s
def execWmark (w : WReg) (d : SReg) (s : State) : Out :=
  issue (.wmark w d) (fun _ s => .done (s.onMe (fun g => g.setS d (s.special s.cur (0x40 + w.val))))) s

/-- WWAIT: `off` names the mark to wait for (R134, R394). One that names a mark above the last TOTAL of an EMPTY window completes
(DESIGN CHOICE, unsafe: assumption log, 47). -/
def runWwait (w : WReg) (off : Option SReg) (u : Flight) (s : State) : Res :=
  let x := look {} s.myInst.wins w
  let target := match off with
    | some a => (s.me.sreg a).toNat
    | none => x.total
  if x.state ≠ .empty ∧ x.total < target then .trap s u.operand
  else
    let s := if x.state = .armed then s.onWin s.myInstKey w Window.start else s
    match x.state with
    | .empty | .landed => .done (s.acquire s.cur 4)
    | .stranded => if x.mark < target then .trap s (strandedCause 0 ⟨s.myInstKey, w, x, 0⟩) else .done (s.acquire s.cur 4)
    | .armed | .landing | .frozen =>
      if off.isSome ∧ target ≤ x.mark then .done (s.acquire s.cur 4)
      else .wait s (u.waiting (.mark (x.state = .frozen)) [])
def execWwait (w : WReg) (s : State) : Out := issue (.wwait w) (runWwait w none) s
def execWwaitMark (w : WReg) (a : SReg) (s : State) : Out := issue (.wwaitMark w a) (runWwait w (some a)) s

/-! ## The transaction barrier -/

/-- The checks and waits that every TX instruction makes on its barrier, whose 16 bytes are a SELF address of the instance's
local memory (R136, R381), and then `f` on its place and value. -/
def onBarrier (a : SReg) (u : Flight) (s : State) (f : State → Nat → Nat → Res) : Res :=
  let ls := [(0, (s.me.sreg a).toNat)]
  if !s.myInst.holdsLocal (s.me.sreg a).toNat 16 then .trap s (u.operand (s.me.sreg a))
  else
  match s.localAccess u s.cur 16 true true ls with
  | .error e => e.then s u (s.localSpans s.cur 16 ls) (fun t _ => .done t)
  | .ok (t, xs) =>
    let at_ := (xs.head?.map LLane.at_).getD 0
    f t at_ (rdLE t.lm at_ 16)

/-- TXINIT: it writes the whole barrier and reads none of it (R381; DEDUCED, unsafe: assumption log, 28). -/
def runTxinit (a b : SReg) (u : Flight) (s : State) : Res :=
  let n := (s.me.sreg b).toNat
  if n = 0 ∨ 2 ^ 16 ≤ n then .trap s u.operand
  else onBarrier a u s (fun t at_ _ => .done (t.setBarrier at_ (n * 2 ^ 16 + n * 2 ^ 32)))
def execTxinit (a b : SReg) (s : State) : Out := issue (.txinit a b) (runTxinit a b) s

/-- TXARRIVE. -/
def runTxarrive (a : SReg) (u : Flight) (s : State) : Res :=
  onBarrier a u s (fun t at_ v =>
    if barBad v ∨ barArrv v = 0 then .trap s (u.operand (s.me.sreg a))
    else
      match t.release s.cur u 4 with
      | none => .wait t (u.waiting .older [⟨localKey at_, 16⟩])
      | some t => .done (t.setBarrier at_ (barrierWord (barPhase v) (barInit v) (barArrv v - 1) (barSect v))))
def execTxarrive (a : SReg) (s : State) : Out := issue (.txarrive a) (runTxarrive a) s

/-- TXEXPECT. -/
def runTxexpect (a b : SReg) (u : Flight) (s : State) : Res :=
  let n := (s.me.sreg b).toNat
  if n = 0 ∨ 2 ^ 31 ≤ n then .trap s u.operand
  else onBarrier a u s (fun t at_ v =>
    if barBad v then .trap s (u.operand (s.me.sreg a))
    else
      match t.release s.cur u 4 with
      | none => .wait t (u.waiting .older [⟨localKey at_, 16⟩])
      | some t => .done (t.setBarrier at_ (barrierWord (barPhase v) (barInit v) (barArrv v) (barSect v + n))))
def execTxexpect (a b : SReg) (s : State) : Out := issue (.txexpect a b) (runTxexpect a b) s

/-- TXWAIT: a unit that waits already leaves only through a step on its barrier (R381). -/
def runTxwait (a b : SReg) (u : Flight) (s : State) : Res :=
  onBarrier a u s (fun t at_ v =>
    if barBad v then .trap s (u.operand (s.me.sreg a))
    else if barPhase v ≠ (s.me.sreg b).toNat % 16 then .done (t.acquire s.cur 4)
    else .wait t (u.waiting .tx [⟨localKey at_, 16⟩]))
def execTxwait (a b : SReg) (s : State) : Out := issue (.txwait a b) (runTxwait a b) s

end Sys2Proof.Machine
end

