-- ==== Sys2Proof/Machine/Place.lean ====
section
/-! DEFINITION. Task templates (R41 to R43, R12), what an instance needs to be placed (R44, R101), and its placement, with
the binding of its window records and its start (R27, R31, R44, R48, R231, R326). -/

namespace Sys2Proof.Machine
open Sys2Proof

/-! ## Fields of a template (R41, R42) -/

def partGroups (p : Word32) : Nat := fld p.toNat 21 5 + 1
def partAcc (p : Word32) : Nat := fld p.toNat 16 5
def partSpad (p : Word32) : Nat := fld p.toNat 8 8
def partWidth (p : Word32) : Nat := 16 * 2 ^ fld p.toNat 4 2
def partBlocks (p : Word32) : Nat := fld p.toNat 0 4 + 1
def flagPrio (f : Word32) : Nat := fld f.toNat 0 2
def flagPlace (f : Word32) : Nat := fld f.toNat 2 2
def flagInherit (f : Word32) : Bool := f.getLsbD 4
def flagNwin (f : Word32) : Nat := fld f.toNat 5 5
/-- DSENT, of which 0 means 8 (R31). -/
def flagDsent (f : Word32) : Nat := if fld f.toNat 10 8 = 0 then 8 else fld f.toNat 10 8

/-- An instance's demand in courses (R43). -/
def demand (p : Word32) : Nat :=
  partGroups p * partBlocks p * partWidth p / 16 + 8 * partSpad p + partAcc p * partWidth p / 2

/-- A template, read from its 128 bytes given as a number, as a set of a graph. -/
def templateSet (v : Nat) : TaskSet :=
  { graph := 0, ctx := 0, entry := BitVec.ofNat 64 (fld v 0 64), part := BitVec.ofNat 32 (fld v 64 32),
    flags := BitVec.ofNat 32 (fld v 96 32), count := fld v 128 32, winp := BitVec.ofNat 64 (fld v 192 64),
    argp := BitVec.ofNat 64 (fld v 256 64), counter := fld v 160 32, reserved := 0, handoffs := [], parent := none,
    pool := 0, spilled := false, level := 0, ready := none, since := 0, born := 0, creator := 0, next := 0, back := [],
    ended := 0 }

/-- A template is refused with 0x02 (R43, R12). -/
def templateBad (v : Nat) (steward : Bool) : Bool :=
  let t := templateSet v
  2048 < demand t.part || 16 < partAcc t.part || fld t.part.toNat 4 2 == 3 || flagPlace t.flags == 3
    || 16 < flagNwin t.flags || t.count == 0 || 2 ^ 24 < t.count
    || partSpad t.part * 4096 < partGroups t.part * flagDsent t.flags * 32
    || fld t.part.toNat 26 6 != 0 || fld t.part.toNat 6 2 != 0 || fld t.flags.toNat 18 14 != 0 || fld v 320 704 != 0
    || (steward && (fld t.part.toNat 4 2 != 0 || partAcc t.part != 0 || 64 < partSpad t.part || 768 < demand t.part))

/-! ## What is free on a core -/

/-- Instances in task slots of a core, and group slots that are free. -/
def State.slotsUsed (s : State) (core : Nat) : Nat := (s.insts.filter (fun x => x.1 / 16 = core && x.2.live)).length
def State.freeSlots (s : State) (core : Nat) : List Nat :=
  (List.range 64).filter (fun j => !(s.grp (core * 64 + j)).live)
def State.freeTslot (s : State) (core : Nat) : Option Nat := (List.range 16).find? (fun j => !(s.inst (core * 16 + j)).live)

/-- Runs of local slots that instances of the core hold, but for the one in task slot `but` (R101). -/
def State.runs (s : State) (core : Nat) (but : Option Nat) : List (Nat × Nat) :=
  (s.insts.filter (fun x => x.1 / 16 = core && x.2.live && some (x.1 % 16) ≠ but)).map (fun x => (x.2.lmbase, 8 * x.2.spad))

/-- The local memory slots of a core: 1 MB (R101). -/
def localSlots : Nat := 2048

/-- The slots of a core that its local memory may take: all of them, and on a steward core 512 courses' worth (R12). -/
def localLimit (core : Nat) : Nat := if isSteward core then 512 else localSlots

/-- A run of `n` more slots stays within that, beside runs `rs`. -/
def localRoom (core : Nat) (rs : List (Nat × Nat)) (n : Nat) : Bool := (rs.map Prod.snd).sum + n ≤ localLimit core

/-- The slots from `a` on are free for a run of `n` among `size` slots. -/
def runFree (size : Nat) (rs : List (Nat × Nat)) (n a : Nat) : Bool :=
  a + n ≤ size && rs.all (fun r => r.2 = 0 || n = 0 || a + n ≤ r.1 || r.1 + r.2 ≤ a)

/-- The lowest run of `n` free slots (R101): it begins at slot 0 or where another run ends. A group and an instance take the
lowest free slot too (DESIGN CHOICE, unsafe: assumption log, 7). -/
def lowestRun (size : Nat) (rs : List (Nat × Nat)) (n : Nat) : Option Nat :=
  ((0 :: rs.map (fun r => r.1 + r.2)).filter (runFree size rs n)).foldl (fun m a => match m with
    | none => some a
    | some b => some (min a b)) none

/-- The lowest run of `n` slots that is free on a core. -/
def State.freeRun (s : State) (core n : Nat) : Option Nat :=
  if localRoom core (s.runs core none) n then lowestRun localSlots (s.runs core none) n else none

/-- An instance of the set fits a core within its limit, with an engine free for each of its records (R44, R12, R101, R110). -/
def State.fits (s : State) (core : Nat) (t : TaskSet) : Bool :=
  let c := s.core core
  let used := 64 - (s.freeSlots core).length
  !c.mappedOut && s.slotsUsed core < c.limTslots && used + partGroups t.part ≤ c.limGslots && demand t.part ≤ c.free
    && (s.freeRun core (8 * partSpad t.part)).isSome
    && (flagNwin t.flags = 0 || s.enginesUsed core + flagNwin t.flags ≤ Config.engines)

/-! ## Binding the records of a template -/

/-- Group 0 of an instance. -/
def State.leader (s : State) (ik : Nat) : Nat :=
  ((s.groups.find? (fun x => x.1 / 64 = ik / 16 && x.2.live && x.2.tslot = ik % 16 && x.2.gidx = 0)).map Prod.fst).getD 0

/-- Binds record `n`, at `addr`, as WSET does (R44, R132): a cause, or whether it is bound. A window still bound after an
inheritance (R51) keeps that binding where its record is refused (R116), and a record waits for an engine behind every WSET that
waits for one (R110; DESIGN CHOICE, unsafe: assumption log, 32). -/
def State.bindOne (s : State) (ik n addr : Nat) : Except Cause (State × Bool) :=
  let core := ik / 16
  let k := s.leader ik
  let u := (s.grp k).unit (.wsetG 0 0)
  if addr % 64 ≠ 0 then .error (misaligned addr 0)
  else
    match s.gLoad u k 16 false (sixteens addr 4) with
    | .trap c => .error { c with taddr := BitVec.ofNat 64 addr, tinfo := if c.code = 2 ∨ c.code = 3 then 0 else c.tinfo }
    | .wait t _ held => .ok (t.holdMiss k { u with miss := held } 0, false)
    | .stall t | .part t _ _ => .ok (t, false)
    | .vals t vs =>
      let r := winRec (joined vs)
      if r.noBstore core then .error ⟨1, BitVec.ofNat 64 addr, 0⟩
      else
        match t.recordCause core (t.inst ik) addr 0 r with
        | some c => .error c
        | none =>
          if t.windowInUse ik n then .ok (t, false)
          else
            let t := t.onWin ik n Window.release
            let lines := if r.dkind = 2 then t.windowLines core (t.inst ik).ctx r else []
            if Config.engines ≤ t.enginesUsed core ∨ (t.core core).engineQueue ≠ [] then .ok (t, false)
            else
              let t := t.noteLines (.engine ik n) lines
              if t.linesHeld (.engine ik n) core lines then .ok (t, false)
              else .ok (t.bindWindow ik n r addr true lines t.cycle (k % 64), true)

/-- Every record is dealt with: the groups of the instance run, and group 0 takes the first record's cause (R44). -/
def State.startGroups (s : State) (ik : Nat) : State :=
  let i := s.inst ik
  let t := { s.setInst ik { i with tobind := [], bindCause := none } with
    groups := mapVals s.groups (fun k g =>
      if k / 64 = ik / 16 ∧ g.live ∧ g.tslot = ik % 16 ∧ g.status = .starting then { g with status := .running } else g) }
  match i.bindCause with
  | none => t
  | some c => t.takeTrap (s.leader ik) c

/-- Binds record `n`, at `addr`, once the lazy pages that it meets under FORWARD have been serviced, at most as many as given
(R44, R246): the state with those pages, and what comes of the record. -/
def State.bindServiced (s : State) (ik n addr : Nat) : Nat → State × Except Cause (State × Bool)
  | 0 => (s, s.bindOne ik n addr)
  | m + 1 =>
    match s.bindOne ik n addr with
    | .ok r => (s, .ok r)
    | .error c =>
      match s.serviceable (s.inst ik).ctx (s.grp (s.leader ik)).pol c with
      | none => (s, .error c)
      | some l => (s.servicePage (s.inst ik).ctx c.taddr.toNat l).bindServiced ik n addr m

/-- The pages that a record can name: its own, and those of a destination of 64 MB (R116, R244). -/
def recordPages : Nat := 1026

/-- Binds these records in order, as far as none has to wait (R44). -/
def State.bindRecords (s : State) (ik : Nat) : List Nat → State
  | [] => s.startGroups ik
  | n :: ns =>
    let i := s.inst ik
    let addr := ((find? s.sets i.set).map (fun t => t.winp.toNat)).getD 0 + 64 * n
    let r := s.bindServiced ik n addr recordPages
    match r.2 with
    | .ok (t, true) => t.bindRecords ik ns
    | .ok (t, false) => t.setInst ik { t.inst ik with tobind := n :: ns }
    | .error c =>
      if c.code = 0 then r.1.setInst ik { r.1.inst ik with tobind := n :: ns }
      else (r.1.setInst ik { r.1.inst ik with bindCause := i.bindCause.or (some c) }).bindRecords ik ns

/-- Goes on with an instance whose records wait. -/
def State.bindMore (s : State) (ik : Nat) : State :=
  if (s.inst ik).live ∧ (s.inst ik).tobind ≠ [] then s.bindRecords ik (s.inst ik).tobind else s

/-! ## Placement -/

/-- The launch of a set's graph. -/
def State.launchFor (s : State) (graph : Nat) : Option Launch := (s.ring.find? (fun x => x.2.graph = graph)).map Prod.snd

/-- A group as it is placed (R27, R31, R231). Its PC is the ENTRY as the template gives it, a multiple of 4 or not, and its fetch
reads the four bytes there (R41, R43; DESIGN CHOICE, unsafe: assumption log, 31). -/
def State.newGroup (s : State) (t : TaskSet) (tslot gidx : Nat) : Group :=
  let l := s.launchFor t.graph
  let tvec := (l.map Launch.tvec).getD 0
  { live := true, ctx := t.ctx, tslot := tslot, gidx := gidx, width := partWidth t.part, pc := t.entry,
    em := BitVec.ofNat 64 (2 ^ partWidth t.part - 1), blocks := partBlocks t.part,
    dsb := BitVec.ofNat 64 (2 ^ 27 + (partSpad t.part * 4096 - (gidx + 1) * flagDsent t.flags * 32)),
    dsd := BitVec.ofNat 64 (flagDsent t.flags * 2 ^ 16),
    tvec := (if tvec = 0 then Config.serviceTvec else tvec) &&& ~~~(0xFFF : Word64),
    det := ((l.map Launch.mode).getD 0) % 2 = 1,
    pol := s.trapPolicy t.ctx, status := .starting, lastIssue := s.cycle }

/-- Places new groups in the listed slots of a core. -/
def State.putGroups (s : State) (t : TaskSet) (core tslot : Nat) : Nat → List Nat → State
  | _, [] => s
  | g, j :: js => (s.setGrp (core * 64 + j) (s.newGroup t tslot g)).putGroups t core tslot (g + 1) js

/-- Whether the core drops its L1 as an instance of the set is placed (R48, R326). -/
def TaskSet.acquires (t : TaskSet) (core : Nat) : Bool := t.parent ≠ some core || t.handoffs.any (fun h => h ≠ core)

/-- The instance `i` of set `t` starts in task slot `tslot`: its groups, its courses and its window records. The
core's instruction buffer is empty before its first fetch (R282). -/
def State.startInst (s : State) (core tslot : Nat) (t : TaskSet) (i : Inst) : State :=
  let ik := core * 16 + tslot
  let c := s.core core
  let s := s.setCore core { c with used := c.used + i.held, ibuf := [] }
  let s := if t.acquires core then s.dropL1 core else s
  let s := { s with ring := mapVals s.ring (fun _ l =>
    if l.graph = t.graph then { l with start := some (l.start.getD s.cycle) } else l) }
  ((s.setInst ik i).putGroups t core tslot 0 ((s.freeSlots core).take (partGroups t.part))).bindRecords ik
    (List.range (flagNwin t.flags))

/-- Local memory from slot `base` on reads zero and its full-empty bits are empty (R44). -/
def State.clearLocal (s : State) (core base spad : Nat) : State :=
  let a := core * 2 ^ 20 + base * 512
  { s with
    lm := wipe s.lm a (spad * 4096),
    full := delWhere s.full (fun g => a / 16 ≤ g && g < (a + spad * 4096) / 16) }.healSram [(localKey a, spad * 4096)]

/-- An instance of a set, in local memory from slot `base` on. -/
def TaskSet.newInst (t : TaskSet) (set idx serial base : Nat) : Inst :=
  { live := true, serial := serial, ctx := t.ctx, set := set, taskix := idx, groups := partGroups t.part,
    width := partWidth t.part, acc := partAcc t.part, spad := partSpad t.part, lmbase := base, argp := t.argp,
    held := demand t.part }

/-- Instance `idx` of set `h` is placed on a core where it fits (R44). -/
def State.place (s : State) (core h idx : Nat) (t : TaskSet) : State :=
  match s.freeTslot core, s.freeRun core (8 * partSpad t.part) with
  | some slot, some base =>
    (({ s with nextSerial := s.nextSerial + 1 }).clearLocal core base (partSpad t.part)).startInst core slot t
      (t.newInst h idx s.nextSerial base)
  | _, _ => s

end Sys2Proof.Machine
end

