-- ==== Sys2Proof/Machine/Retire.lean ====
section
/-! DEFINITION. SPAWN (R47, R48, R372, R373) and EXIT (R49 to R51, R240, R325, R326): how sets come to be and become ready,
and how groups and instances end. -/

namespace Sys2Proof.Machine
open Sys2Proof

/-! ## Pools (R76, R398): clusters 0 and 1 have pools 0 and 1, the steward pools of dies 0 and 1 are 2 and 3 -/

def poolOf (core : Nat) : Nat := if isSteward core then 2 + dieOf core else dieOf core
def poolCores (p : Nat) : List Nat :=
  if p < 2 then (List.range 128).map (fun i => 128 * p + i) else [252 + 2 * p, 253 + 2 * p]
def otherPool (p : Nat) : Nat := if p % 2 = 0 then p + 1 else p - 1
def poolEntries (p : Nat) : Nat := if p < 2 then Config.poolSize else Config.stewardPoolSize

/-- The lowest index of a set that is in its pool (R77). -/
def TaskSet.lowest (t : TaskSet) : Option Nat :=
  match t.back with
  | i :: is => some (is.foldl min i)
  | [] => if t.next < t.count then some t.next else none

/-- The set still has its entry: some instance is not placed (R76). -/
def State.hasEntry (s : State) (h : Nat) (t : TaskSet) : Bool :=
  t.lowest.isSome || s.cores.any (fun c => (c.2.answer.map Prod.fst) = some h)

/-- Free entries of a pool. -/
def State.poolSpace (s : State) (p : Nat) : Nat :=
  poolEntries p - (s.sets.filter (fun x => x.2.pool = p && !x.2.spilled && s.hasEntry x.1 x.2)).length

/-- A set whose counter is zero takes its level, and its age begins (R76). -/
def TaskSet.makeReady (t : TaskSet) (cycle : Nat) : TaskSet :=
  if t.counter = 0 then { t with ready := some cycle, level := flagPrio t.flags, since := cycle } else t

/-- Creates a set in pool `p`, or in the spill queue where the pool is full (R81); none where both are. -/
def State.createSet (s : State) (t : TaskSet) (p : Nat) : Option State :=
  let spilled : Bool := s.poolSpace p = 0
  if spilled = true ∧ s.spillMax ≤ s.spill.length then none
  else
    let t := ({ t with pool := p, spilled := spilled, born := s.cycle } : TaskSet).makeReady s.cycle
    some { s with
      sets := Machine.put s.sets s.nextSet t, nextSet := s.nextSet + 1,
      spill := if spilled then s.spill ++ [s.nextSet] else s.spill }

/-! ## SPAWN -/

/-- SPAWN (R372). -/
def runSpawn (d a b : SReg) (u : Flight) (s : State) : Res :=
  let k := s.cur
  let addr := (s.me.sreg a).toNat
  let ls := sixteens addr 8
  if addr % 128 ≠ 0 then .trap s (misaligned addr 0)
  else
    match s.release k u 6 with
    | none => .wait s (u.waiting .older [])
    | some t =>
      (t.gLoad u k 16 false ls).then t u (t.globalSpans k 16 false ls) (fun t vs =>
        let v := joined vs
        if templateBad v (isSteward t.here) then .trap t (u.operand (BitVec.ofNat 64 addr))
        else
          let x : TaskSet := { templateSet v with
            graph := t.graphOf k, ctx := t.me.ctx, argp := t.me.sreg b, parent := some t.here, creator := k }
          match t.createSet x (poolOf t.here) with
          | none => .wait t (u.waiting .spawn [])
          | some t' => .done (t'.onMe (fun g => g.setS d (handleOf t.nextSet))))

def execSpawn (d a b : SReg) (s : State) : Out := issue (.spawn d a b) (runSpawn d a b) s

/-! ## EXIT -/

/-- Step 1 of a hand-off: one count of the named set is reserved for the group; none where that cannot be (R325). -/
def State.reserveCount (s : State) (k : Nat) (h : Word64) : Option State :=
  if (s.grp k).reserved.isSome then some s
  else
    match s.setOf h with
    | none => none
    | some (n, t) =>
      if t.graph ≠ s.graphOf k ∨ t.counter ≤ t.reserved then none
      else
        some ({ s with sets := Machine.put s.sets n { t with reserved := t.reserved + 1 } }.onGrp k
          (fun g => { g with reserved := some n }))

/-- The reserved decrement (R326). -/
def State.handOff (s : State) (k : Nat) : State :=
  match (s.grp k).reserved.bind (fun n => (find? s.sets n).map (fun t => (n, t))) with
  | none => s
  | some (n, t) =>
    let t := ({ t with
      counter := t.counter - 1, reserved := t.reserved - 1, handoffs := addOnce t.handoffs (coreOf k) } : TaskSet).makeReady s.cycle
    { s with sets := Machine.put s.sets n t }.onGrp k (fun g => { g with reserved := none })

/-- The group slot and its courses are free, and its instance remembers its exit (R49). -/
def State.freeGroup (s : State) (k : Nat) : State :=
  let g := s.grp k
  let ik := instKey k g
  let i := s.inst ik
  let n := g.coursesOf g.blocks
  let c := s.core (coreOf k)
  let t := ((s.calm k).unpinGroup k).cancelWaits k
  let t := (t.setInst ik { i with
    held := i.held - n, exited := i.exited ++ [g.gidx], suspended := if g.susp then i.suspended ++ [g.gidx] else i.suspended })
  let t := t.setCore (coreOf k) { t.core (coreOf k) with used := c.used - n }
  { t with groups := del t.groups k }

/-- What the instance holds is free (R50, R138): its windows are released at once, also one that a matrix instruction of another
instance reads (DESIGN CHOICE, unsafe: assumption log, 32). -/
def State.freeInst (s : State) (ik : Nat) : State :=
  let i := s.inst ik
  let core := ik / 16
  let c := s.core core
  (({ s with insts := del s.insts ik }).setCore core { c with used := c.used - i.held }).grantClaims core

/-- An instance of a set has ended: the graph may complete (R46). -/
def State.countEnd (s : State) (h : Nat) : State :=
  match find? s.sets h with
  | none => s
  | some t => { s with sets := Machine.put s.sets h { t with ended := t.ended + 1 } }

/-- An instance of the set may be placed on this core (R47, R12). -/
def TaskSet.allows (t : TaskSet) (core : Nat) : Bool :=
  match flagPlace t.flags, t.parent with
  | 2, some p => p = core
  | 1, some p => poolOf p = poolOf core
  | _, _ => true

/-- The first slot of the run that an inheriting instance of `n` slots has (R101). A run that moves counts its own old slots
as free (DESIGN CHOICE, unsafe: assumption log, 35). -/
def State.inheritRun (s : State) (ik n : Nat) : Option Nat :=
  let rs := s.runs (ik / 16) (some (ik % 16))
  let base := (s.inst ik).lmbase
  if localRoom (ik / 16) rs n = false then none
  else if runFree localSlots rs n base then some base else lowestRun localSlots rs n

/-- Engines are free for the `n` records of a successor that takes over the windows of the instance of key `ik`: those that
its records name are released as they are bound again, and count as free (R51, R110; DESIGN CHOICE, unsafe: assumption log, 32). -/
def State.inheritEngines (s : State) (ik n : Nat) : Bool :=
  let again := ((s.inst ik).wins.filter (fun w => w.1 < n && w.2.state.holdsEngine)).length
  n = 0 || s.enginesUsed (ik / 16) + n ≤ Config.engines + again

/-- Local memory and full-empty bits of an instance move to the run from slot `base` on; what they held beyond `spad`
units goes, and what is added reads zero and empty (R51, R101). -/
def State.moveLocal (s : State) (ik base spad : Nat) : State :=
  let i := s.inst ik
  let core := ik / 16
  let old := i.localStart core
  let new := core * 2 ^ 20 + base * 512
  let n := min i.spad spad * 4096
  let keep := (s.lm.filter (fun c => old ≤ c.1 && c.1 < old + n)).map (fun c => (c.1 - old + new, c.2))
  let bits := (s.full.filter (fun c => old / 16 ≤ c.1 && c.1 < (old + n) / 16)).map (fun c => (c.1 - old / 16 + new / 16, c.2))
  let t := (s.clearLocal core i.lmbase i.spad).clearLocal core base spad
  let marred := (s.sramBad.filter (fun w => localKey old ≤ 8 * w && 8 * w < localKey (old + n))).map (fun w => w - old / 8 + new / 8)
  { t with
    lm := wrBytes t.lm keep, full := bits.foldl (fun m c => Machine.put m c.1 c.2) t.full,
    sramBad := t.sramBad ++ marred }

/-- The windows that an inheriting instance keeps: a local destination or barrier that its memory no longer holds is
released (DESIGN CHOICE, unsafe: assumption log, 7). -/
def Inst.keptWindows (i : Inst) (ws : SMap Window) : SMap Window :=
  mapVals ws (fun _ w =>
    if (w.rcd.dkind = 0 ∧ i.holdsLocal w.rcd.dst w.total = false) ∨ (w.rcd.txbOn = true ∧ i.holdsLocal w.rcd.txb 16 = false)
    then w.release else w)

/-- The successor's instance 0 starts in the place of the instance of key `ik`, whose last group has gone, if it fits
there (R51). -/
def State.inherit (s : State) (ik h : Nat) : Option State :=
  match find? s.sets h with
  | none => none
  | some t =>
    let core := ik / 16
    let i := s.inst ik
    let c := s.core core
    let room : Bool := demand t.part ≤ c.free + i.held
      && 64 - (s.freeSlots core).length + partGroups t.part ≤ c.limGslots && !c.mappedOut
      && s.slotsUsed core ≤ c.limTslots && s.inheritEngines ik (flagNwin t.flags)
    if flagInherit t.flags = false ∨ t.next ≠ 0 ∨ t.allows core = false ∨ room = false then none
    else
      match s.inheritRun ik (8 * partSpad t.part) with
      | none => none
      | some base =>
        let new := t.newInst h 0 i.serial base
        let t' := { t with next := 1 }
        let s := s.moveLocal ik base (partSpad t.part)
        let spill := if t.count = 1 then s.spill.filter (fun x => x ≠ h) else s.spill
        let s := { s with sets := Machine.put s.sets h t', spill := spill }
        let s := s.setCore core { c with used := c.used - i.held }
        some ((s.startInst core (ik % 16) t' { new with wins := new.keptWindows i.wins }).grantClaims core)

/-- The last group of the instance of key `ik` has gone: it is suspended, or it ends, and `successor`, the set that this
exit made ready, may take its place (R50, R51, R240). -/
def State.endInst (s : State) (ik : Nat) (successor : Option Nat) : State :=
  let i := s.inst ik
  if i.suspended ≠ [] then
    let x : SuspInst := look
      { set := i.set, taskix := i.taskix, suspended := [], images := [], saved := {}, lm := [], full := [] } s.suspd i.serial
    { s with suspd := Machine.put s.suspd i.serial { x with suspended := i.suspended, core := ik / 16, pre := i.pre } }.freeInst ik
  else
    let s := s.countEnd i.set
    match successor.bind (s.inherit ik) with
    | some t => t
    | none => s.freeInst ik

/-- The last steps of EXIT (R49). Waiting claims are granted once a successor has taken what it needs of the courses that the exit
frees (R51, R54). -/
def State.leaveSlot (s : State) (k : Nat) : State :=
  let ik := instKey k (s.grp k)
  let h := (s.grp k).reserved
  let s := s.handOff k
  let ready := h.filter (fun n => match find? s.sets n with
    | some t => t.counter = 0
    | none => false)
  let s := s.freeGroup k
  let i := s.inst ik
  if i.exited.length = i.groups then s.endInst ik ready else s.grantClaims (coreOf k)

/-- EXIT; `h` names the handle of a hand-off. -/
def runExit (h : Option SReg) (u : Flight) (s : State) : Res :=
  let k := s.cur
  match (match h with
    | none => some s
    | some a => if s.me.susp then none else s.reserveCount k (s.me.sreg a)) with
  | none => .trap s u.operand
  | some s =>
    match s.release k u s.me.crewScope with
    | none => .wait s { u.waiting .older [] with prog := 1 }
    | some t =>
      let t := t.leaveCrew k
      match (if h.isSome then t.release k u 6 else some t) with
      | none => .wait t { u.waiting .older [] with prog := 1 }
      | some t => .left (t.leaveSlot k)

def execExit (s : State) : Out := issue .exit (runExit none) s
def execExitH (a : SReg) (s : State) : Out := issue (.exitH a) (runExit (some a)) s

end Sys2Proof.Machine
end

