-- ==== Sys2Proof/Machine/Pools.lean ====
section
/-! DEFINITION. The ready pools (R76 to R81, R398): requests and their answers, placement, ageing, reservations, the spill
queue; placement limits (R12); and the completion of a graph (R46, R276). -/

namespace Sys2Proof.Machine
open Sys2Proof

/-! ## The order of R77 -/

/-- The place of a set in the order of R77: level, cycle in which it became ready, cycle of its creation, creator, number. -/
def rankOf (x : Nat × TaskSet) : List Nat := [x.2.level, x.2.ready.getD 0, x.2.born, x.2.creator, x.1]

def first77 (xs : List (Nat × TaskSet)) : Option (Nat × TaskSet) :=
  xs.foldl (fun m x => match m with
    | none => some x
    | some y => if lexLess (rankOf x) (rankOf y) then some x else some y) none

/-- The sets at the levels of a pool, with an instance to place. -/
def State.poolSets (s : State) (p : Nat) : List (Nat × TaskSet) :=
  s.sets.filter (fun x => x.2.pool = p && !x.2.spilled && x.2.ready.isSome && x.2.lowest.isSome)

/-- The set is never stolen (R47). A set without a parent reads PLACE as 0 (R46). -/
def TaskSet.bound (t : TaskSet) : Bool := t.parent.isSome && flagPlace t.flags ≠ 0

/-- Sets of pool `p` with an instance that is eligible for a core; from another pool, only those that may be stolen. A core
that is reserved takes no other set, and a reserved set waits for its core (R79, R80). -/
def State.eligible (s : State) (core p : Nat) : List (Nat × TaskSet) :=
  (s.poolSets p).filter (fun x => x.2.allows core && (p = poolOf core || !x.2.bound)
    && !s.resv.any (fun r => (r.2.2 = core) != (r.2.1 = x.1)))

/-- The pool's answer: set and index (R77). -/
def State.answerFor (s : State) (core p : Nat) : Option (Nat × Nat) :=
  (first77 ((s.eligible core p).filter (fun x => s.fits core x.2))).bind (fun x => x.2.lowest.map (fun i => (x.1, i)))

/-- An instance leaves the pool. -/
def TaskSet.take (t : TaskSet) (i : Nat) : TaskSet :=
  if t.back.contains i then { t with back := t.back.erase i } else { t with next := i + 1 }

/-- The place of a core in the rotation of pool `p`; a steal is the last (R77, R80). -/
def rotPlace (core p : Nat) : Nat :=
  if p = poolOf core then (if p < 2 then core % 128 else core % 2) else (poolCores p).length

/-- Core `core` asks pool `p`: what that answers is the core's until it is placed. -/
def State.ask (s : State) (core p : Nat) : State :=
  let t := { s with rot := Machine.put s.rot p (rotPlace core p) }
  match s.answerFor core p with
  | none => t
  | some (h, i) =>
    match find? s.sets h with
    | none => t
    | some x =>
      { t with sets := Machine.put t.sets h (x.take i) }.setCore core { t.core core with answer := some (h, i) }

/-- The core may ask: a task slot is free, and it holds no answer (R77, R10). -/
def State.mayAsk (s : State) (core : Nat) : Bool :=
  let c := s.core core
  core < Config.cores && !c.mappedOut && c.answer = none && s.slotsUsed core < c.limTslots

/-- POOL_REQUEST (R77). -/
def execPoolRequest (core : Nat) (s : State) : Out :=
  .next (if s.mayAsk core = true ∧ isSteward core = false then s.ask core (poolOf core) else s)

/-- The core's own pool holds no instance whose PLACE allows the core, reserved or not, fitting or not (R80). -/
def State.maySteal (s : State) (core : Nat) : Bool :=
  s.mayAsk core && !(s.poolSets (poolOf core)).any (fun x => x.2.allows core)

/-- STEAL_REQUEST (R80). -/
def execStealRequest (core : Nat) (s : State) : Out :=
  .next (if s.maySteal core = true ∧ isSteward core = false then s.ask core (otherPool (poolOf core)) else s)

/-- STEWARD_POOL_REQUEST (R398). -/
def execStewardPoolRequest (core : Nat) (s : State) : Out :=
  .next (if isSteward core = false ∨ s.mayAsk core = false then s
    else if s.maySteal core then s.ask core (otherPool (poolOf core)) else s.ask core (poolOf core))

/-! ## Reservations (R79) -/

/-- What the core could ever supply covers the demand (R79, R110). -/
def Core.couldHold (c : Core) (t : TaskSet) : Bool :=
  !c.mappedOut && demand t.part ≤ c.limCourses && partGroups t.part ≤ c.limGslots && 1 ≤ c.limTslots
    && flagNwin t.flags ≤ Config.engines

/-- Drops every reservation that its core can never meet, and ends that graph with cause 0x02. -/
def State.dropResv (s : State) : State :=
  s.resv.foldl (fun t r =>
    match find? t.sets r.2.1 with
    | none => { t with resv := del t.resv r.1 }
    | some x =>
      if (t.core r.2.2).couldHold x then t
      else { t with resv := del t.resv r.1 }.endGraph x.graph 2) s

/-- The oldest set at level 0 of a pool, if it has waited there long enough and its lowest instance fits no core. -/
def State.starving (s : State) (p : Nat) : Option (Nat × TaskSet) :=
  (first77 ((s.poolSets p).filter (fun x => x.2.level = 0))).filter (fun x =>
    x.2.since + Config.ageing ≤ s.cycle && (poolCores p).all (fun c => !(x.2.allows c && s.fits c x.2)))

/-- The core with the most free courses, of those not mapped out, or of the listed ones where all are: the lowest-numbered
among equals (DESIGN CHOICE, unsafe: assumption log, 34). -/
def State.bestCore (s : State) (cs : List Nat) : Option Nat :=
  let whole := cs.filter (fun c => !(s.core c).mappedOut)
  (if whole = [] then cs else whole).foldl (fun m c => match m with
    | none => some c
    | some b => if (s.core b).free < (s.core c).free then some c else some b) none

/-- SET_RESERVATION (R79). A core that is mapped out, where PLACE allows no other, can never supply the demand: the
reservation is dropped at once. -/
def execSetReservation (pool : Nat) (s : State) : Out :=
  match (if (find? s.resv pool).isSome then none else s.starving pool) with
  | none => .next s
  | some (h, t) =>
    match s.bestCore ((poolCores pool).filter t.allows) with
    | none => .next s
    | some c => .next ({ s with resv := Machine.put s.resv pool (h, c) }.dropResv)

/-! ## Placement -/

/-- INSTANCE_PLACEMENT (R44): the instance that the core's pool has answered is placed, or goes back to its pool where it
no longer fits. -/
def execInstancePlacement (core set idx : Nat) (s : State) : Out :=
  let c := s.core core
  if c.answer ≠ some (set, idx) then .next s
  else
    let s := s.setCore core { c with answer := none }
    match find? s.sets set with
    | none => .next s
    | some t =>
      if s.fits core t then
        .next ({ s with resv := s.resv.filter (fun r => r.2.1 ≠ set) }.place core set idx t)
      else .next ({ s with sets := Machine.put s.sets set { t with back := t.back ++ [idx] } }.dropResv)

/-- SET_AGEING (R78). -/
def execSetAgeing (set : Nat) (s : State) : Out :=
  match find? s.sets set with
  | none => .next s
  | some t =>
    if t.ready.isSome ∧ 0 < t.level ∧ t.since + Config.ageing ≤ s.cycle ∧ s.hasEntry set t = true then
      .next { s with sets := Machine.put s.sets set { t with level := t.level - 1, since := t.since + Config.ageing } }
    else .next s

/-- PLACEMENT_LIMIT_CHANGE (R12). -/
def execPlacementLimitChange (core courses tslots gslots : Nat) (s : State) : Out :=
  if Config.cores ≤ core ∨ (if isSteward core then 768 else 2048) < courses ∨ (if isSteward core then 4 else 16) < tslots
    ∨ (if isSteward core then 16 else 64) < gslots then .next s
  else
    .next (((s.setCore core { s.core core with limCourses := courses, limTslots := tslots, limGslots := gslots }).grantClaims
      core).dropResv)

/-- Moves spilled sets of a pool back in creation order while 512 entries are free (R81; DESIGN CHOICE, unsafe: assumption
log, 2), and into a steward pool, which has no 512, while one is free. -/
def State.refill (s : State) (p : Nat) : List Nat → State
  | [] => s
  | h :: hs =>
    match find? s.sets h with
    | none => s.refill p hs
    | some t =>
      if t.pool = p ∧ (if p < 2 then 512 else 1) ≤ s.poolSpace p then
        { s with sets := Machine.put s.sets h { t with spilled := false }, spill := s.spill.erase h }.refill p hs
      else s.refill p hs

/-- SPILL_REFILL (R81, R398). -/
def execSpillRefill (pool : Nat) (s : State) : Out := .next (s.refill pool s.spill)

/-! ## The end of a graph (R46) -/

/-- Every instance of every set of the graph has exited. -/
def State.graphOver (s : State) (gr : Nat) : Bool :=
  (match find? s.graphs gr with
    | some g => !g.done
    | none => false) && (s.sets.filter (fun x => x.2.graph = gr)).all (fun x => x.2.ended = x.2.count)

/-- Stores of groups that have exited are still on their way. -/
def State.orphanStores (s : State) : Bool :=
  s.cores.any (fun c => c.2.stores.any (fun e => e.grp = noGroup))
    || s.held.any (fun h => h.module = s.device && h.grp = noGroup) || s.remote.any (fun r => r.grp = noGroup)

/-- Begins the service's commit at device scope. -/
def State.beginGraphCommit (s : State) (gr : Nat) (g : Graph) : State :=
  { s.beginCommit noGroup 6 (s.streamsOf 0 6) with graphs := Machine.put s.graphs gr { g with commit := some s.nextCommit } }

/-- The places of a range, as far as it is mapped. -/
def State.rangePlaces (s : State) (ctx va len : Nat) : List Place :=
  (List.range len).filterMap (fun i => match s.svcPlace ctx (va + i) with
    | .ok p => some p
    | .error _ => none)

/-- The planes and the requests of the service's reads of these places at remote homes (R266). -/
def State.servicePlanes (s : State) (ps : List Place) : Option (List (Nat × Nat × Nat)) := s.readPlanes (ps.map (fun p => ⟨0, 0, p⟩))
def State.serviceSends (s : State) (ps : List Place) : State := s.sendReads ((s.servicePlanes ps).getD [])

/-- A read of these bytes by the service waits: for the end of a merge window, at a pin, at a mark, for an atomic's word, for
a pseudo-channel in training, or for the credit of its plane (R121, R174, R175, R258, R264, R311). -/
def State.rangeHeld (s : State) (ps : List Place) : Bool :=
  ps.any (fun p => s.homeHolds .service p || s.wordHeld noGroup 0 p.key 1 || (s.markWait [p.key]).isSome)
    || (s.servicePlanes ps).isNone

/-- The service's reads of these bytes reach the homes: the windows over them start, and pins may refuse them (R119, R175). -/
def State.serviceReads (s : State) (ps : List Place) : State :=
  (s.touch (ps.map Place.key)).noteLines .service (ps.map (fun p => p.key / 128))

/-- The places of the output ranges that the graph's open launches declare. -/
def State.outPlaces (s : State) (gr : Nat) : List Place :=
  (s.ring.filter (fun x => x.2.graph = gr && x.2.ending = none)).flatMap (fun x => x.2.outs.flatMap (fun o =>
    s.rangePlaces x.2.ctx o.1 o.2))

/-- The completion of a graph whose commit `id` is finished: the digest of the declared ranges, then the end cycle and the
completion reply (R276). An uncorrectable codeword of these ranges is reported as a lost record is (R239, R275; DEDUCED, unsafe:
assumption log, 46). -/
def State.finishGraph (s : State) (gr id : Nat) (g : Graph) (lost : Bool) : State :=
  let keys := (s.outPlaces gr).map Place.key
  let lost := lost || s.badCodewords keys ≠ []
  let s := (s.serviceSends (s.outPlaces gr)).noteWords keys
  let open_ := s.ring.filter (fun x => x.2.graph = gr && x.2.ending = none)
  let digest := fun (l : Launch) => Config.sm3 (l.outs.flatMap (fun o => s.svcBytes l.ctx o.1 o.2))
  let t := { s with graphs := Machine.put s.graphs gr { g with done := true, commit := none } }.closeCommit id
  let t := { t with
    sets := t.sets.filter (fun x => x.2.graph ≠ gr),
    ring := mapVals t.ring (fun _ l =>
      if l.graph = gr && l.ending = none then
        { l with ending := some s.cycle, digest := digest l, events := if lost then setEvent l.events 4 else l.events }
      else l) }.flushRing
  { t with
    replies := t.replies ++ open_.map (fun x => {
      conn := x.2.conn, opc := 1, flags := 5, tag := x.2.tag, ctx := x.2.ctx,
      status := if lost then 1 else 0, cause := if lost then 9 else 0,
      body := (cellsLE 0 8 x.2.seq).map Prod.snd ++ (cellsLE 0 8 s.cycle).map Prod.snd ++ digest x.2 }) }

/-- The end of a graph waits: one of its output ranges cannot be read yet, no plane reaches the home of one, or a record of its
launches cannot be written yet (R121, R258, R276; DESIGN CHOICE, unsafe: assumption log, 46). -/
def State.endWaits (s : State) (gr : Nat) : Bool :=
  s.rangeHeld (s.outPlaces gr) || (s.outPlaces gr).any s.unreachable
    || s.ring.any (fun x => x.2.graph = gr && x.2.ending.isNone && s.recordHeld x.1)

/-- The graph is complete, unless its end waits. -/
def State.endGraphWith (s : State) (gr id : Nat) (g : Graph) (lost : Bool) : Out :=
  .next (if s.endWaits gr then s else s.finishGraph gr id g lost)

/-- GRAPH_COMPLETE (R46): the service's commit begins, goes on, or has finished and the graph is complete, once its output ranges,
which it touches (R119), can be read (R258). Bytes of a STRANDED window are read as they stand (R121; DESIGN CHOICE, unsafe: assumption
log, 37). -/
def execGraphComplete (graph : Nat) (s : State) : Out :=
  match (if s.graphOver graph then find? s.graphs graph else none) with
  | none => .next s
  | some g =>
    let s := s.commitsStep
    match g.commit with
    | none => .next (s.beginGraphCommit graph g)
    | some id =>
      let t := match find? s.commits id with
        | some c => (s.placeMarkers id c.todo).commitStep id true
        | none => s
      match find? t.commits id with
      | none => (t.serviceReads (t.outPlaces graph)).endGraphWith graph id g false
      | some c =>
        if c.finished = true ∧ t.orphanStores = false then (t.serviceReads (t.outPlaces graph)).endGraphWith graph id g c.lossCause.isSome
        else .next t

end Sys2Proof.Machine
end

