-- ==== Sys2Proof/Machine/Service.lean ====
section
/-! DEFINITION. The Phopeind service (R268 to R281): the checks that every request meets, each request and its reply, bulk
transfers, boot, and cores mapped out. -/

namespace Sys2Proof.Machine
open Sys2Proof

/-! ## Requests and replies (R271, R273, R274) -/

/-- The endpoint of a connection: connections are numbered endpoint × 2^16 + n (DESIGN CHOICE, unsafe: assumption log, 15). -/
def endpointOf (conn : Nat) : Nat := conn / 2 ^ 16

/-- The rights that the access table gives an endpoint. -/
def State.rights (s : State) (conn : Nat) : Rights := look {} s.access (endpointOf conn)

/-- Requests of a connection that are outstanding (R268). -/
def State.outstanding (s : State) (conn : Nat) : Nat :=
  (s.xfers.filter (fun x => x.2.hdr.conn = conn)).length + (look ({} : Conn) s.conns conn).queue.length

/-- A reply as it goes out: its header of 32 bytes and its body (R271, R273). -/
def Reply.message (r : Reply) : List Byte :=
  bytesLE 2 r.opc ++ bytesLE 2 r.flags ++ bytesLE 4 r.tag ++ bytesLE 8 r.ctx ++ bytesLE 4 r.body.length
    ++ bytesLE 4 (r.status + (if r.status = 1 then 256 * r.cause else 0)) ++ bytesLE 8 0 ++ r.body

/-- Sends the reply to a request. -/
def State.answer (s : State) (h : ReqHdr) (status cause ctx : Nat) (body : List Byte) : State :=
  { s with replies := s.replies ++ [{
      conn := h.conn, opc := h.opc, flags := 1, tag := h.tag, ctx := ctx, status := status, cause := cause, body := body }] }

/-- The four ways in which a request ends without effect or with none of its body. -/
def State.okay (s : State) (h : ReqHdr) (body : List Byte) : State := s.answer h 0 0 h.ctx body
def State.refuse (s : State) (h : ReqHdr) (cause : Nat) : State := s.answer h 1 cause h.ctx []
def State.busy (s : State) (h : ReqHdr) : State := s.answer h 2 0 h.ctx []
def State.unauthorised (s : State) (h : ReqHdr) : State := s.answer h 3 0 h.ctx []

/-- The header or the length of the body is malformed (R271). -/
def hdrBad (h : ReqHdr) (body : List Byte) (need : Nat) : Bool :=
  h.bytes.length != 32 || h.opc == 0 || 9 < h.opc || h.flags != 0 || h.status != 0 || h.reserved != 0 || 65536 < h.bodyLen
    || body.length != h.bodyLen || body.length < need

/-- The request names a context that its endpoint created and that has not ended. -/
def State.ownCtx (s : State) (h : ReqHdr) : Bool :=
  match find? s.ctxs h.ctx with
  | some c => c.endpoint = endpointOf h.conn && !c.ended
  | none => false

/-- A pre-emption of the context is in progress: a live group of it has still to take it, or is in its handler (R273). -/
def State.preempting (s : State) (ctx : Nat) : Bool :=
  s.groups.any (fun x => x.2.live && x.2.ctx = ctx && x.2.status ≠ .halted
    && (x.2.preempt.isSome || (x.2.priv && x.2.tcause = 0x0E)))

/-- Data that has come before its request was executed. -/
def State.earlyData (s : State) (conn xfer : Nat) : List (Nat × Byte) :=
  ((look ({} : Conn) s.conns conn).early.filter (fun e => e.1 = xfer)).map Prod.snd

/-- That data is no longer kept. -/
def State.dropEarly (s : State) (conn xfer : Nat) : State :=
  let c := look ({} : Conn) s.conns conn
  if c.early = [] then s
  else { s with conns := Machine.put s.conns conn { c with early := c.early.filter (fun e => e.1 ≠ xfer) } }

/-- The transfer that a PUT or an UPDATE names. -/
def xferOf : Instr → Option Nat
  | .put _ body => some (field body 0x10 4)
  | .update _ body => some (field body 8 4)
  | _ => none

/-- Request `i` is turned away and has no effect: data that came while it waited is dropped (R271, R273). -/
def State.turnAway (s : State) (conn : Nat) (i : Instr) : State :=
  match xferOf i with
  | none => s
  | some x => s.dropEarly conn x

/-- Executes a request of operation `opc`, as `run`, once the service runs, its connection's requests before it are done, and it
is `ready`; until then it waits in the connection's queue, or is answered busy where 64 are outstanding (R268, R269). A request
with an unknown operation, a malformed header or a short body is refused, one outside its endpoint's rights is not authorised,
and one whose context is being pre-empted is answered busy (R273; DESIGN CHOICE, unsafe: assumption log, 15). -/
def State.requestWhen (s : State) (ready : Bool) (opc : Nat) (i : Instr) (h : ReqHdr) (body : List Byte) (need : Nat)
    (allowed : Bool) (run : State → State) : Out :=
  if !s.booted ∨ (1 ≤ h.opc ∧ h.opc ≤ 9 ∧ h.opc ≠ opc) then .next s
  else
    let c := look ({} : Conn) s.conns h.conn
    let s := { s with conns := Machine.put s.conns h.conn c }
    if s.outstanding h.conn ≠ 0 then
      if 64 ≤ s.outstanding h.conn then .next (s.busy h)
      else .next { s with conns := Machine.put s.conns h.conn { c with queue := c.queue ++ [i] } }
    else if hdrBad h body need then .next ((s.turnAway h.conn i).refuse h 2)
    else if !allowed then .next ((s.turnAway h.conn i).unauthorised h)
    else if h.ctx ≠ 0 ∧ s.preempting h.ctx = true then .next ((s.turnAway h.conn i).busy h)
    else if !ready then .next { s with conns := Machine.put s.conns h.conn { c with queue := [i] } }
    else .next (run s)

/-- A request of operation `opc` whose turn it is, and which is executed once it is ready. -/
def State.executes (s : State) (opc : Nat) (h : ReqHdr) (body : List Byte) (need : Nat) (allowed : Bool) : Bool :=
  s.booted && h.opc = opc && s.outstanding h.conn = 0 && !hdrBad h body need && allowed && !(h.ctx ≠ 0 && s.preempting h.ctx)

/-- A request that is ready at once. -/
def State.request (s : State) (opc : Nat) (i : Instr) (h : ReqHdr) (body : List Byte) (need : Nat) (allowed : Bool)
    (run : State → State) : Out := s.requestWhen true opc i h body need allowed run

/-- The requests that wait on a connection are executed next, in order (R269). -/
def State.dequeue (s : State) (conn : Nat) : State :=
  let c := look ({} : Conn) s.conns conn
  { s with
    conns := Machine.put s.conns conn { c with queue := [] },
    agenda := c.queue.map (fun i => { dt := 0, what := .event i }) ++ s.agenda }

/-! ## LAUNCH (R46, R272, R276) -/

/-- The launch record that a body asks for, but for its sequence number and graph. -/
def launchRecord (h : ReqHdr) (body : List Byte) : Launch :=
  { seq := 0, graph := 0, ctx := h.ctx, seed := BitVec.ofNat 64 (field body 0x10 8),
    cbase := BitVec.ofNat 64 (field body 0x18 8), mode := field body 0x20 4, events := 0, start := none, ending := none,
    digest := List.replicate 32 0,
    outs := (List.range (field body 0x24 4)).map (fun i => (field body (0x30 + 16 * i) 8, field body (0x38 + 16 * i) 8)),
    tvec := BitVec.ofNat 64 (field body 0x28 8), conn := h.conn, tag := h.tag, cause := none }

/-- The cause that a template gives: alignment, mapping, a home that no plane reaches, an uncorrectable word, a STRANDED window, R43. -/
def State.templateCause (s : State) (ctx tmpl : Nat) (stw : Bool) : Option Nat :=
  if tmpl % 128 ≠ 0 then some 4
  else
    match s.svcPlace ctx tmpl with
    | .error c => some c
    | .ok p =>
      if s.unreachable p then some 0x0A
      else if s.bad.contains (p.key / 64) ∨ s.bad.contains (p.key / 64 + 1) then some 9
      else if (s.stranded ((List.range 8).map (fun i => (tmpl, p.key + 16 * i)))).isSome then some 8
      else if templateBad (s.homeBytes p.key 128) stw then some 2 else none

/-- The cause that refuses a LAUNCH: its MODE, NOUT, TVEC and length, the context's mode, then its template. -/
def State.launchCause (s : State) (h : ReqHdr) (body : List Byte) : Option Nat :=
  let mode := field body 0x20 4
  let nout := field body 0x24 4
  let stw : Bool := mode / 4 % 2 = 1
  let pol : Bool := mode / 2 % 2 = 1
  let other : Bool := match (find? s.ctxs h.ctx).bind Ctx.mode with
    | some m => m ≠ (stw, pol)
    | none => false
  if 8 ≤ mode ∨ 16 < nout ∨ body.length < 0x30 + 16 * nout ∨ field body 0x28 8 % 2 ^ 12 ≠ 0 ∨ other = true then some 2
  else s.templateCause h.ctx (field body 0 8) stw

/-- A LAUNCH waits until its template can be read: for its page's tables, and at its home. -/
def State.launchWaits (s : State) (h : ReqHdr) (body : List Byte) : Bool :=
  s.launchCause h body = some 0 || s.rangeHeld (s.rangePlaces h.ctx (field body 0 8) 128)

/-- The set that a LAUNCH creates. -/
def State.launchSet (s : State) (h : ReqHdr) (body : List Byte) : TaskSet :=
  let v := match s.svcPlace h.ctx (field body 0 8) with
    | .ok p => s.homeBytes p.key 128
    | .error _ => 0
  let t := templateSet v
  { t with
    graph := s.nextGraph, ctx := h.ctx, creator := noGroup,
    argp := if field body 8 8 = 0 then t.argp else BitVec.ofNat 64 (field body 8 8) }

/-- The ring slot of the next launch still holds one that has not completed (R276). -/
def State.ringBusy (s : State) : Bool :=
  match find? s.ring (s.nextSeq % 4096) with
  | some l => l.ending.isNone
  | none => false

/-- The keys of a template's codewords. -/
def State.templateKeys (s : State) (ctx tmpl : Nat) : List Nat :=
  match s.svcPlace ctx tmpl with
  | .ok p => [p.key, p.key + 64]
  | .error _ => []

/-- LAUNCH: the set goes into pool `pool`, which is of its context's kind. -/
def State.runLaunch (s : State) (h : ReqHdr) (body : List Byte) (pool : Nat) : State :=
  let stw : Bool := field body 0x20 4 / 4 % 2 = 1
  match s.launchCause h body with
  | some c => (if c = 9 then s.noteWords (s.templateKeys h.ctx (field body 0 8)) else s).refuse h c
  | none =>
    if s.ringBusy then s.busy h
    else
      let p := if stw then 2 + pool % 2 else pool % 2
      match s.createSet (s.launchSet h body) p, find? s.ctxs h.ctx with
      | some t, some c =>
        let l := { launchRecord h body with seq := s.nextSeq, graph := s.nextGraph }
        let mode := some (stw, decide (field body 0x20 4 / 2 % 2 = 1))
        { t with
          nextSeq := s.nextSeq + 1, nextGraph := s.nextGraph + 1,
          ring := Machine.put t.ring (s.nextSeq % 4096) l,
          graphs := Machine.put t.graphs s.nextGraph { ctx := h.ctx, seq := s.nextSeq, done := false, commit := none },
          ctxs := Machine.put t.ctxs h.ctx { c with mode := mode } }.okay h (bytesLE 8 s.nextSeq ++ bytesLE 8 s.nextGraph)
      | _, _ => s.busy h

def execLaunch (h : ReqHdr) (body : List Byte) (pool : Nat) (s : State) : Out :=
  let r := s.rights h.conn
  let allowed := s.ownCtx h && r.operate && (field body 0x20 4 / 4 % 2 = 0 || r.steward)
  let s := if s.executes 1 h body 0x30 allowed then s.serviceReads (s.rangePlaces h.ctx (field body 0 8) 128) else s
  s.requestWhen (!s.launchWaits h body) 1 (.launch h body pool) h body 0x30 allowed (fun s =>
    (s.serviceSends (s.rangePlaces h.ctx (field body 0 8) 128)).runLaunch h body pool)

/-! ## MAPMEM and UNMAP (R272) -/

/-- What a MAPMEM asks for. -/
structure MapReq where
  va : Nat
  pa : Nat
  len : Nat
  size : Nat
  attr : Word64
  isLazy : Bool

/-- The request in a body; the frames are the service's choice where the body gives none, and the member set's number goes
into the leaf with ATTR. -/
def mapReq (body : List Byte) (frames : Nat) : MapReq :=
  let attr := field body 0x1C 4
  { va := field body 0 8, pa := if field body 8 8 = 0 then frames else field body 8 8, len := field body 0x10 8,
    size := [2 ^ 16, 2 ^ 21, 2 ^ 30].getD (field body 0x18 4) 0, attr := BitVec.ofNat 64 (attr % 2 ^ 22),
    isLazy := attr / 2 ^ 31 % 2 = 1 }

/-- The request names the control range. -/
def MapReq.control (m : MapReq) : Bool := Config.controlBase ≤ m.pa

/-- A leaf that the request would write is well formed (R245, R249); one of the control range lies where the service maps it, and
in a steward context (R255). -/
def State.leafGood (s : State) (ctx : Nat) (m : MapReq) (i : Nat) : Bool :=
  let w := BitVec.ofNat 64 (leafWord (m.pa + i * m.size) m.attr true)
  if m.control then
    !pteDil w && !pteDef w && !pteFxa w && !pteMcr w && s.isStewardCtx ctx
      && m.va = 0x0000FF0000000000 + (m.pa - Config.controlBase)
  else s.leafOk ctx w (levelOf m.size) (m.pa + i * m.size)

/-- The request is malformed: SIZE, alignment and range, ATTR's other bits, or a leaf. -/
def State.mapBad (s : State) (ctx : Nat) (body : List Byte) (m : MapReq) : Bool :=
  let attr := field body 0x1C 4
  m.size = 0 || m.va % m.size ≠ 0 || m.len % m.size ≠ 0 || m.pa % m.size ≠ 0 || 2 ^ 48 < m.va + m.len || 2 ^ 52 < m.pa + m.len
    || attr % 4 ≠ 0 || attr / 2 ^ 22 % 2 ^ 9 ≠ 0
    || (List.range (m.len / m.size)).any (fun i => !s.leafGood ctx m i)

/-- What is left of a lazy range without [lo, hi). -/
def Lazy.without (l : Lazy) (lo hi : Nat) : List Lazy :=
  if hi ≤ l.va ∨ l.va + l.len ≤ lo then [l]
  else
    let a := (lo - l.va) / l.size * l.size
    let b := (hi - l.va + l.size - 1) / l.size * l.size
    (if l.va < lo ∧ a ≠ 0 then [{ l with len := a }] else [])
      ++ (if hi < l.va + l.len ∧ b < l.len then [{ l with va := l.va + b, len := l.len - b, pa := l.pa + b }] else [])

/-- The same of pages that the service has given out. -/
def Mapped.without (x : Mapped) (ctx lo hi : Nat) : List Mapped :=
  if x.ctx = ctx then (x.range.without lo hi).map (fun l => { x with range := l }) else [x]

/-- A DRAM byte of the pages that a request maps is one that the service has given out under the other interleave (R249): 8 KB
at a time, which both interleaves keep together. -/
def State.bothMaps (s : State) (ctx home : Nat) (m : MapReq) : Bool :=
  let units := fun (dil : Bool) (pa len : Nat) => (List.range (len / 8192)).map (fun i => storeAddr dil (pa + 8192 * i))
  !m.control && ((s.mapped.flatMap (fun x => x.without ctx m.va (m.va + m.len))).filter (fun x =>
    x.home = home && x.dil ≠ pteDil m.attr)).any (fun x =>
      if x.dil then (units true x.range.pa x.range.len).any (fun a => m.pa ≤ a && a < m.pa + m.len)
      else (units true m.pa m.len).any (fun a => x.range.pa ≤ a && a < x.range.pa + x.range.len))

/-- Removes the leaves of [lo, hi), the lazy ranges' part of it, and every TLB entry over it. -/
def State.unmapRange (s : State) (ctx lo hi : Nat) : State :=
  match find? s.ctxs ctx with
  | none => s
  | some c =>
    let t := s.unmapIn lo hi 3 c.root 0
    let t := t.shootdown ctx lo hi (t.mem ≠ s.mem)
    let lazies := c.lazies.flatMap (fun l => l.without lo hi)
    { t with
      ctxs := Machine.put t.ctxs ctx { c with lazies := lazies },
      mapped := s.mapped.flatMap (fun x => x.without ctx lo hi) }

/-- Maps the pages of the request in context `ctx`. -/
def State.mapRange (s : State) (ctx : Nat) (m : MapReq) (tables home : Nat) (members : List Nat) : State :=
  let s := s.unmapRange ctx m.va (m.va + m.len)
  match find? s.ctxs ctx with
  | none => s
  | some c =>
    let r := s.mapPages c.root m.va m.size m.pa m.attr (!m.isLazy) tables (m.len / m.size)
    let z : Lazy := { va := m.va, len := m.len, size := m.size, pa := m.pa, attr := m.attr, free := r.2 }
    let lazies := if m.isLazy then c.lazies ++ [z] else c.lazies
    { r.1 with
      ctxs := Machine.put r.1.ctxs ctx { c with lazies := lazies },
      homes := { ctx := ctx, va := m.va, len := m.len, home := home } :: r.1.homes,
      mapped := { ctx := ctx, dil := pteDil m.attr, home := home, range := z } :: r.1.mapped,
      msets := if pteMcr m.attr ∧ members ≠ [] then Machine.put r.1.msets (pteMset m.attr) members else r.1.msets }

/-- MAPMEM: `frames` and `tables` are the space that the service chooses, in which it has room for every table. -/
def State.runMapmem (s : State) (h : ReqHdr) (body : List Byte) (frames tables home : Nat) (members : List Nat) : State :=
  let m := mapReq body frames
  if s.mapBad h.ctx body m ∨ 288 < members.length ∨ s.bothMaps h.ctx home m = true then s.refuse h 2
  else if h.ctx = 0 then
    let c : Ctx := { endpoint := endpointOf h.conn, root := tables, mode := none, lazies := [], ended := false }
    let t := { s with
      ctxs := Machine.put s.ctxs s.nextCtx c, nextCtx := s.nextCtx + 1,
      mem := wipe s.mem (s.device * 2 ^ 52 + tables) 4096 }
    (t.mapRange s.nextCtx m (tables + 4096) home members).answer h 0 0 s.nextCtx (bytesLE 8 m.pa)
  else (s.mapRange h.ctx m tables home members).okay h (bytesLE 8 m.pa)

/-- A change of the pages of [lo, hi) waits for the accesses that used the old entries, and for the tables (R247, R258). -/
def State.changeWaits (s : State) (ctx lo hi : Nat) : Bool := s.tablesHeld ctx lo hi || s.usesRange ctx lo hi

/-- A MAPMEM over pages that are mapped already, and an UNMAP, wait. -/
def State.mapmemWaits (s : State) (h : ReqHdr) (body : List Byte) : Bool :=
  s.changeWaits h.ctx (field body 0 8) (min (field body 0 8 + field body 0x10 8) (2 ^ 48))
def State.unmapWaits (s : State) (h : ReqHdr) (body : List Byte) : Bool :=
  s.changeWaits h.ctx (field body 0 8) (min (field body 0 8 + field body 8 8) (2 ^ 48))

def execMapmem (h : ReqHdr) (body : List Byte) (frames tables home : Nat) (members : List Nat) (s : State) : Out :=
  let r := s.rights h.conn
  if tables % 4096 ≠ 0 then .next s
  else
    s.requestWhen (!s.mapmemWaits h body) 2 (.mapmem h body frames tables home members) h body 0x20
      ((h.ctx = 0 || s.ownCtx h) && r.operate && (!(mapReq body frames).control || r.steward))
      (fun s => s.runMapmem h body frames tables home members)

def State.runUnmap (s : State) (h : ReqHdr) (body : List Byte) : State :=
  let va := field body 0 8
  let len := field body 8 8
  if 2 ^ 48 < va + len then s.refuse h 2 else (s.unmapRange h.ctx va (va + len)).okay h []

def execUnmap (h : ReqHdr) (body : List Byte) (s : State) : Out :=
  s.requestWhen (!s.unmapWaits h body) 3 (.unmap h body) h body 0x10 (s.ownCtx h && (s.rights h.conn).operate) (fun s => s.runUnmap h body)

/-! ## Bulk data (R270, R271) -/

/-- The cause that refuses a transfer over [va, va + n): a byte that is not mapped, one that a PUT may not write, or one whose home no
plane reaches (R266). Bulk data does not reach the control range (DESIGN CHOICE, unsafe: assumption log, 15). -/
def State.rangeCause (s : State) (ctx va len : Nat) (write : Bool) : Option Nat :=
  (List.range ((va + len + 2 ^ 16 - 1) / 2 ^ 16 - va / 2 ^ 16)).findSome? (fun i =>
    match s.svcPlace ctx (max va ((va / 2 ^ 16 + i) * 2 ^ 16)) with
    | .error c => some c
    | .ok p => if write && !pteW p.leaf then some 6 else if Config.controlBase ≤ p.pa then some 2
      else if s.unreachable p then some 0x0A else none)

/-- Every byte of a transfer is home: a PUT is answered, and the requests behind it go on. -/
def State.finishXfers (s : State) : State :=
  s.xfers.foldl (fun t x =>
    if x.2.opc = 4 ∧ x.2.complete = true ∧ x.2.late = [] ∧ (t.held ++ t.svcStores).any (fun h => h.grp = xferGroup x.1) = false
      ∧ t.remote.any (fun r => r.grp = xferGroup x.1) = false then
      ({ t with xfers := del t.xfers x.1 }.okay x.2.hdr []).dequeue x.2.hdr.conn
    else t) s

/-- The transfer of a PUT or an UPDATE, with the data that has come. -/
def State.newXfer (s : State) (h : ReqHdr) (va len xfer : Nat) : Xfer :=
  { opc := h.opc, hdr := h, ctx := h.ctx, va := va, len := len,
    got := (s.earlyData h.conn xfer).filter (fun p => p.1 < len) }

/-- Opens it. -/
def State.openXfer (s : State) (h : ReqHdr) (va len xfer : Nat) : State :=
  { s.dropEarly h.conn xfer with xfers := Machine.put s.xfers (xferKey h.conn xfer) (s.newXfer h va len xfer) }

/-- Where a byte of a transfer goes: its store, or the cause that its place gives, 0 while a table entry is held back. -/
def State.putByte (s : State) (key : Nat) (x : Xfer) (p : Nat × Byte) : Except Nat HeldStore :=
  match s.svcPlace x.ctx (x.va + p.1) with
  | .error c => .error c
  | .ok q => .ok {
      module := serviceModule, core := 0, key := q.key, bytes := [p.2], grp := xferGroup key, marked := false, window := 0,
      first := q.pa / 128 % 18 }

/-- These bytes of a PUT's data, and those of it that could not go before, are on their way to their home slices (R270), each as a
store of its own (DESIGN CHOICE, unsafe: assumption log, 15). From one whose place cannot be found yet on they wait; one that has no
place ends the request with its cause. -/
def State.putBytes (s : State) (key : Nat) (x : Xfer) (ps : List (Nat × Byte)) : State :=
  let all := (x.late ++ ps).filter (fun p => p.1 < x.len)
  let rs := all.map (s.putByte key x)
  match rs.findSome? (fun r => match r with
    | .error c => if c = 0 then none else some c
    | .ok _ => none) with
  | some c => s.failXfer key c
  | none =>
    let hs := rs.map (fun r => match r with
      | .ok h => some h
      | .error _ => none)
    let go := (hs.takeWhile Option.isSome).filterMap id
    { s with
      svcStores := s.svcStores ++ go,
      xfers := match find? s.xfers key with
        | some y => Machine.put s.xfers key { y with late := all.drop go.length }
        | none => s.xfers }

/-- The bytes of transfers that wait for their places are tried again. -/
def State.putLate (s : State) : State :=
  s.xfers.foldl (fun t x => if x.2.late = [] then t else t.putBytes x.1 x.2 []) s

def State.runPut (s : State) (h : ReqHdr) (body : List Byte) : State :=
  let va := field body 0 8
  let len := field body 8 8
  let xfer := field body 0x10 4
  match s.rangeCause h.ctx va len true with
  | some c => (s.dropEarly h.conn xfer).refuse h c
  | none =>
    ((s.openXfer h va len xfer).putBytes (xferKey h.conn xfer) (s.newXfer h va len xfer) (s.newXfer h va len xfer).got).finishXfers

/-- A PUT or a GET waits for the tables of its range. -/
def State.putWaits (s : State) (h : ReqHdr) (body : List Byte) : Bool :=
  s.rangeCause h.ctx (field body 0 8) (field body 8 8) true = some 0
def State.getWaits (s : State) (h : ReqHdr) (body : List Byte) : Bool :=
  s.rangeCause h.ctx (field body 0 8) (field body 8 8) false = some 0

def execPut (h : ReqHdr) (body : List Byte) (s : State) : Out :=
  s.requestWhen (!s.putWaits h body) 4 (.put h body) h body 0x14 (s.ownCtx h && (s.rights h.conn).operate) (fun s => s.runPut h body)

/-- The header of a data message: transfer, four zero bytes, offset (R271). -/
def dataHeader (xfer off : Nat) : List Byte := bytesLE 4 xfer ++ bytesLE 4 0 ++ bytesLE 8 off

/-- GET: the data travels by RUD before the reply. It reads at the home slices, after the stores held there, and finds the launch
records as they are (R276). One that meets an uncorrectable codeword is refused (R239; DEDUCED, unsafe: assumption log, 46). -/
def State.runGet (s : State) (h : ReqHdr) (body : List Byte) : State :=
  let va := field body 0 8
  let len := field body 8 8
  match s.rangeCause h.ctx va len false with
  | some c => s.refuse h c
  | none =>
    let keys := (s.rangePlaces h.ctx va len).map Place.key
    let s := s.serviceSends (s.rangePlaces h.ctx va len)
    if s.badCodewords keys ≠ [] then (s.noteWords keys).refuse h 9
    else
      let s := s.flushRing
      let d : Bulk := { conn := h.conn, msg := dataHeader (field body 0x10 4) 0 ++ s.svcBytes h.ctx va len }
      { s with bulk := s.bulk ++ [d] }.okay h []

/-- A GET reaches the homes: it touches the windows over its bytes, and waits on its connection as long as a byte is held
back; a STRANDED window refuses it (R119, R121). -/
def execGet (h : ReqHdr) (body : List Byte) (s : State) : Out :=
  let ps := s.rangePlaces h.ctx (field body 0 8) (field body 8 8)
  let allowed := s.ownCtx h && (s.rights h.conn).operate
  if s.executes 5 h body 0x14 allowed = true ∧ (s.rangeCause h.ctx (field body 0 8) (field body 8 8) false).isNone = true then
    let s := s.serviceReads ps
    if (s.stranded (ps.map (fun p => (0, p.key)))).isSome then .next (s.refuse h 8)
    else if s.rangeHeld ps then
      let c := look ({} : Conn) s.conns h.conn
      .next { s with conns := Machine.put s.conns h.conn { c with queue := [.get h body] } }
    else s.request 5 (.get h body) h body 0x14 true (fun s => s.runGet h body)
  else
    s.requestWhen (!s.getWaits h body) 5 (.get h body) h body 0x14 allowed (fun s => s.runGet h body)

/-- An UPDATE's image has come: where it verifies, its writing begins once those before it are written, else it is refused (R269,
R278). -/
def State.finishUpdate (s : State) (key : Nat) (x : Xfer) : State :=
  let image := (List.range x.len).map (fun i => ((x.got.find? (fun g => g.1 = i)).map Prod.snd).getD 0)
  if Config.sm2Verifies image then
    if s.writing.isSome then { s with toWrite := s.toWrite ++ [(key, image)] } else { s with writing := some (key, image) }
  else ({ s with xfers := del s.xfers key }.refuse x.hdr 2).dequeue x.hdr.conn

/-- The image has been written, and the UPDATE is answered (R278). -/
def State.written (s : State) : State :=
  match (if s.booted then s.writing else none) with
  | none => s
  | some (key, image) =>
    let t := { s with
      flash := image, writing := s.toWrite.head?, toWrite := s.toWrite.tail, xfers := del s.xfers key }
    match find? s.xfers key with
    | some x => (t.okay x.hdr []).dequeue x.hdr.conn
    | none => t

/-- A request that waits on the connection names the transfer. -/
def Conn.names (c : Conn) (xfer : Nat) : Bool :=
  c.queue.any (fun i => xferOf i = some xfer)

/-- Data of a transfer comes, from offset `off` on: data for an unknown transfer is dropped and counted. -/
def State.takeData (s : State) (conn xfer off : Nat) (bytes : List Byte) : State :=
  let key := xferKey conn xfer
  let ps := bytes.mapIdx (fun i b => (off + i, b))
  match find? s.xfers key with
  | none =>
    let c := look ({} : Conn) s.conns conn
    if c.names xfer then
      { s with conns := Machine.put s.conns conn { c with early := c.early ++ ps.map (fun p => (xfer, p)) } }
    else { s with dropped := s.dropped + 1 }
  | some x =>
    let fresh := ps.filter (fun p => p.1 < x.len)
    let y := { x with got := x.got ++ fresh }
    let t := { s with xfers := Machine.put s.xfers key y }
    if x.opc = 4 then (t.putBytes key x fresh).finishXfers
    else if y.complete then t.finishUpdate key y else t

/-- DATA_MESSAGE (R271): a message whose four bytes after XFER are not zero names no transfer, and is dropped and counted
(DEDUCED, unsafe: assumption log, 26). -/
def execDataMessage (conn : Nat) (xfer off : Word64) (bytes : List Byte) (s : State) : Out :=
  .next (if fld xfer.toNat 32 32 ≠ 0 then { s with dropped := s.dropped + 1 }
    else s.takeData conn (fld xfer.toNat 0 32) off.toNat bytes)

/-- The request of the connection that is first in its queue is still held back. -/
def State.headWaits (s : State) (c : Conn) : Bool :=
  match c.queue with
  | .get h body :: _ => s.getWaits h body || s.rangeHeld (s.rangePlaces h.ctx (field body 0 8) (field body 8 8))
  | .put h body :: _ => s.putWaits h body
  | .launch h body _ :: _ => s.launchWaits h body
  | .mapmem h body _ _ _ _ :: _ => s.mapmemWaits h body
  | .unmap h body :: _ => s.unmapWaits h body
  | _ => false

/-- The requests of every connection without an open transfer that wait are executed next. -/
def State.dequeueIdle (s : State) : State :=
  s.conns.foldl (fun t c =>
    if c.2.queue ≠ [] ∧ t.xfers.any (fun x => x.2.hdr.conn = c.1) = false ∧ t.headWaits c.2 = false then t.dequeue c.1 else t) s

/-- MERGE_WINDOW_END (R174): held stores apply, and what waited for them at the home slices goes on. -/
def execMergeWindowEnd (s : State) : Out := .next s.applyHeld.putLate.finishXfers.dequeueIdle

/-! ## PREEMPT (R240, R272) -/

/-- Raises 0x0E in a group: one that is still to start takes it when it does. A pre-emption with reason 0 is the one by which
its instance will be suspended (R240). -/
def State.preemptGroup (s : State) (reason k : Nat) : State :=
  let g := s.grp k
  let ik := instKey k g
  let s := if reason = 0 then s.setInst ik { s.inst ik with pre := some s.cycle } else s
  if g.status = .starting then s.setGrp k { g with preempt := some reason }
  else s.takeTrap k ⟨0x0E, 0, BitVec.ofNat 64 reason⟩

/-- The groups of a context on a core, or on every core. -/
def State.groupsOf (s : State) (ctx core : Nat) : List Nat :=
  (s.groups.filter (fun x => x.2.live && x.2.ctx = ctx && (core = 2 ^ 32 - 1 || coreOf x.1 = core))).map Prod.fst

def State.runPreempt (s : State) (reason : Nat) (h : ReqHdr) (body : List Byte) : State :=
  let core := field body 4 4
  if field body 0 4 ≠ reason ∨ (core ≠ 2 ^ 32 - 1 ∧ Config.cores ≤ core) then s.refuse h 2
  else
    let t := (s.groupsOf h.ctx core).foldl (fun t k => t.preemptGroup reason k) s
    (if reason = 1 ∧ s.groupsOf h.ctx (2 ^ 32 - 1) = [] then t.endContext h.ctx 0x0E else t).okay h []

/-- A PREEMPT whose body gives the REASON of another row is that row's (a REASON that none has is refused by the first). -/
def State.preempt (s : State) (reason : Nat) (i : Instr) (h : ReqHdr) (body : List Byte) : Out :=
  let r := field body 0 4
  if 8 ≤ body.length ∧ r ≤ 2 ∧ r ≠ reason then .next s
  else
    s.request 6 i h body 8 (s.ownCtx h && (s.rights h.conn).operate) (fun s => s.runPreempt reason h body)

def execPreemptSuspend (h : ReqHdr) (body : List Byte) (s : State) : Out := s.preempt 0 (.preemptSuspend h body) h body
def execPreemptEnd (h : ReqHdr) (body : List Byte) (s : State) : Out := s.preempt 1 (.preemptEnd h body) h body
def execPreemptHalt (h : ReqHdr) (body : List Byte) (s : State) : Out := s.preempt 2 (.preemptHalt h body) h body

/-! ## ATTEST, HEALTH, UPDATE (R275, R278, R279) -/

/-- The quote: three measurements, the newest SEQ and the nonce, signed. -/
def State.quote (s : State) (nonce : List Byte) : List Byte :=
  let m := Config.sm3 Config.romBytes ++ Config.sm3 s.image ++ Config.sm3 Config.configBytes ++ bytesLE 8 (s.nextSeq - 1) ++ nonce
  m ++ Config.sm2Sign m

def execAttest (h : ReqHdr) (body : List Byte) (s : State) : Out :=
  s.request 7 (.attest h body) h body 32 (h.ctx = 0 || s.ownCtx h) (fun s => s.okay h (s.quote (body.take 32)))

/-- HEALTH; a CLEAR that no row has is refused. -/
def State.runHealth (s : State) (h : ReqHdr) (body : List Byte) : State :=
  match field body 0 4 with
  | 0 => s.okay h s.healthRecord
  | 1 => (s.okay h s.healthRecord).clearHealth
  | _ => s.refuse h 2

def execHealthRead (h : ReqHdr) (body : List Byte) (s : State) : Out :=
  if 4 ≤ body.length ∧ field body 0 4 = 1 then .next s
  else s.request 8 (.healthRead h body) h body 4 (h.ctx = 0 || s.ownCtx h) (fun s => s.runHealth h body)
def execHealthClear (h : ReqHdr) (body : List Byte) (s : State) : Out :=
  if 4 ≤ body.length ∧ field body 0 4 ≠ 1 then .next s
  else
    s.request 8 (.healthClear h body) h body 4 ((h.ctx = 0 || s.ownCtx h) && (s.rights h.conn).maintain)
      (fun s => s.runHealth h body)

def execUpdate (h : ReqHdr) (body : List Byte) (s : State) : Out :=
  s.request 9 (.update h body) h body 12 ((h.ctx = 0 || s.ownCtx h) && (s.rights h.conn).maintain)
    (fun s =>
      let x := s.newXfer h 0 (field body 0 8) (field body 8 4)
      let t := s.openXfer h 0 (field body 0 8) (field body 8 4)
      if x.complete then t.finishUpdate (xferKey h.conn (field body 8 4)) x else t)

end Sys2Proof.Machine
end

