-- ==== Sys2Proof/Machine/Steward.lean ====
section
/-! DEFINITION. What the steward does besides requests: traps that other agents raise (R233), fault service (R246, R129), the
service's own vector table (R231), suspension and restoring (R240 to R243), throttling (R25), cores mapped out (R10), and
boot (R277, R278). -/

namespace Sys2Proof.Machine
open Sys2Proof

/-- An uncorrectable word of local memory or of the B-store, as a cause 0x09 of group `g` names it, stays so until it is written
(R23, R239). TADDR 0 in the pool names no word: the error is that of a register or of an operand. -/
def State.noteSram (s : State) (g : Nat) (c : Cause) : State :=
  let core := coreOf g
  let a := c.taddr.toNat
  let key := match c.tinfo.toNat % 8 with
    | 0 => if a = 0 then none else (s.localPlace core (s.inst (instKey g (s.grp g))) a).map localKey
    | 1 => if a < 2 ^ 22 then some (bstoreKey (core * 2 ^ 22 + a)) else none
    | _ => none
  match (if c.code = 9 then key else none) with
  | none => s
  | some k => { s with sramBad := addOnce s.sramBad (k / 8) }

/-- TRAP_ENTRY (R233): a cause that another agent has found in a running group. -/
def execTrapEntry (g cause : Nat) (taddr tinfo : Word64) (s : State) : Out :=
  let x := s.grp g
  if x.live = false ∨ x.status = .stopped ∨ cause = 0 ∨ 0x12 < cause then .next s
  else if cause = 0x0E then .next (s.preemptGroup tinfo.toNat g)
  else if x.status ≠ .running then .next s
  else .next ((s.noteSram g ⟨cause, taddr, tinfo⟩).fault g ⟨cause, taddr, tinfo⟩)

/-! ## Fault service -/

/-- FAULT_SERVICE (R246): the page is mapped and the unit runs again, or the fault is handed on as a trap. -/
def execFaultService (g : Nat) (s : State) : Out :=
  let x := s.grp g
  match x.status with
  | .service c =>
    match (if x.live then s.serviceable x.ctx x.pol (x.atPage c) else none) with
    | some l =>
      let va := (x.atPage c).taddr.toNat
      if s.tablesHeld x.ctx va (va + 1) then .next s
      else .next ((s.servicePage x.ctx va l).onGrp g (fun y => { y with status := .running }))
    | none => .next ((s.onGrp g (fun y => { y with status := .running })).takeTrap g c)
  | _ => .next s

/-- WINDOW_RESUME (R129): the fault of a FROZEN window is one that the steward services, and the window lands again from its
mark. -/
def execWindowResume (core slot w : Nat) (s : State) : Out :=
  let ik := core * 16 + slot
  let i := s.inst ik
  let x := look {} i.wins w
  match (if i.live ∧ x.state = .frozen then x.freeze else none) with
  | none => .next s
  | some (_, c) =>
    match s.serviceable i.ctx (s.trapPolicy i.ctx) c with
    | none => .next s
    | some l =>
      if s.tablesHeld i.ctx c.taddr.toNat (c.taddr.toNat + 1) then .next s
      else .next ((s.servicePage i.ctx c.taddr.toNat l).onWin ik w (fun x => { x with state := .landing, freeze := none, strand := 0 }))

/-- WINDOW_STRAND: the steward cannot service the fault (R129). -/
def execWindowStrand (core slot w : Nat) (s : State) : Out :=
  let ik := core * 16 + slot
  let i := s.inst ik
  let x := look {} i.wins w
  match (if i.live ∧ x.state = .frozen then x.freeze else none) with
  | none => .next s
  | some (_, c) =>
    if (s.serviceable i.ctx (s.trapPolicy i.ctx) c).isSome then .next s
    else .next (s.onWin ik w (fun x => { x with state := .stranded }))

/-! ## The service's own vector table (R231; DESIGN CHOICE, unsafe: assumption log, 15) -/

/-- The vector that the group has just entered in the service's own table. -/
def Group.serviceVector (g : Group) : Option Nat :=
  let base := Config.serviceTvec &&& ~~~(0xFFF : Word64)
  if g.priv && g.tvec &&& ~~~(0xFFF : Word64) = base && g.pc = base + BitVec.ofNat 64 (64 * g.tcause.toNat) then
    some g.tcause.toNat
  else none

/-- The bytes of QCFG of the queues that the instance owns and has enabled, by queue (R242, R365). -/
def State.ownQueues (s : State) (core serial : Nat) : List (Nat × Word64) :=
  (s.core core).qcfg.filter (fun q => look 0 (s.core core).qowner q.1 = serial && fld q.2.toNat 28 4 ≠ 0)

/-- The save routine of the service (R240, R242): the group is kept as its ERET would leave it, and exits as suspended; the last
group of its instance keeps what they share. -/
def State.svcSave (s : State) (k : Nat) : State :=
  let g := s.grp k
  let i := s.inst (instKey k g)
  let x := look { set := i.set, taskix := i.taskix, suspended := [], images := [], saved := {}, lm := [], full := [] } s.suspd
    i.serial
  let last : Bool := i.exited.length + 1 = i.groups
  let start := i.localStart (coreOf k)
  let y : SuspInst := { x with
    images := Machine.put x.images g.gidx ({ g with preempt := none, svcCommit := none } : Group).eret, saved := i,
    lm := if last then (s.lm.filter (fun c => start ≤ c.1 && c.1 < start + i.spad * 4096)).map (fun c => (c.1 - start, c.2)) else [],
    full := if last then ((s.full.filter (fun c => c.2 && start / 16 ≤ c.1 && c.1 < (start + i.spad * 4096) / 16)).map
      (fun c => c.1 - start / 16)) else [],
    queues := if last then s.ownQueues (coreOf k) i.serial else [] }
  let t := ({ s with suspd := Machine.put s.suspd i.serial y }.leaveCrew k).onGrp k (fun g => { g with susp := true })
  t.leaveSlot k

/-- The save routine's COMMIT.core, before it exits (R153, R242): it begins, goes on, or is complete. A trap of it ends the
context, as any cause does in the service's table, and the launch records show it (R276). -/
def State.svcCommits (s : State) (k : Nat) : State :=
  let s := s.commitsStep
  let g := s.grp k
  match g.svcCommit with
  | none => (s.beginCommit k 4 (s.streamsOf k 4)).onGrp k (fun g => { g with svcCommit := some s.nextCommit })
  | some id =>
    let t := match find? s.commits id with
      | some c => (s.placeMarkers id c.todo).commitStep id true
      | none => s
    match find? t.commits id with
    | none => t.svcSave k
    | some c =>
      match (t.unreachedBy c).head?, c.lossCause with
      | some _, _ => ((t.commitStep id false).noteCause (coreOf k) g.ctx (t.graphOf k) ⟨0x0A, 0, 0⟩).endContext g.ctx 0x0A
      | none, some x =>
        if c.finished then ((t.closeCommit id).noteCause (coreOf k) g.ctx (t.graphOf k) x).endContext g.ctx x.code else t
      | none, none =>
        if c.finished then (((t.release k (g.unit (.commit 4)) 4).getD t).closeCommit id).svcSave k else t

/-- What the service's handler does for a group that has entered its table: 0x0E by its reason, and any other cause ends
the context. -/
def State.serviceHandler (s : State) (k c : Nat) : State :=
  let g := s.grp k
  if c = 0x0E then
    match g.tinfo.toNat with
    | 0 => if isSteward (coreOf k) then s.svcSave k else s.svcCommits k
    | 1 => s.endContext g.ctx 0x0E
    | _ => s.onGrp k (fun g => { g with status := .halted })
  else s.endContext g.ctx c

/-! ## Restoring (R240 to R243) -/

/-- A group as the restore entry finds it (R241). -/
def State.restoreGroup (s : State) (t : TaskSet) (tslot gidx : Nat) (x : SuspInst) (saves : List Word64) : Group :=
  let g := s.newGroup t tslot gidx
  { g with
    status := .running, priv := true, pc := g.tvec, tcause := 0,
    taddr := if x.suspended.contains gidx then saves.getD gidx 0 else 0 }

/-- Groups of a restored instance, in the listed slots: those of its own routine at the restore entry, those that the
service saved as they were. -/
def State.restoreGroups (s : State) (t : TaskSet) (core tslot : Nat) (x : SuspInst) (saves : List Word64) :
    List Nat → List Nat → State
  | g :: gs, j :: js =>
    let y := match find? x.images g with
      | some y => { y with tslot := tslot, lastIssue := s.cycle, status := .running, crew := 0, heldCbar := none, susp := false }
      | none => s.restoreGroup t tslot g x saves
    (s.setGrp (core * 64 + j) y).restoreGroups t core tslot x saves gs js
  | _, _ => s

/-- The cause that binding window `w` again from its mark meets: reading its record, and WSET's checks of it (R116, R132, R139). -/
def State.againCause (s : State) (ik : Nat) (w : Window) : Option Cause :=
  let i := s.inst ik
  match (if w.rg then s.translateAll (ik / 16) i.ctx false (sixteens w.raddr.toNat 4) else .ok []) with
  | .error c => some c
  | .ok _ => s.recordCause (ik / 16) i w.raddr.toNat 0 { w.rcd with start := w.mark / 16 }

/-- The same once the lazy pages that it meets under FORWARD have been serviced, at most as many as given (R246). -/
def State.checkAgain (s : State) (ik : Nat) (w : Window) : Nat → State × Option Cause
  | 0 => (s, s.againCause ik w)
  | m + 1 =>
    match s.againCause ik w with
    | none => (s, none)
    | some c =>
      match s.serviceable (s.inst ik).ctx (s.trapPolicy (s.inst ik).ctx) c with
      | none => (s, some c)
      | some l => (s.servicePage (s.inst ik).ctx c.taddr.toNat l).checkAgain ik w m

/-- The restore routine of an instance's group 0 meets a cause: a double trap (R238). -/
def State.restoreTrap (s : State) (ik : Nat) (c : Cause) : State :=
  (s.onGrp (s.leader ik) (fun g => { g with priv := true, tcause := 0 })).takeTrap (s.leader ik) c

/-- Windows of a saved instance in the order of their bindings, each bound again as the restore routine's WSET binds it, from its
mark on (R139); none where a line of a destination is held, or a page walk waits. A record that WSET refuses ends the context
(DESIGN CHOICE, unsafe: assumption log, 15). -/
def State.rebind (s : State) (ik : Nat) : List (Nat × Window) → Option State
  | [] => some s
  | (n, w) :: ws =>
    if w.state = .empty then s.rebind ik ws
    else
      match s.checkAgain ik w recordPages with
      | (t, some c) => if c.code = 0 then none else some (t.restoreTrap ik c)
      | (t, none) =>
        let core := ik / 16
        let r : WinRec := { w.rcd with start := w.mark / 16 }
        let lines := if r.dkind = 2 then t.windowLines core (t.inst ik).ctx r else []
        if t.linesHeld (.engine ik n) core lines then none
        else (t.bindWindow ik n r w.raddr.toNat w.rg lines t.cycle 0).rebind ik ws

/-- The engines that windows need when they are bound again. -/
def enginesAgain (ws : SMap Window) : Nat := (ws.filter (fun w => w.2.state ≠ .empty && w.2.mark ≠ w.2.total)).length

/-- The instances that were suspended together with suspended instance `x`, numbered `id` (R240). -/
def State.suspBatch (s : State) (x : SuspInst) (id : Nat) : List Nat :=
  let ctx := fun (h : Nat) => (find? s.sets h).map TaskSet.ctx
  if x.pre.isNone then [id]
  else (s.suspd.filter (fun y => y.2.core = x.core && y.2.pre = x.pre && ctx y.2.set = ctx x.set)).map Prod.fst

/-- An instance that was pre-empted with suspended instance `x` is still in its save routine. -/
def State.saving (s : State) (x : SuspInst) : Bool :=
  x.pre.isSome && s.insts.any (fun y => y.1 / 16 = x.core && y.2.live && y.2.pre = x.pre
    && some y.2.ctx = (find? s.sets x.set).map TaskSet.ctx
    && (s.coreGroups x.core).any (fun g => g.2.live && g.2.tslot = y.1 % 16
      && (g.2.preempt.isSome || (g.2.priv && g.2.tcause = 0x0E))))

/-- The page that the next word of group `k` meets missing is mapped, where the steward may map it (R246). -/
def State.serviceFetch (s : State) (k : Nat) : State :=
  let g := s.grp k
  match s.fetch k with
  | .ok _ => s
  | .error c =>
    match s.serviceable g.ctx g.pol (g.atPage c) with
    | none => s
    | some l => if s.tablesHeld g.ctx g.pc.toNat (g.pc.toNat + 1) then s else s.servicePage g.ctx g.pc.toNat l

/-- Whether the next word of group `k` is a CBAR; none where it cannot be read yet. Where its fetch meets a cause that stays, the word
is the CBAR whose arrival the group has recorded, if `old`, what was saved of it, has one there (R58, R243; DEDUCED, unsafe:
assumption log, 26). -/
def State.atCbar (s : State) (k : Nat) (old : Group) : Option Bool :=
  match s.fetch k with
  | .error c => if c.code = 0 then none else some (old.heldCbar.any (fun h => h.1 == (s.grp k).pc))
  | .ok (w, _) => some (decode w = some .cbar)

/-- The lowest of the phases of a crew's members, counted modulo 16: none of them is more than two ahead of it (R39, R243). -/
def lowestPhase (ps : List Nat) : Nat := (ps.find? (fun p => ps.all (fun q => (q + 16 - p) % 16 ≤ 2))).getD 0

/-- The crews of groups that the service restores, given with what they were: each joins its saved tag; a group that had arrived
in the open phase, its PHASE being one above the lowest among the members, arrives again, unless its TEPC names the CBAR that
does (R243). None where a crew finds no slot, or where the word at such a TEPC cannot be read yet. -/
def State.rejoin (s : State) (ks : List (Nat × Group)) : Option State :=
  let arrived := ks.filter (fun (y : Nat × Group) =>
    let ps := (ks.filter (fun (z : Nat × Group) => z.2.crewTag = y.2.crewTag)).map (fun (z : Nat × Group) => z.2.crewPhase)
    y.2.crewPhase = (lowestPhase ps + 1) % 16)
  (ks.foldl (fun (t : Option State) y => t.bind (fun t => t.joinCrew y.1 y.2.crewTag 0)) (some s)).bind (fun t =>
    arrived.foldl (fun (r : Option State) (y : Nat × Group) =>
      let r := r.map (fun t => t.serviceFetch y.1)
      match r, r.bind (fun t => t.atCbar y.1 y.2) with
      | some t, some false =>
        some (match runCbar false ((t.grp y.1).unit .cbara) { t with cur := y.1 } with
          | .done u => u
          | _ => t)
      | some t, some true => some t
      | _, _ => none) (some t))

/-- The restored groups of these instances that had a crew, with what they were when the service saved them. -/
def State.crewImages (s : State) (core : Nat) (xs : List (Nat × SuspInst)) : List (Nat × Group) :=
  (s.coreGroups core).filterMap (fun y =>
    (xs.find? (fun x => y.2.live && x.1 = (s.inst (instKey y.1 y.2)).serial)).bind (fun x =>
      (find? x.2.images y.2.gidx).bind (fun old => if old.inCrew then some (y.1, old) else none)))

/-- A queue that the instance saved is another's on the core. -/
def State.queueTaken (s : State) (core : Nat) (x : SuspInst) : Bool :=
  x.queues.any (fun q => fld (look 0 (s.core core).qcfg q.1).toNat 28 4 ≠ 0
    && s.insts.any (fun y => y.1 / 16 = core && y.2.live && y.2.serial = look 0 (s.core core).qowner q.1))

/-- One suspended instance is placed on a core again (R241, R242): it fits, its PLACE allows it, and there is room for its
windows' engines and lines and its queues. -/
def State.restoreOne (s : State) (core inst : Nat) (saves : List Word64) (x : SuspInst) : Option State :=
  match find? s.sets x.set, s.freeTslot core with
  | some t, some slot =>
    match s.freeRun core (8 * partSpad t.part) with
    | none => none
    | some base =>
      let ik := core * 16 + slot
      let own : Bool := x.images = []
      let wins := if own then [] else x.saved.wins
      let ended := if own then [] else (List.range (partGroups t.part)).filter (fun g =>
        (find? x.images g).isNone && !x.suspended.contains g)
      let held := if own then demand t.part
        else (x.images.map (fun y => y.2.coursesOf y.2.blocks)).sum + 8 * partSpad t.part + partAcc t.part * partWidth t.part / 2
      let gs := (List.range (partGroups t.part)).filter (fun g => !ended.contains g)
      if s.fits core t = false ∨ t.allows core = false ∨ isSteward core ≠ s.isStewardCtx t.ctx
        ∨ (s.core core).free < held ∨ Config.engines < s.enginesUsed core + enginesAgain wins ∨ s.queueTaken core x = true
        ∨ (saves.length ≠ partGroups t.part ∧ own = true) then none
      else
        let fresh := t.newInst x.set x.taskix inst base
        let i : Inst := if own then fresh
          else { fresh with
            held := held, exited := ended, tiles := x.saved.tiles,
            wins := mapVals (wins.filter (fun w => w.2.state ≠ .empty)) (fun _ w => w.release) }
        let c := s.core core
        let s := (({ s with suspd := del s.suspd inst }.clearLocal core base i.spad).setCore core { c with
          used := c.used + held, ibuf := [],
          qcfg := x.queues.foldl (fun m (q : Nat × Word64) => Machine.put m q.1 q.2) c.qcfg,
          qowner := x.queues.foldl (fun m (q : Nat × Word64) => Machine.put m q.1 inst) c.qowner }).dropL1 core
        let at0 := core * 2 ^ 20 + base * 512
        let s := { s with
          lm := wrBytes s.lm (x.lm.map (fun (y : Nat × Byte) => (y.1 + at0, y.2))),
          full := x.full.foldl (fun m g => Machine.put m (g + at0 / 16) true) s.full }
        ((s.setInst ik i).restoreGroups t core slot x saves gs ((s.freeSlots core).take gs.length)).rebind ik
          (sortOn (fun w => w.2.order) wins)
  | _, _ => none

/-- These suspended instances, each with its save areas, one after the other. -/
def State.restoreAll (s : State) (core : Nat) : List (Nat × List Word64) → Option State
  | [] => some s
  | y :: ys =>
    match find? s.suspd y.1 with
    | none => s.restoreAll core ys
    | some x => (s.restoreOne core y.1 y.2 x).bind (fun t => t.restoreAll core ys)

/-- SUSPENDED_RESTORE (R240 to R243): the instances that were suspended together are placed again on one core, where there is
room for all of them and their crews. The addresses of the save areas are its argument (R241; DESIGN CHOICE, safe: assumption
log, 14). -/
def execSuspendedRestore (core : Nat) (insts : List Nat) (saves : List (List Word64)) (s : State) : Out :=
  match insts.head?.bind (fun n => (find? s.suspd n).map (fun x => (n, x))) with
  | none => .next s
  | some (id, x) =>
    if sortOn (fun n => n) insts ≠ s.suspBatch x id ∨ s.saving x = true then .next s
    else
      let xs := insts.filterMap (fun n => (find? s.suspd n).map (fun x => (n, x)))
      match (s.restoreAll core (insts.mapIdx (fun i n => (n, saves[i]?.getD [])))).bind (fun t => t.rejoin (t.crewImages core xs)) with
      | some t => .next t
      | none => .next s

/-! ## Throttling, cores mapped out, boot -/

/-- The throttle fraction of every core of a die becomes `n` sixteenths; the change is counted (R25). -/
def State.setThrottle (s : State) (die n : Nat) : State :=
  let ks := (List.range Config.cores).filter (fun c => dieOf c = die)
  { ks.foldl (fun t c => t.setCore c { t.core c with throttle := n }) s with throttles := countUp 32 s.throttles }

/-- The fraction of a die, which all its cores share. -/
def State.throttleOf (s : State) (die : Nat) : Nat := (s.core (128 * die)).throttle

def execThrottleSet (die n : Nat) (s : State) : Out :=
  .next (if die < 2 ∧ n ≤ 16 ∧ s.throttleOf die < n then s.setThrottle die n else s)
def execThrottleLift (die n : Nat) (s : State) : Out :=
  .next (if die < 2 ∧ n < s.throttleOf die then s.setThrottle die n else s)

/-- CORE_MAPPED_OUT (R10, R79, R281). -/
def execCoreMappedOut (core : Nat) (s : State) : Out :=
  if Config.cores ≤ core ∨ (s.core core).mappedOut = true then .next s
  else .next ((s.setCore core { s.core core with mappedOut := true }).coreLimits.dropResv)

/-- What a reset keeps of a channel, a pseudo-channel and a port: the health record's part, with delays and repairs
(R257, R260, R275, R277; DESIGN CHOICE, unsafe: assumption log, 4). -/
def Chan.history (c : Chan) : Chan :=
  { corr := c.corr, uncorr := c.uncorr, lastBad := c.lastBad, fxasat := c.fxasat, events := c.events, parity := c.parity,
    lostN := c.lostN, lost0 := c.lost0, lost1 := c.lost1, lastPar := c.lastPar }
def PChan.history (p : PChan) : PChan :=
  { lrep := p.lrep, rdly := p.rdly, wdly := p.wdly, spares := p.spares, retired := p.retired }

/-- The polder of a channel at boot, in units of 16 MB: what the service sets, from 1 to 16, or 4 (R148). -/
def bootPolder (ch : Nat) : Nat := ((Config.polderSetting ch).map (fun n => max 1 (min 16 n))).getD 4
def Port.history (p : Port) : Port := { step := p.step, crcfail := p.crcfail, replay := p.replay, retrain := p.retrain }

/-- A module after reset with the image that its boot ROM has verified, or none; a started one has what the service sets at
boot: the sizes of the polders and of the spill queue, and the place of the launch records (R81, R148, R276). -/
def State.rebooted (s : State) (flash image : List Byte) (booted : Bool) : State :=
  let r := State.reset
  { r with
    flash := flash, image := image, booted := booted, device := s.device, replace := s.replace, throttles := s.throttles,
    ueDrop0 := s.ueDrop0, ueDrop1 := s.ueDrop1, forced := s.forced, agenda := s.agenda, free := s.free,
    access := if booted then Config.accessTable.foldl (fun m e => Machine.put m e.1 ⟨e.2.1, e.2.2.1, e.2.2.2⟩) [] else [],
    cores := s.cores.foldl (fun m c =>
      if c.2.mappedOut then Machine.put m c.1 { look {} m c.1 with mappedOut := true } else m) r.cores,
    chans := (List.range 256).map (fun ch => (ch, { (s.chan ch).history with
      polder := if booted then bootPolder ch else 4,
      parked := bankSlots * ((s.pchan (2 * ch)).retired.length + (s.pchan (2 * ch + 1)).retired.length) })),
    spillMax := if booted then Config.spillSetting.getD 65536 else 65536, ringBase := if booted then some Config.ringAt else none,
    pchans := mapVals s.pchans (fun _ p => p.history), ports := mapVals s.ports (fun _ p => p.history),
    down := (s.ports.filter (fun p => p.2.step = 3)).map (fun p => s.device * 18 + p.1) }

/-- BOOT (R277, R278): the image in flash is verified and started; where it fails its check, an image that network recovery
receives is verified and written, and the module waits for one that passes. An image that was being written when power failed
is half written, and fails its check. -/
def execBoot (recovery : List Byte) (s : State) : Out :=
  if s.writing.isNone ∧ Config.sm2Verifies s.flash = true then .next (s.rebooted s.flash s.flash true)
  else if Config.sm2Verifies recovery then .next (s.rebooted recovery recovery true)
  else .next { s.rebooted (s.writing.map (fun w => Config.halfWritten s.flash w.2) |>.getD s.flash) [] false with
    writing := s.writing }

end Sys2Proof.Machine
end

