-- ==== Sys2Proof/Machine/Flags.lean ====
section
/-! DEFINITION. The integer comparisons, saturations and divisions, with the flags they raise (R62 to R65, R67). -/

namespace Sys2Proof.Machine
open Sys2Proof

/-- A condition of SCMP and VCMP at any width (R65, R68). -/
def condHolds {n : Nat} (c : SCond) (a b : BitVec n) : Bool :=
  match c with
  | .eq => a == b
  | .ne => a != b
  | .lt => a.slt b
  | .le => a.sle b
  | .gt => b.slt a
  | .ge => b.sle a
  | .ltn => a.ult b
  | .len => a.ule b
  | .gtn => b.ult a
  | .gen => b.ule a
  | .test => a &&& b != 0

/-- `x` held within [lo, hi]. -/
def clampInt (lo hi x : Int) : Int := if x < lo then lo else if hi < x then hi else x

/-- The result of an exact integer operation on `w`-bit words under SAT: modulo 2^w, clamped signed, or clamped unsigned
(R63). Each operand is read as the mode reads it. -/
def saturate (w sat : Nat) (f : (BitVec w → Int) → Int) : BitVec w :=
  match sat with
  | 1 => BitVec.ofInt w (clampInt (-(2 ^ (w - 1))) (2 ^ (w - 1) - 1) (f BitVec.toInt))
  | 2 => BitVec.ofInt w (clampInt 0 (2 ^ w - 1) (f (fun x => x.toNat)))
  | _ => BitVec.ofInt w (f BitVec.toInt)

/-- Quotient and remainder with the DZ flag (R64). -/
def divide {w : Nat} (uns : Bool) (a b : BitVec w) : BitVec w × BitVec w × Flags :=
  if b = 0 then (BitVec.allOnes w, a, { dz := true })
  else if uns then (a / b, a % b, {}) else (a.sdiv b, a.srem b, {})

/-- The high half of a product (R61, R66). -/
def mulHigh {w : Nat} (uns : Bool) (a b : BitVec w) : BitVec w :=
  if uns then BitVec.ofNat w (a.toNat * b.toNat / 2 ^ w) else BitVec.ofInt w (a.toInt * b.toInt / 2 ^ w)

/-- The lesser and the greater of two words. -/
def lesser {w : Nat} (uns : Bool) (a b : BitVec w) : BitVec w := if (if uns then b.ult a else b.slt a) then b else a
def greater {w : Nat} (uns : Bool) (a b : BitVec w) : BitVec w := if (if uns then a.ult b else a.slt b) then b else a

/-- Position and number of bits of the field that operand b of VBFX and VBFI names (R67). -/
def fieldOf (b : Word32) : Nat × Nat :=
  let pos := fld b.toNat 0 5
  (pos, min (pos + fld b.toNat 8 6) 32 - pos)

/-- VBFX (R67). -/
def extractField (uns : Bool) (a b : Word32) : Word32 :=
  let (pos, n) := fieldOf b
  let f : BitVec n := a.extractLsb' pos n
  if uns then f.setWidth 32 else f.signExtend 32

/-- VBFI (R67). -/
def insertField (old a b : Word32) : Word32 :=
  let (pos, n) := fieldOf b
  let m : Word32 := BitVec.ofNat 32 ((2 ^ n - 1) * 2 ^ pos)
  (old &&& ~~~m) ||| ((a <<< pos) &&& m)

/-- Leading zeros and set bits of a word (R66). -/
def leadingZeros (a : Word32) : Nat := if a = 0 then 32 else 31 - Nat.log2 a.toNat
def setBits (a : Word32) : Nat := ((List.range 32).filter (fun i => a.getLsbD i)).length

end Sys2Proof.Machine
end

