-- ==== Sys2Proof/Machine/Sfu.lean ====
section
/-! DEFINITION. The special functions (R74, R395, R396), correctly rounded to f32. Reciprocal and roots are exact integer
arithmetic with a sticky bit. The others enclose the exact value between two fixed-point numbers with `p` fraction bits
and widen `p` until both ends round alike; their values are irrational but for the cases handled first. -/

namespace Sys2Proof.Machine
open Sys2Proof

/-- The eight functions of major 0x1C. -/
inductive SfuOp | rcp | rsq | sqrt | exp | log | sin | cos | tanh
deriving DecidableEq, Repr

/-- A non-negative value between lo / 2^p and hi / 2^p. -/
structure Ivl where
  lo : Nat
  hi : Nat
deriving DecidableEq, Repr

/-- a / b rounded up. -/
def ceilDiv (a b : Nat) : Nat := (a + b - 1) / b

/-- The integer square root, bit by bit from bit `k`. -/
def isqrtFrom (n : Nat) : Nat → Nat → Nat
  | 0, r => r
  | k + 1, r =>
    let t := r + 2 ^ k
    isqrtFrom n k (if t * t ≤ n then t else r)

/-- ⌊√n⌋. -/
def isqrt (n : Nat) : Nat := isqrtFrom n (Nat.log2 n / 2 + 1) 0

def Ivl.mul (p : Nat) (a b : Ivl) : Ivl := ⟨a.lo * b.lo / 2 ^ p, ceilDiv (a.hi * b.hi) (2 ^ p)⟩
def Ivl.div (p : Nat) (a b : Ivl) : Ivl := ⟨a.lo * 2 ^ p / b.hi, ceilDiv (a.hi * 2 ^ p) b.lo⟩
def Ivl.add (a b : Ivl) : Ivl := ⟨a.lo + b.lo, a.hi + b.hi⟩
/-- The difference of two values of which the first is not the smaller. -/
def Ivl.sub (a b : Ivl) : Ivl := ⟨a.lo - b.hi, a.hi - b.lo⟩
def Ivl.scale (a : Ivl) (k : Nat) : Ivl := ⟨a.lo * k, a.hi * k⟩
def Ivl.over (a : Ivl) (k : Nat) : Ivl := ⟨a.lo / k, ceilDiv a.hi k⟩
/-- The rational n / d. -/
def Ivl.ofRat (p n d : Nat) : Ivl := ⟨n * 2 ^ p / d, ceilDiv (n * 2 ^ p) d⟩

/-- y + y³/3 + y⁵/5 + …, `n` more terms from power `t` = y^k, with the tail below twice the last term (y ≤ 1/3). -/
def atanhFrom (p : Nat) (y2 : Ivl) : Nat → Nat → Ivl → Ivl → Ivl
  | 0, _, t, acc => ⟨acc.lo, acc.hi + 2 * t.hi + 1⟩
  | n + 1, k, t, acc => atanhFrom p y2 n (k + 2) (t.mul p y2) (acc.add (t.over k))

def atanhIvl (p : Nat) (y : Ivl) : Ivl := atanhFrom p (y.mul p y) (p / 3 + 2) 1 y ⟨0, 0⟩

/-- The sums of the even and of the odd terms of y − y³/3 + y⁵/5 − … for y = 1 / d. -/
def atanFrom (p d : Nat) : Nat → Nat → Ivl → Ivl → Ivl → Ivl × Ivl
  | 0, _, t, a, b => (⟨a.lo, a.hi + t.hi + 1⟩, ⟨b.lo, b.hi + t.hi + 1⟩)
  | n + 1, k, t, a, b => atanFrom p d n (k + 2) (t.over (d * d)) b (a.add (t.over k))

/-- arctan(1 / d). -/
def atanIvl (p d : Nat) : Ivl :=
  let r := atanFrom p d (2 * (p / 8 + 2)) 1 (Ivl.ofRat p 1 d) ⟨0, 0⟩ ⟨0, 0⟩
  r.1.sub r.2

/-- π = 16 arctan(1/5) − 4 arctan(1/239). -/
def piIvl (p : Nat) : Ivl := ((atanIvl p 5).scale 16).sub ((atanIvl p 239).scale 4)

/-- ln 2 = 2 artanh(1/3). -/
def ln2Ivl (p : Nat) : Ivl := (atanhIvl p (Ivl.ofRat p 1 3)).scale 2

/-- 1 + x + x²/2! + …, `n` more terms from term `t` of index `k`. -/
def expFrom (p : Nat) (x : Ivl) : Nat → Nat → Ivl → Ivl → Ivl
  | 0, _, t, acc => ⟨acc.lo, acc.hi + 2 * t.hi + 1⟩
  | n + 1, k, t, acc => expFrom p x n (k + 1) ((t.mul p x).over (k + 1)) (acc.add t)

/-- e^x for 0 ≤ x ≤ 32. -/
def expIvl (p : Nat) (x : Ivl) : Ivl := expFrom p x (p + 32) 0 ⟨2 ^ p, 2 ^ p⟩ ⟨0, 0⟩

/-- The sums of the terms x, x⁵/5!, … and of x³/3!, x⁷/7!, …. -/
def sinFrom (p : Nat) (x2 : Ivl) : Nat → Nat → Ivl → Ivl → Ivl → Ivl × Ivl
  | 0, _, t, a, b => (⟨a.lo, a.hi + 2 * t.hi + 1⟩, ⟨b.lo, b.hi + 2 * t.hi + 1⟩)
  | n + 1, k, t, a, b => sinFrom p x2 n (k + 2) ((t.mul p x2).over ((k + 1) * (k + 2))) b (a.add t)

/-- sin x for 0 ≤ x ≤ π/2. -/
def sinIvl (p : Nat) (x : Ivl) : Ivl :=
  let r := sinFrom p (x.mul p x) (2 * (p / 8 + 8)) 1 x ⟨0, 0⟩ ⟨0, 0⟩
  r.1.sub r.2

/-- Rounds the irrational value that lies in `v p` × 2^e to f32 with its flags, at the first of the precisions at which
both ends agree. -/
def ziv (neg : Bool) (e : Int) (v : Nat → Ivl) : List Nat → Nat × Flags
  | [] => (0, {})
  | p :: ps =>
    let i := v p
    let a := f32.round .rne neg ⟨i.lo, e - p, true⟩
    let b := f32.round .rne neg ⟨i.hi - 1, e - p, true⟩
    if a = b ∨ ps = [] then a else ziv neg e v ps

def precisions : List Nat := [256, 512, 1024]

/-- 1 / (m × 2^e), which overflows where m × 2^e is below 2^-128 (R74, R224; DEDUCED, unsafe: assumption log, 23). -/
def rcpMag (m : Nat) (e : Int) : Mag :=
  let k := Nat.log2 m + 32
  ⟨2 ^ k / m, -(k : Int) - e, decide (2 ^ k % m ≠ 0)⟩

/-- √(m × 2^e). -/
def sqrtMag (m : Nat) (e : Int) : Mag :=
  let k : Nat := 64 + (if (e % 2 : Int) = 0 then 0 else 1)
  let n := m * 2 ^ k
  let r := isqrt n
  ⟨r, (e - k) / 2, decide (r * r ≠ n)⟩

/-- 1 / √(m × 2^e). -/
def rsqMag (m : Nat) (e : Int) : Mag :=
  let k : Nat := 2 * (Nat.log2 m + 32) + (if (e % 2 : Int) = 0 then 0 else 1)
  let r := isqrt (2 ^ k / m)
  ⟨r, (-(k : Int) - e) / 2, decide (r * r * m ≠ 2 ^ k)⟩

/-- 2^x for x = ±m × 2^e. -/
def expResult (neg : Bool) (m : Nat) (e : Int) : Nat × Flags :=
  -- beyond these magnitudes the result overflows, or lies far below the least subnormal
  if 0 ≤ e + (Nat.log2 m : Int) - 10 then
    if neg then (0, { uf := true, nx := true }) else (f32.infCode, { ovf := true, nx := true })
  else
    let d : Nat := if e < 0 then 2 ^ (-e).toNat else 1
    let x : Int := if e < 0 then m else m * 2 ^ e.toNat
    let x := if neg then -x else x
    let n := x / (d : Int)
    let fr := (x % (d : Int)).toNat
    if fr = 0 then f32.round .rne false ⟨1, n, false⟩
    else ziv false n (fun p => expIvl p (((ln2Ivl p).scale fr).over d)) precisions

/-- log2 of m × 2^e, m > 0. -/
def logResult (m : Nat) (e : Int) : Nat × Flags :=
  let l := Nat.log2 m
  let n : Int := e + l
  if m = 2 ^ l then ofIntScaled .rne n 0
  else
    -- the fraction of log2 lies in (0, 1); a negative result is n + 1 less its complement
    let frac := fun p => ((atanhIvl p (Ivl.ofRat p (m - 2 ^ l) (m + 2 ^ l))).scale 2).div p (ln2Ivl p)
    if 0 ≤ n then ziv false 0 (fun p => (frac p).add ((Ivl.ofRat p 1 1).scale n.toNat)) precisions
    else ziv true 0 (fun p => ((Ivl.ofRat p 1 1).scale (-n).toNat).sub (frac p)) precisions

/-- sin(π n / d) for 0 < n / d < 1/2. -/
def sinHalfTurns (neg : Bool) (n d : Nat) : Nat × Flags :=
  ziv neg 0 (fun p => sinIvl p (((piIvl p).scale n).over d)) precisions

/-- sin(π x) for x = ±m × 2^e, not zero: exact at multiples of one half. -/
def sinResult (neg : Bool) (m : Nat) (e : Int) : Nat × Flags :=
  let d : Nat := if e < 0 then 2 ^ (-e).toNat else 1
  let r := if e < 0 then m % (2 * d) else 0
  let flip := d ≤ r
  let r := if flip then r - d else r
  if r = 0 then (f32.signed neg 0, {})
  else
    let r := if d < 2 * r then d - r else r
    if 2 * r = d then f32.round .rne (neg ^^ flip) ⟨1, 0, false⟩ else sinHalfTurns (neg ^^ flip) r d

/-- cos(π x) for x = ±m × 2^e. -/
def cosResult (m : Nat) (e : Int) : Nat × Flags :=
  let d : Nat := if e < 0 then 2 ^ (-e).toNat else 1
  let r := if e < 0 then m % (2 * d) else m * 2 ^ e.toNat % 2
  let r := if d < r then 2 * d - r else r
  if 2 * r = d then (0, {})
  else
    let neg := d < 2 * r
    let r := if neg then d - r else r
    if r = 0 then f32.round .rne neg ⟨1, 0, false⟩ else sinHalfTurns neg (d - 2 * r) (2 * d)

/-- tanh of ±m × 2^e, not zero. -/
def tanhResult (neg : Bool) (m : Nat) (e : Int) : Nat × Flags :=
  if 0 ≤ e + (Nat.log2 m : Int) - 4 then
    -- from 16 upward the value lies within 2^−40 below 1
    ziv neg 0 (fun p => ⟨2 ^ p - 2 ^ (p - 40), 2 ^ p⟩) [256]
  else
    let n := if e < 0 then m else m * 2 ^ e.toNat
    let d : Nat := if e < 0 then 2 ^ (-e).toNat else 1
    ziv neg 0 (fun p =>
      let x := expIvl p (Ivl.ofRat p (2 * n) d)
      let one := Ivl.ofRat p 1 1
      (x.sub one).div p (x.add one)) precisions

/-- The result and flags of one lane (R74). -/
def sfuLane (op : SfuOp) (x : Word32) : Word32 × Flags :=
  let iv : Nat × Flags := (f32.nanCode, { iv := true })
  let r : Nat × Flags :=
    match f32.toNum x.toNat with
    | .nan sig => (f32.nanCode, { iv := sig })
    | .inf neg =>
      match op with
      | .rcp => (f32.signed neg 0, {})
      | .rsq => if neg then iv else (0, {})
      | .sqrt | .log => if neg then iv else (f32.infCode, {})
      | .exp => if neg then (0, {}) else (f32.infCode, {})
      | .sin | .cos => iv
      | .tanh => f32.round .rne neg ⟨1, 0, false⟩
    | .fin neg m e =>
      if m = 0 then
        match op with
        | .rcp | .rsq => (f32.signed neg f32.infCode, { dz := true })
        | .sqrt | .sin | .tanh => (f32.signed neg 0, {})
        | .exp | .cos => f32.round .rne false ⟨1, 0, false⟩
        | .log => (f32.signed true f32.infCode, { dz := true })
      else
        match op with
        | .rcp => f32.round .rne neg (rcpMag m e)
        | .rsq => if neg then iv else f32.round .rne false (rsqMag m e)
        | .sqrt => if neg then iv else f32.round .rne false (sqrtMag m e)
        | .exp => expResult neg m e
        | .log => if neg then iv else logResult m e
        | .sin => sinResult neg m e
        | .cos => cosResult m e
        | .tanh => tanhResult neg m e
  (BitVec.ofNat 32 r.1, r.2)

end Sys2Proof.Machine
end

