-- ==== Sys2Proof/Machine/VFloat.lean ====
section
/-! DEFINITION. Floating point in the vector lanes and the special functions: majors 0x19 to 0x1C (R74, R75, R221 to R227,
R327 to R332, R395, R396). -/

namespace Sys2Proof.Machine
open Sys2Proof

/-- A result as a lane's word. -/
def lane32 (r : Nat × Flags) : Word32 × Flags := (BitVec.ofNat 32 r.1, r.2)

/-- An operation on both 16-bit elements of a lane (R222). -/
def packed (f : Nat → Nat → Nat → Nat × Flags) (a b c : Word32) : Word32 × Flags :=
  let lo := f (a.toNat % 2 ^ 16) (b.toNat % 2 ^ 16) (c.toNat % 2 ^ 16)
  let hi := f (a.toNat / 2 ^ 16) (b.toNat / 2 ^ 16) (c.toNat / 2 ^ 16)
  (BitVec.ofNat 32 (hi.1 * 2 ^ 16 + lo.1), lo.2.or hi.2)

/-- The sign bit of an f32, and those of a packed pair (R328). -/
def signF32 : Word32 := 0x80000000
def signPair : Word32 := 0x80008000

/-- FALU in f32: `f` takes the rounding mode and operands a, b and c. -/
def faluF32 (d a : VReg) (b : VSrc) (f : RMode → Nat → Nat → Nat → Nat × Flags) : Flight → State → Res :=
  vectorFlagOp d (fun g u i =>
    lane32 (f u.rmode (u.opA signF32 (g.vreg a i)).toNat (u.opB signF32 (srcVal b g i)).toNat
      (u.opC signF32 (u.addend g d i)).toNat))

/-- FALU on packed pairs. -/
def faluPair (d a : VReg) (b : VSrc) (f : RMode → Nat → Nat → Nat → Nat × Flags) : Flight → State → Res :=
  vectorFlagOp d (fun g u i =>
    packed (f u.rmode) (u.opA signPair (g.vreg a i)) (u.opB signPair (srcVal b g i)) (u.opC signPair (u.addend g d i)))

def execFaddF32 (d a : VReg) (b : VSrc) (s : State) : Out :=
  issue (.faddF32 d a b) (faluF32 d a b (fun m x y _ => f32.add m x y)) s
def execFsubF32 (d a : VReg) (b : VSrc) (s : State) : Out :=
  issue (.fsubF32 d a b) (faluF32 d a b (fun m x y _ => f32.sub m x y)) s
def execFmulF32 (d a : VReg) (b : VSrc) (s : State) : Out :=
  issue (.fmulF32 d a b) (faluF32 d a b (fun m x y _ => f32.mul m x y)) s
def execFmaF32 (d a : VReg) (b : VSrc) (s : State) : Out := issue (.fmaF32 d a b) (faluF32 d a b f32.fma) s
def execFmin (d a : VReg) (b : VSrc) (s : State) : Out :=
  issue (.fmin d a b) (faluF32 d a b (fun _ x y _ => f32.minmax false x y)) s
def execFmax (d a : VReg) (b : VSrc) (s : State) : Out :=
  issue (.fmax d a b) (faluF32 d a b (fun _ x y _ => f32.minmax true x y)) s
def execFaddBf16x2 (d a : VReg) (b : VSrc) (s : State) : Out :=
  issue (.faddBf16x2 d a b) (faluPair d a b (fun m x y _ => bf16.add m x y)) s
def execFmulBf16x2 (d a : VReg) (b : VSrc) (s : State) : Out :=
  issue (.fmulBf16x2 d a b) (faluPair d a b (fun m x y _ => bf16.mul m x y)) s
def execFmaBf16x2 (d a : VReg) (b : VSrc) (s : State) : Out := issue (.fmaBf16x2 d a b) (faluPair d a b bf16.fma) s
def execFaddF16x2 (d a : VReg) (b : VSrc) (s : State) : Out :=
  issue (.faddF16x2 d a b) (faluPair d a b (fun m x y _ => f16.add m x y)) s
def execFmulF16x2 (d a : VReg) (b : VSrc) (s : State) : Out :=
  issue (.fmulF16x2 d a b) (faluPair d a b (fun m x y _ => f16.mul m x y)) s
def execFmaF16x2 (d a : VReg) (b : VSrc) (s : State) : Out := issue (.fmaF16x2 d a b) (faluPair d a b f16.fma) s

/-! ## FCMP (R223, R330) -/

/-- The comparison of two f32 words and the IV it raises. -/
def fcmpLane (c : FCond) (a b : Word32) : Bool × Flags :=
  let x := f32.toNum a.toNat
  let y := f32.toNum b.toNat
  let signalling := x.isSnan || y.isSnan
  match x.compare? y with
  | none =>
    match c with
    | .eq | .ord => (false, { iv := signalling })
    | .ne | .un => (true, { iv := signalling })
    | .lt | .le | .gt | .ge => (false, { iv := true })
  | some v =>
    (match c with
     | .eq => v = 0
     | .ne => v ≠ 0
     | .lt => v < 0
     | .le => v ≤ 0
     | .gt => 0 < v
     | .ge => 0 ≤ v
     | .un => false
     | .ord => true, {})

def execFcmp (c : FCond) (p : PReg) (m : Cmb) (a : VReg) (b : VSrc) (s : State) : Out :=
  issue (.fcmp c p m a b) (fun u s => .done (s.onMe (fun g =>
    let r := fun i => fcmpLane c (g.vreg a i) (srcVal b g i)
    (g.combine p m (g.active u.pfx) (fun i => (r i).1)).raise (orFlags (fun i => (r i).2) (u.lanes g))))) s

/-! ## FCVT (R226, R227, R331, R332) -/

/-- A conversion of one lane's word. -/
def conversion (d a : VReg) (f : RMode → Nat → Nat × Flags) : Flight → State → Res :=
  vectorFlagOp d (fun g u i => lane32 (f u.rmode (g.vreg a i).toNat))

/-- An integer result as a word. -/
def asWord (r : Int × Flags) : Nat × Flags := ((BitVec.ofInt 32 r.1).toNat, r.2)

def execFcvtF32I32 (d a : VReg) (s : State) : Out :=
  issue (.fcvtF32I32 d a) (conversion d a (fun m x => asWord (toIntSat m (-(2 ^ 31)) (2 ^ 31 - 1) (f32.toNum x)))) s
def execFcvtF32N32 (d a : VReg) (s : State) : Out :=
  issue (.fcvtF32N32 d a) (conversion d a (fun m x => asWord (toIntSat m 0 (2 ^ 32 - 1) (f32.toNum x)))) s
def execFcvtI32F32 (d a : VReg) (s : State) : Out :=
  issue (.fcvtI32F32 d a) (conversion d a (fun m x => ofIntScaled m (BitVec.ofNat 32 x).toInt 0)) s
def execFcvtN32F32 (d a : VReg) (s : State) : Out :=
  issue (.fcvtN32F32 d a) (conversion d a (fun m x => ofIntScaled m x 0)) s
def execFcvtF32Bf16 (d a : VReg) (s : State) : Out :=
  issue (.fcvtF32Bf16 d a) (conversion d a (convert f32 bf16)) s
def execFcvtBf16F32 (d a : VReg) (s : State) : Out :=
  issue (.fcvtBf16F32 d a) (conversion d a (fun m x => convert bf16 f32 m (x % 2 ^ 16))) s
def execFcvtF32F16 (d a : VReg) (s : State) : Out :=
  issue (.fcvtF32F16 d a) (conversion d a (convert f32 f16)) s
def execFcvtF16F32 (d a : VReg) (s : State) : Out :=
  issue (.fcvtF16F32 d a) (conversion d a (fun m x => convert f16 f32 m (x % 2 ^ 16))) s

/-- FCVT functions 8 and 9: a code that names no plain binary8 format is an illegal operand (R226). -/
def binary8Op (c : Fin 128) (run : B8Fmt → Flight → State → Res) (u : Flight) (s : State) : Res :=
  match b8Of c.val with
  | none => .trap s u.operand
  | some f => run f u s

def execFcvtF32E8 (d a : VReg) (c : Fin 128) (o : Bool) (s : State) : Out :=
  issue (.fcvtF32E8 d a c o)
    (binary8Op c (fun f => conversion d a (fun m x => f.ofNum m o (f32.toNum x)))) s
def execFcvtE8F32 (d a : VReg) (c : Fin 128) (s : State) : Out :=
  issue (.fcvtE8F32 d a c)
    (binary8Op c (fun f => conversion d a (fun _ x => f32.ofNum .rne (f.toNum (x % 2 ^ 8))))) s
def execFrnd (d a : VReg) (s : State) : Out := issue (.frnd d a) (conversion d a frnd) s
def execFclass (d a : VReg) (s : State) : Out := issue (.fclass d a) (conversion d a (fun _ x => (fclass x, {}))) s
def execFcvtFx64F32 (d a : VReg) (e : BitVec 7) (s : State) : Out :=
  issue (.fcvtFx64F32 d a e) (vectorFlagOp d (fun g u i =>
    lane32 (ofIntScaled u.rmode (g.vpair a i).toInt (-e.toInt)))) s
def execFcvtF32Bf16x2 (d a : VReg) (b : VSrc) (s : State) : Out :=
  issue (.fcvtF32Bf16x2 d a b) (vectorFlagOp d (fun g u i =>
    let lo := convert f32 bf16 u.rmode (g.vreg a i).toNat
    let hi := convert f32 bf16 u.rmode (srcVal b g i).toNat
    (BitVec.ofNat 32 (hi.1 * 2 ^ 16 + lo.1), lo.2.or hi.2))) s

/-! ## The special functions (R74, R75) -/

/-- An SFU instruction takes an entry of its core's queue, which holds its results until SFU_RESULT writes them; with no
entry free it does not issue. -/
def special1C (op : SfuOp) (d a : VReg) (u : Flight) (s : State) : Res :=
  let c := s.core s.here
  if Config.sfuQueue ≤ c.sfu.length then .stall s
  else
    let g := s.me
    let r := fun i => sfuLane op (g.vreg a i)
    let e : SfuEntry := {
      grp := s.cur, unit := u.first, dst := d, res := (u.lanes g).map (fun i => (i, (r i).1)),
      flags := orFlags (fun i => (r i).2) (u.lanes g), at_ := s.cycle }
    .wait (s.setCore s.here { c with sfu := c.sfu ++ [e] }) { u with wait := .sfu }

def execXrcp (d a : VReg) (s : State) : Out := issue (.xrcp d a) (special1C .rcp d a) s
def execXrsq (d a : VReg) (s : State) : Out := issue (.xrsq d a) (special1C .rsq d a) s
def execXsqrt (d a : VReg) (s : State) : Out := issue (.xsqrt d a) (special1C .sqrt d a) s
def execXexp (d a : VReg) (s : State) : Out := issue (.xexp d a) (special1C .exp d a) s
def execXlog (d a : VReg) (s : State) : Out := issue (.xlog d a) (special1C .log d a) s
def execXsin (d a : VReg) (s : State) : Out := issue (.xsin d a) (special1C .sin d a) s
def execXcos (d a : VReg) (s : State) : Out := issue (.xcos d a) (special1C .cos d a) s
def execXtanh (d a : VReg) (s : State) : Out := issue (.xtanh d a) (special1C .tanh d a) s

/-- SFU_RESULT: the results at place `i` of the core's queue are written, in all lanes at once (R75, R396). -/
def execSfuResult (core i : Nat) (s : State) : Out :=
  let c := s.core core
  match c.sfu[i]? with
  | none => .next s
  | some e =>
    .next ((s.setCore core { c with sfu := c.sfu.eraseIdx i }).onGrp e.grp (fun g => (g.takeSfu e).settle e.unit))

end Sys2Proof.Machine
end

