-- ==== Sys2Proof/Machine/Atomic.lean ====
section
/-! DEFINITION. ATOM, RED and LATOM (R141, R142, R159, R309 to R312). -/

namespace Sys2Proof.Machine
open Sys2Proof

/-- What an operation leaves in a word that held `o`: `d` is the lane's data, and for cas the compare value with `n`
the new one (R310). -/
def combineWord (op : AOp) (ty : ATy) (n64 : Bool) (o d n : Nat) : Nat :=
  match op with
  | .xchg => d
  | .cas => if o = d then n else o
  | _ =>
    match redRecord false op ty n64 with
    | some (code, _, _) => (recApply code (tyBytes ty) o d).1
    | none => o

/-- A lane's data and, for cas, its new value: the words at V[VD] and after it. -/
def Group.atomData (g : Group) (ty : ATy) (d : VReg) (lane : Nat) : Nat × Nat :=
  let n := tyBytes ty / 4
  (g.vwide d lane n, g.vwide (d.val + n) lane n)

/-- Each lane in turn on a memory: the memory, and each lane's old value (R310). -/
def atomLanes (op : AOp) (ty : ATy) (n64 : Bool) (data : Nat → Nat × Nat) :
    List (Nat × Nat) → Mem → Mem × List (Nat × Nat)
  | [], m => (m, [])
  | (lane, at_) :: xs, m =>
    let n := tyBytes ty
    let o := rdLE m at_ n
    let d := data lane
    let (m', r) := atomLanes op ty n64 data xs (wrLE m at_ n (combineWord op ty n64 o d.1 d.2))
    (m', (lane, o) :: r)

/-- Writes the old values to V[VD] (R310). -/
def Group.atomResults (g : Group) (ty : ATy) (d : VReg) (rs : List (Nat × Nat)) : Group :=
  rs.foldl (fun g r => g.setWide d r.1 r.2 (tyBytes ty / 4)) g

/-- The determinism fault of a lane (0x11, R159). -/
def detCause (addr lane : Nat) : Cause := ⟨0x11, BitVec.ofNat 64 addr, BitVec.ofNat 64 lane⟩

/-- A lane on an FXA page, whose f32 sum makes a record of 8 bytes, is misaligned (R141). -/
def State.fxaMisaligned (s : State) (core ctx : Nat) (ls : List (Nat × Nat)) : Option Cause :=
  (ls.find? (fun x => x.2 % 8 ≠ 0 && (match s.translate core ctx x.2 x.1 true false with
    | .ok p => p.deferred && pteFxa p.leaf
    | .error _ => false))).map (fun x => misaligned x.2 x.1)

/-- The traps of ATOM and RED up to 0x0A, in the order of R237, or their lanes. Every lane's alignment to its width comes before
any lane's alignment to the 8 bytes of an FXA record (R141; DESIGN CHOICE, unsafe: assumption log, 38). A RED lane on a deferred
page appends, whether or not a plane reaches its home (R312). -/
def State.atomChecks (s : State) (u : Flight) (k : Nat) (red : Bool) (op : AOp) (ty : ATy) (ls : List (Nat × Nat)) :
    Except Cause (List GLane) :=
  let core := coreOf k
  let g := s.grp k
  let n64 : Bool := u.sat = 2
  let first := fun (o : Option Cause) (r : Except Cause (List GLane)) => match o with
    | some c => Except.error c
    | none => r
  first (firstMisaligned (tyBytes ty) ls) <|
  first (if red ∧ op = .add ∧ ty = .f32 then s.fxaMisaligned core g.ctx ls else none) <|
  match s.resolve core g.ctx (tyBytes ty) true ls with
  | .error c => .error c
  | .ok xs =>
    first (firstLane xs (fun x => x.at_.control || x.at_.reduce) (fun x => u.operand (BitVec.ofNat 64 x.va))) <|
    first (firstLane xs (fun x => x.at_.deferred
        && (!red || isSteward core || (redRecord (pteFxa x.at_.leaf) op ty n64).isNone)) deferCause) <|
    first (firstLane xs (fun x => g.det && ty = .f32 && !(x.at_.deferred && pteFxa x.at_.leaf))
        (fun x => detCause x.va x.lane)) <|
    first (firstLane xs (fun x => !x.at_.deferred && s.unreachable x.at_) unreachableCause) <| .ok xs

/-- The home cannot come to hold a lane's word for the instruction yet: what a load would wait for, or a store of the core to
the sector that is still on its way, or of any core to another module's (R164, R174, R311). -/
def State.notAccepted (s : State) (r : Req) (p : Place) : Bool :=
  s.homeHolds r p || (s.core r.core).stores.any (fun e => e.key / 16 = p.key / 16)
    || s.remote.any (fun x => x.key / 16 = p.key / 16)

/-- What the home slices, or the banks of cores, hold for an atomic that goes on waiting for `keys`: no word where an older
instruction holds one of its words, else those that can be `accepted` (R311). -/
def State.askKeys (s : State) (k since : Nat) (first : Word64) (n : Nat) (keys accepted : List Nat) : State :=
  s.holdWords k since first n (if s.heldByOlder k since first n keys then [] else unionOnce [] accepted)

/-- The words that home slices hold for an atomic that goes on waiting. -/
def State.askWords (s : State) (k since : Nat) (first : Word64) (n : Nat) (ls : List GLane) : State :=
  s.askKeys k since first n (ls.map (fun x => x.at_.key))
    ((ls.filter (fun x => !s.notAccepted (.unit k first) x.at_ && !s.markedOff x.at_.key)).map (fun x => x.at_.key))

/-- The words that the banks of cores hold for a LATOM that goes on waiting. -/
def State.askLocal (s : State) (k since : Nat) (first : Word64) (n : Nat) (ls : List LLane) : State :=
  let keys := ls.map (fun x => localKey x.at_)
  s.askKeys k since first n keys (keys.filter (fun a => !s.markedOff a))

/-- An atomic that acts has held all its words, and releases them (R311). -/
def State.holdNone (s : State) (k since : Nat) (first : Word64) (n : Nat) (keys : List Nat) : State :=
  if s.aholds = [] then s else (s.holdWords k since first n keys).holdWords k since first n []

/-- The record that a lane of a RED on a deferred page appends, and the flags of its conversion (R141, R142). -/
def State.redAppend (s : State) (k : Nat) (op : AOp) (ty : ATy) (n64 : Bool) (v : Nat) (p : Place) : State :=
  match redRecord (pteFxa p.leaf) op ty n64 with
  | none => s
  | some (code, wide, conv) =>
    let (x, f) := if conv then fxOfF32 (pteE p.leaf) v else (v, {})
    (s.append k code wide x p).onGrp k (fun g => g.raise f)

/-- ATOM, and RED where `red` (R310 to R312). -/
def runAtom (red : Bool) (op : AOp) (d : VReg) (b : SReg) (o : VReg) (ty : ATy) (u : Flight) (s : State) : Res :=
  let k := s.cur
  let g := s.me
  let core := s.here
  let n := tyBytes ty
  let ls := u.addresses g b o 1
  let spans := s.globalSpans k n true ls
  match s.atomChecks u k red op ty ls with
  | .error c => .trap s c
  | .ok xs =>
    let def_ := xs.filter (fun x => x.at_.deferred)
    let ord := xs.filter (fun x => !x.at_.deferred)
    let need := linesOf xs
    if g.sameBytes u spans then .stall s
    else
      match s.missRoom k u need with
      | (false, t) => .stall t
      | (true, t) =>
        if !(t.core core).logRoom (logNeed xs) then .stall t
        else
          let keys := ord.map (fun x => x.at_.key)
          let since := s.ageOf k u
          let t := t.noteRefusals (.unit k u.first) ord
          match t.badLane (ord.filter (fun x => !(t.notAccepted (.unit k u.first) x.at_ || t.heldByOlder k since u.first n [x.at_.key]))),
              t.strandedLane ord with
          | some c, _ => .trap s c
          | none, some c => .trap s c
          | none, none =>
            let t := t.touch keys
            match t.markWait keys with
            | some w => .wait ((t.askWords k since u.first n ord).holdMiss k u need) { u.waiting w spans with miss := need }
            | none =>
              match (if ord.any (fun x => t.notAccepted (.unit k u.first) x.at_) || t.heldByOlder k since u.first n keys then none
                else t.readPlanes ord) with
              | none => .wait ((t.askWords k since u.first n ord).holdMiss k u need) { u.waiting .accept spans with miss := need }
              | some far =>
                let t := t.holdNone k since u.first n keys
                let n64 : Bool := u.sat = 2
                let (m, rs) := atomLanes op ty n64 (g.atomData ty d) (ord.map (fun x => (x.lane, x.at_.key))) t.mem
                let t := keys.foldl (fun t a => t.dropSector core a) { t with mem := m }
                let t := def_.foldl (fun t x => t.redAppend k op ty n64 (g.atomData ty d x.lane).1 x.at_) t
                let t := (t.sendReads far).holdMiss k u 0
                .done (if red then t else t.onGrp k (fun g => g.atomResults ty d rs))

def execAtom (op : AOp) (d : VReg) (b : SReg) (o : VReg) (ty : ATy) (s : State) : Out :=
  issue (.atom op d b o ty) (runAtom false op d b o ty) s
def execRed (op : AOp) (d : VReg) (b : SReg) (o : VReg) (ty : ATy) (s : State) : Out :=
  issue (.red op d b o ty) (runAtom true op d b o ty) s

/-- LATOM (R310 to R312). -/
def runLatom (op : AOp) (d : VReg) (b : SReg) (o : VReg) (ty : ATy) (u : Flight) (s : State) : Res :=
  let k := s.cur
  let g := s.me
  let n := tyBytes ty
  let ls := u.addresses g b o 1
  match s.resolveLocal u k n false true ls with
  | .error c => .trap s c
  | .ok ys =>
    match (if g.det = true ∧ ty = .f32 then ys.head? else none) with
    | some x => .trap s (detCause x.addr x.lane)
    | none =>
      let since := s.ageOf k u
      match s.localAccess u k n false true ls with
      | .error (.wait t w _) => .wait (t.askLocal k since u.first n ys) (u.waiting w (s.localSpans k n ls))
      | .error e => e.then s u (s.localSpans k n ls) (fun t _ => .done t)
      | .ok (t, xs) =>
        let t := t.holdNone k since u.first n (xs.map (fun x => localKey x.at_))
        let (m, rs) := atomLanes op ty (u.sat = 2) (g.atomData ty d) (xs.map (fun x => (x.lane, x.at_))) t.lm
        .done ({ t with lm := m }.onGrp k (fun g => g.atomResults ty d rs))

def execLatom (op : AOp) (d : VReg) (b : SReg) (o : VReg) (ty : ATy) (s : State) : Out :=
  issue (.latom op d b o ty) (runLatom op d b o ty) s

end Sys2Proof.Machine
end

