-- ==== Sys2Proof/Machine/Generator.lean ====
section
/-! DEFINITION. Generators: their state (R201, R202), salts (R203), the values of the virtual matrix (R206 to R211), and GSET,
GGET, GSEED and GEVAL (R204, R205, R212, R337 to R339). -/

namespace Sys2Proof.Machine
open Sys2Proof

/-! ## Salts -/

def saltMix (x v : Word64) : Word64 :=
  let y := (x ^^^ v) * 0x9E3779B97F4A7C15
  y ^^^ (y >>> 29)

/-- The identifiers of a scope code for group `k` (R203). -/
def State.saltIds (s : State) (k code : Nat) : List Word64 :=
  let l := (s.launchOf k).map Prod.snd
  let seq := BitVec.ofNat 64 ((l.map Launch.seq).getD 0)
  let cbase := (l.map Launch.cbase).getD 0
  let i := s.inst (instKey k (s.grp k))
  match code with
  | 1 => [seq, cbase, BitVec.ofNat 64 i.taskix, BitVec.ofNat 64 (s.grp k).gidx]
  | 3 => [seq, cbase, BitVec.ofNat 64 i.taskix]
  | 6 => [seq, cbase, BitVec.ofNat 64 s.device]
  | 7 => [seq, cbase]
  | 8 => [cbase]
  | _ => []

def State.salt (s : State) (k code : Nat) : Word64 := (s.saltIds k code).foldl saltMix 0

/-! ## Values -/

/-- The coordinate hash of R206 at (R, C): its formula, from which two entries of the checkpoint table differ (DEDUCED, unsafe:
assumption log, 12). -/
def coordHash (r c : Word32) (seed : Word64) : Word32 :=
  let h := (r * 0x9E3779B1) ^^^ (c * 0x85EBCA77) ^^^ seed.setWidth 32
  let h := h ^^^ (h >>> 16)
  let h := h * 0x7FEB352D
  let h := h ^^^ (h >>> 15)
  let h := h * 0x846CA68B
  h ^^^ (h >>> 16) ^^^ (seed >>> 32).setWidth 32

/-- The quotient of two naturals, rounded to nearest even in f32. -/
def f32Quotient (n d : Nat) : Nat := (f32.round .rne false ⟨n * 2 ^ 64 / d, -64, n * 2 ^ 64 % d ≠ 0⟩).1

/-- A special function of an f32 word. -/
def sfuOf (op : SfuOp) (x : Nat) : Nat := (sfuLane op (BitVec.ofNat 32 x)).1.toNat

/-- 2 × (x − floor x) of a number that is not negative; ∞ − ∞ is a NaN. -/
def twiceFraction : Num → Num
  | .nan _ => .nan false
  | .inf _ => .nan false
  | .fin neg m e => if 0 ≤ e then .fin false 0 0 else .fin (neg && m % 2 ^ (-e).toNat ≠ 0) (m % 2 ^ (-e).toNat) (e + 1)

/-- v of a ROPE generator (R209). -/
def ropeValue (d base : Nat) (r c : Word32) : Num :=
  let l := sfuOf .log base
  let q := f32Quotient (2 * (c.toNat / 2)) d
  let f := sfuOf .exp (f32.mul .rne (q ^^^ 0x80000000) l).1
  let x := (f32.ofNum .rne ((Num.fin false r.toNat 0).mul (f32.toNum f)).1).1
  let y := (f32.ofNum .rne (twiceFraction (f32.toNum x))).1
  f32.toNum (sfuOf (if c.toNat % 2 = 0 then .cos else .sin) y)

/-- v of a MASK generator (R210). -/
def maskValue (g : Gen) (r c h : Word32) : Bool :=
  let ri : Int := r.toNat
  let ci : Int := c.toNat
  let p1 := g.param1.toNat
  let p2 := g.param2.toInt
  match g.param0.toNat with
  | 0 => ci ≤ ri + p2
  | 1 => ri - p1 ≤ ci && ci ≤ ri + p2
  | 2 => r.toNat / p1 = c.toNat / p1
  | _ => h.toNat < p1

/-- v at coordinates (r, c) (R206, R208). -/
def Gen.exact (g : Gen) (r c : Word32) : Num :=
  let rr := r + g.row0
  let cc := c + g.col0
  let h := coordHash rr cc g.seed
  let x := h.toNat
  match g.kind.toNat with
  | 0 => .fin (h.getLsbD 31) 1 0
  | 1 =>
    let v : Int := (fld x 0 8 + fld x 8 8 + fld x 16 8 + fld x 24 8 : Nat) - (510 : Int)
    .fin (v < 0) v.natAbs 0
  | 2 => ropeValue g.param0.toNat g.param1.toNat rr cc
  | _ => .fin false (if maskValue g rr cc h then 1 else 0) 0

/-- A number in a wide format, saturated to the largest finite magnitude, a zero with sign `neg` (R211). -/
def roundWide (f : FFmt) (neg : Bool) (x : Num) : Nat :=
  let v := (f.ofNum .rne x).1
  match x with
  | .nan _ => f.nanCode
  | .inf n => f.signed n f.maxCode
  | .fin n _ _ =>
    if v % f.signBit = f.infCode then f.signed n f.maxCode
    else if v % f.signBit = 0 then f.signed neg 0 else v

/-- A number as an integer of 8 bits, rounded and saturated to [lo, hi]; a NaN is 0. -/
def roundByte (lo hi : Int) (x : Num) : Nat := (BitVec.ofInt 8 (toIntSat .rne lo hi x).1).toNat

/-- The value of the generator at (r, c) as a code of OUTFMT (R208, R211). -/
def Gen.code (g : Gen) (r c : Word32) : Nat :=
  let scale := f32.toNum g.scale.toNat
  let x := ((g.exact r c).mul scale).1
  let neg := g.scale.getLsbD 31
  match g.outfmt.toNat with
  | 0x00 => roundWide f32 neg x
  | 0x01 => roundWide bf16 neg x
  | 0x02 => roundWide f16 neg x
  | 0x03 => roundByte (-128) 127 x
  | 0x04 => roundByte 0 255 x
  | o =>
    match b8Of o with
    | some f => (f.ofNum .rne false x).1
    | none => 0

/-- The number that an element code of format `fmt` stands for (R7, R216, R217). -/
def codeNum (fmt v : Nat) : Num :=
  match fmt with
  | 0x00 => f32.toNum v
  | 0x01 => bf16.toNum v
  | 0x02 => f16.toNum v
  | 0x03 =>
    let x := (BitVec.ofNat 8 v).toInt
    .fin (x < 0) x.natAbs 0
  | 0x04 => .fin false (v % 256) 0
  | o =>
    match b8Of o with
    | some f => f.toNum v
    | none => .nan false

/-- The generator's value widened to f32 (R212). -/
def Gen.wide (g : Gen) (r c : Word32) : Word32 :=
  BitVec.ofNat 32 (f32.ofNum .rne (codeNum g.outfmt.toNat (g.code r c))).1

/-! ## Instructions -/

/-- The fields of the four scalars of GSET, S still without its salt (R202). -/
def genOf (w seed rc p : Word64) : Gen :=
  { kind := w.extractLsb' 0 4, outfmt := w.extractLsb' 4 8, scope := w.extractLsb' 12 4, param0 := w.extractLsb' 16 16,
    scale := w.extractLsb' 32 32, seed := seed, row0 := rc.extractLsb' 0 32, col0 := rc.extractLsb' 32 32,
    param1 := p.extractLsb' 0 32, param2 := p.extractLsb' 32 32 }

/-- The checks of GSET (R202). -/
def Gen.good (g : Gen) : Bool :=
  let o := g.outfmt.toNat
  let finite := fun x : Word32 => (f32.toNum x.toNat).isNan = false && fld x.toNat 23 8 ≠ 255
  g.kind.toNat ≤ 3 && (o ≤ 4 || (b8Of o).isSome) && [1, 3, 6, 7, 8, 9].contains g.scope.toNat && finite g.scale
    && (g.kind.toNat ≠ 2 || (g.param0 ≠ 0 && finite g.param1 && g.param1.toNat ≠ 0 && !g.param1.getLsbD 31))
    && (g.kind.toNat ≠ 3 || (g.param0.toNat ≤ 3 && !(g.param0.toNat = 2 && g.param1 = 0)))

/-- GSET (R202). -/
def runGset (r : GReg) (a : SReg) (u : Flight) (s : State) : Res :=
  let g := s.me
  if 60 < a.val then .trap s u.operand
  else
    let x := genOf (g.sreg a) (g.sreg (a.val + 1)) (g.sreg (a.val + 2)) (g.sreg (a.val + 3))
    if x.good then
      .done (s.onMe (fun g => g.setGen r { x with seed := x.seed ^^^ s.salt s.cur x.scope.toNat }))
    else .trap s u.operand
def execGset (g : GReg) (a : SReg) (s : State) : Out := issue (.gset g a) (runGset g a) s

/-- GGET (R205). -/
def runGget (r : GReg) (d : SReg) (u : Flight) (s : State) : Res :=
  if 60 < d.val then .trap s u.operand
  else
    let x := s.me.gen r
    let w : Word64 := (x.scale ++ x.param0 ++ x.scope ++ x.outfmt ++ x.kind : Word64)
    .done (s.onMe (fun g => (((g.setS d w).setS (d.val + 1) (x.seed ^^^ s.salt s.cur x.scope.toNat)).setS (d.val + 2)
      (x.col0 ++ x.row0 : Word64)).setS (d.val + 3) (x.param2 ++ x.param1 : Word64)))
def execGget (g : GReg) (d : SReg) (s : State) : Out := issue (.gget g d) (runGget g d) s

/-- GSEED (R204). -/
def runGseed (r : GReg) (a : SReg) (_u : Flight) (s : State) : Res :=
  let x := s.me.gen r
  let salt := s.salt s.cur x.scope.toNat
  .done (s.onMe (fun g => g.setGen r { x with seed := x.seed ^^^ salt ^^^ saltMix salt (g.sreg a) }))
def execGseed (g : GReg) (a : SReg) (s : State) : Out := issue (.gseed g a) (runGseed g a) s

/-- GEVAL (R212). -/
def execGeval (g : GReg) (d : VReg) (a : VReg) (b : VReg) (t : Bool) (s : State) : Out :=
  issue (.geval g d a b t) (vectorOp d (fun me _ i =>
    if t then (me.gen g).wide (me.vreg b i) (me.vreg a i) else (me.gen g).wide (me.vreg a i) (me.vreg b i))) s

end Sys2Proof.Machine
end

