-- ==== Sys2Proof/Machine/Matrix.lean ====
section
/-! DEFINITION. The matrix array: tiles and octets (R186, R187), operand layout and checks (R188 to R192), MMA and MMAS (R193 to
R198, R228, R229, R356, R357), and MZERO, MDRAIN, MSTA and MLDA (R199, R200, R350 to R352). -/

namespace Sys2Proof.Machine
open Sys2Proof

/-! ## Tiles and octets -/

def cellKey (t m n : Nat) : Nat := (t * 64 + m) * 64 + n
def Inst.cell (i : Inst) (t m n : Nat) : Word32 := look 0 i.tiles (cellKey t m n)
/-- Writes cells of one tile, listed as (row, column, value). -/
def Inst.setCells (i : Inst) (t : Nat) (cs : List (Nat × Nat × Word32)) : Inst :=
  { i with tiles := cs.foldl (fun m c => Machine.put m (cellKey t c.1 c.2.1) c.2.2) i.tiles }

/-- The octets with an active lane, and their tile rows (R187). -/
def Group.octets (g : Group) (act : Word64) : List Nat :=
  (List.range (g.width / 8)).filter (fun j => (List.range 8).any (fun i => act.getLsbD (8 * j + i)))
def octetRows (js : List Nat) : List Nat := js.flatMap (fun j => (List.range 8).map (fun i => 8 * j + i))

/-! ## Local ranges under windows (R120, R122) -/

/-- The windows over [key, key + len) of local memory or the B-store; the offset is that of the highest byte they share. -/
def State.rangeCovers (s : State) (key len : Nat) : List Cover :=
  s.insts.flatMap (fun x => if x.2.live then
    x.2.wins.filterMap (fun y =>
      let base := y.2.keyBase (x.1 / 16) x.2
      match base with
      | none => none
      | some b =>
        if y.2.state ≠ .empty ∧ key < b + y.2.total ∧ b < key + len then
          some ⟨x.1, y.1, y.2, min (key + len) (b + y.2.total) - 1 - b⟩
        else none) else [])

/-- What windows, and words held for a LATOM (R311), make of an access to ranges (address, key, length): a stranded cause, or the
state after first touch with a wait. The cause names the first address of a row, which may lie below the mark (DESIGN CHOICE,
unsafe: assumption log, 13). -/
def State.rangeAccess (s : State) (rs : List (Nat × Nat × Nat)) : Except Cause (State × Option Wait) :=
  match rs.findSome? (fun r =>
      ((s.rangeCovers r.2.1 r.2.2).find? (fun c => c.w.state = .stranded && c.above)).map (fun c => strandedCause r.1 c)) with
  | some c => .error c
  | none =>
    let t := rs.foldl (fun t r => (s.rangeCovers r.2.1 r.2.2).foldl (fun t c =>
      if c.w.state = .armed then t.onWin c.inst c.win Window.start else t) t) s
    let hs := rs.flatMap (fun r => (t.rangeCovers r.2.1 r.2.2).filter Cover.holds)
    .ok (t, if hs ≠ [] then some (.mark (hs.any (fun c => c.w.state = .frozen)))
      else if rs.any (fun r => t.wordHeld noGroup 0 r.2.1 r.2.2) then some .accept else none)

/-- The cause 0x09 of the first word of these ranges that is uncorrectable and that no mark and no held word keeps from being read
(R237, R239). -/
def State.rangeBad (s : State) (rs : List (Nat × Nat × Nat)) : Option Cause :=
  if s.sramBad = [] then none
  else
    s.sramCause (rs.flatMap (fun r => (List.range ((r.2.1 % 8 + r.2.2 + 7) / 8)).filterMap (fun j =>
      let a := max r.2.1 (r.2.1 / 8 * 8 + 8 * j)
      if s.markedOff a || s.wordHeld noGroup 0 a 1 then none else some (r.1 + (a - r.2.1), a, 1))))

/-- A SELF address of `n` bytes within the instance's local memory (R100, R102). -/
def Inst.selfRange (i : Inst) (a n : Nat) : Bool := a / 2 ^ 20 == 128 && a % 2 ^ 20 + n ≤ i.spad * 4096

/-! ## Kinds (R188) -/

/-- The element size of a kind, and the bytes of one A row, or B column, of a K-block. -/
def kindElem : MKind → Nat
  | .e8 | .e8bs | .i8 => 1
  | .bf16 | .f16 => 2
  | .f32x3 => 4
def kindRow : MKind → Nat
  | .e8 | .i8 => 128
  | .e8bs => 132
  | .bf16 | .f16 => 256
  | .f32x3 => 512

/-- The format of a side's elements, `code` being AFMT or BFMT; none where a kind refuses the code (R192). -/
def kindFmt (k : MKind) (code : Nat) : Option Nat :=
  match k with
  | .e8 => if (b8Of code).isSome then some code else none
  | .e8bs =>
    match b8Block code with
    | some (_, true) => some (code - 8)
    | _ => none
  | .bf16 => some 0x01
  | .f16 => some 0x02
  | .i8 => if code = 3 ∨ code = 4 then some code else none
  | .f32x3 => some 0x00

/-! ## Arithmetic (R228, R229) -/

/-- The two bf16 parts of a finite f32 element. -/
def splitHi (x : Num) : Num :=
  match x, codeNum 1 (roundWide bf16 false x) with
  | .fin neg _ _, .fin _ 0 e => .fin neg 0 e
  | _, y => y
def splitLo (x : Num) : Num := bf16.toNum (bf16.ofNum .rne (x.add .rne (splitHi x).negate).1).1

def Num.isFinite : Num → Bool
  | .fin _ _ _ => true
  | .nan _ => false
  | .inf _ => false

/-- One product of a kind. -/
def mProduct (k : MKind) (a b : Num) : Num :=
  if k = .f32x3 ∧ a.isFinite ∧ b.isFinite then
    let hh := ((splitHi a).mul (splitHi b)).1
    let hl := ((splitHi a).mul (splitLo b)).1
    let lh := ((splitLo a).mul (splitHi b)).1
    ((hh.add .rne hl).1.add .rne lh).1
  else (a.mul b).1

/-- The exact sum of a group of products; an exact zero is −0 only when every product is. -/
def exactSum : List Num → Num
  | [] => .fin false 0 0
  | p :: ps => ps.foldl (fun s x => (s.add .rne x).1) p

/-- A number times 2^(b − 127), for scale byte b (R220). -/
def scaleBy (b : Nat) (x : Num) : Num :=
  match scaleExp b, x with
  | none, _ => .nan false
  | some d, .fin neg m e => .fin neg m (e + d)
  | some _, x => x

/-- The low 32 bits of an integer product of elements. -/
def intOf : Num → Int
  | .fin neg m _ => if neg then -(m : Int) else m
  | .nan _ => 0
  | .inf _ => 0

/-- A group of 32 products added to a cell (R228). -/
def accGroup (k : MKind) (cell : Word32) (ps : List (Num × Num)) (sa sb : Nat) : Word32 :=
  if k = .i8 then cell + BitVec.ofInt 32 ((ps.map (fun p => intOf p.1 * intOf p.2)).sum)
  else
    let s := exactSum (ps.map (fun p => mProduct k p.1 p.2))
    let s := if k = .e8bs then scaleBy sb (scaleBy sa s) else s
    BitVec.ofNat 32 (f32.ofNum .rne ((f32.toNum cell.toNat).add .rne s).1).1

/-! ## Operands (R189, R191, R194) -/

/-- What a matrix instruction reads: kind, formats, A (a base place in local memory, or a generator), B (a base place in
the B-store, or a generator), MSTRIDE, whether A is in 2:4 blocks, and T. -/
structure Operands where
  k : MKind
  fa : Nat
  fb : Nat
  a : Nat ⊕ Gen
  b : Nat ⊕ Gen
  stride : Nat
  sparse : Bool
  t : Bool

/-- The bytes of a 2:4 block (R194). -/
def Operands.block (o : Operands) : Nat := 2 + 8 * kindElem o.k

/-- The place of block (r, c) of the stored matrix. -/
def Operands.blockAt (o : Operands) (base r c : Nat) : Nat := base + r * o.stride + c * o.block

/-- Element (r, c) of a stored 2:4 matrix. -/
def State.sparseElem (s : State) (o : Operands) (base r c : Nat) : Num :=
  let at_ := o.blockAt base (r / 4) (c / 4)
  let mask := rdLE s.lm at_ 2
  let i := 4 * (r % 4) + c % 4
  if mask / 2 ^ i % 2 = 0 then .fin false 0 0
  else
    let slot := ((List.range i).filter (fun j => mask / 2 ^ j % 2 = 1)).length
    codeNum o.fa (rdLE s.lm (at_ + 2 + slot * kindElem o.k) (kindElem o.k))

/-- A[m][k] and B[k][n]. -/
def State.elemA (s : State) (o : Operands) (m k : Nat) : Num :=
  match o.a with
  | .inr g => codeNum o.fa (if o.t then g.code (BitVec.ofNat 32 k) (BitVec.ofNat 32 m) else g.code (BitVec.ofNat 32 m) (BitVec.ofNat 32 k))
  | .inl base =>
    if o.sparse then (if o.t then s.sparseElem o base k m else s.sparseElem o base m k)
    else
      codeNum o.fa (rdLE s.lm (base + m * o.stride + k / 128 * kindRow o.k + k % 128 * kindElem o.k) (kindElem o.k))
def State.elemB (s : State) (o : Operands) (k n : Nat) : Num :=
  match o.b with
  | .inr g =>
    codeNum o.fb (if o.t && !o.sparse then g.code (BitVec.ofNat 32 n) (BitVec.ofNat 32 k)
      else g.code (BitVec.ofNat 32 k) (BitVec.ofNat 32 n))
  | .inl base =>
    codeNum o.fb (rdLE s.bstore (base + (k / 128 * 64 + n) * kindRow o.k + k % 128 * kindElem o.k) (kindElem o.k))

/-- Scale byte q of block b, of A row m and of B column n (kind 1). -/
def State.scaleA (s : State) (o : Operands) (m b q : Nat) : Nat :=
  match o.a with
  | .inl base => rdLE s.lm (base + m * o.stride + b * 132 + 128 + q) 1
  | .inr _ => 127
def State.scaleB (s : State) (o : Operands) (n b q : Nat) : Nat :=
  match o.b with
  | .inl base => rdLE s.bstore (base + (b * 64 + n) * 132 + 128 + q) 1
  | .inr _ => 127

/-- AccBlock: a cell with K-block b added (R193, R228). -/
def State.accBlock (s : State) (o : Operands) (cell : Word32) (m n b : Nat) : Word32 :=
  (List.range 4).foldl (fun c q =>
    let ks := (List.range 32).map (fun i => 128 * b + 32 * q + i)
    accGroup o.k c (ks.map (fun k => (s.elemA o m k, s.elemB o k n))) (s.scaleA o m b q) (s.scaleB o n b q)) cell

/-- The place and length of what rows of A and columns of B read in K-block b: (address, key, length), A relative to the
address `oa`. -/
def Operands.ranges (o : Operands) (core oa ob b : Nat) (js : List Nat) : List (Nat × Nat × Nat) :=
  let fromA : List (Nat × Nat × Nat) := match o.a with
    | .inr _ => []
    | .inl base =>
      if o.sparse then
        if o.t then (List.range 32).flatMap (fun i => js.map (fun j =>
          let d := o.blockAt 0 (32 * b + i) (2 * j)
          (oa + d, localKey (base + d), 2 * o.block)))
        else js.flatMap (fun j => (List.range 2).map (fun i =>
          let d := o.blockAt 0 (2 * j + i) (32 * b)
          (oa + d, localKey (base + d), 32 * o.block)))
      else (octetRows js).map (fun m =>
        let d := m * o.stride + b * kindRow o.k
        (oa + d, localKey (base + d), kindRow o.k))
  let fromB : List (Nat × Nat × Nat) := match o.b with
    | .inr _ => []
    | .inl _ => [(ob + b * 64 * kindRow o.k, bstoreKey (core * 2 ^ 22 + ob + b * 64 * kindRow o.k), 64 * kindRow o.k)]
  fromA ++ fromB

/-- What it reads in `n` K-blocks from `b` on. -/
def Operands.rangesFrom (o : Operands) (core oa ob b n : Nat) (js : List Nat) : List (Nat × Nat × Nat) :=
  (List.range n).flatMap (fun q => o.ranges core oa ob (b + q) js)

/-- The same as bytes that it has still to read (R164, R197). -/
def Operands.spansFrom (o : Operands) (core oa ob b n : Nat) (js : List Nat) : List Span :=
  (o.rangesFrom core oa ob b n js).map (fun r => ⟨r.2.1, r.2.2⟩)

/-- The first block read in K-block b with more than two elements in a row or a column, lowest r and then lowest c
(R195). -/
def State.badBlock (s : State) (o : Operands) (b : Nat) (js : List Nat) : Option (Nat × Nat) :=
  match o.sparse, o.a with
  | true, .inl base =>
    let rs := if o.t then (List.range 32).map (fun i => 32 * b + i) else js.flatMap (fun j => [2 * j, 2 * j + 1])
    let cs := if o.t then js.flatMap (fun j => [2 * j, 2 * j + 1]) else (List.range 32).map (fun i => 32 * b + i)
    (rs.flatMap (fun r => cs.map (fun c => (r, c)))).find? (fun x =>
      let mask := rdLE s.lm (o.blockAt base x.1 x.2) 2
      let bit := fun i j => mask / 2 ^ (4 * i + j) % 2
      (List.range 4).any (fun i => 2 < bit i 0 + bit i 1 + bit i 2 + bit i 3 || 2 < bit 0 i + bit 1 i + bit 2 i + bit 3 i))
  | _, _ => none

/-! ## MMA and MMAS -/

/-- The operand side: a scalar's value, or a generator whose format matches (R191). -/
def Group.side (g : Group) (x : XSrc) (k : MKind) (fmt : Nat) : Option (Nat ⊕ Gen) :=
  match x with
  | .sca r => some (.inl (g.sreg r).toNat)
  | .gen r => if k = .e8bs ∨ (g.gen r).outfmt.toNat ≠ fmt then none else some (.inr (g.gen r))

/-- The checks of R192 in the order of R237, and the operands. -/
def State.matrixChecks (s : State) (u : Flight) (sparse t : Bool) (k : MKind) (c : TReg) (a b : XSrc) (n : Fin 16)
    (js : List Nat) : Except Cause (Operands × Nat × Nat) :=
  let g := s.me
  let i := s.myInst
  let core := s.here
  match (if i.acc ≤ c.val then none else kindFmt k (fld g.mfmt.toNat 0 8)), kindFmt k (fld g.mfmt.toNat 8 8) with
  | some fa, some fb =>
    match g.side a k fa, g.side b k fb with
    | some x, some y =>
      let oa := x.elim id (fun _ => 0)
      let ob := y.elim id (fun _ => 0)
      let o : Operands :=
        { k := k, fa := fa, fb := fb, a := x.elim (fun v => .inl (i.localStart core + v % 2 ^ 20)) .inr,
          b := y.elim (fun v => .inl (core * 2 ^ 22 + v)) .inr, stride := fld g.mstride.toNat 0 20, sparse := sparse, t := t }
      let rs := (o.rangesFrom core oa ob 0 (n.val + 1) js).filter (fun r => r.2.1 < bstoreBase)
      if x.isLeft ∧ (oa / 2 ^ 20 ≠ 128 ∨ rs.any (fun r => !i.selfRange r.1 r.2.2)) then
        .error (u.operand (BitVec.ofNat 64 oa))
      else if y.isLeft ∧ 2 ^ 22 < ob + (n.val + 1) * 64 * kindRow k ∨ 2 ^ 22 ≤ ob then .error (u.operand (BitVec.ofNat 64 ob))
      else if g.mkres.getLsbD 4 ∧ n.val < fld g.mkres.toNat 0 4 then .error u.operand
      else if oa % (if sparse then 2 else 16) ≠ 0 then .error (misaligned oa 0)
      else if ob % 128 ≠ 0 then .error (misaligned ob 0)
      else .ok (o, oa, ob)
    | _, _ => .error u.operand
  | _, _ => .error u.operand

/-- The group with MKRES naming K-block b, and the unit, if it is in flight, likewise (R198). -/
def Group.interruptAt (g : Group) (u : Flight) (b : Nat) : Group :=
  { g with
    mkres := BitVec.ofNat 64 (16 + b % 16),
    flight := g.flight.map (fun x => if x.first = u.first then { x with prog := b } else x) }

/-- K-blocks from `b` on, as many as `left`, each committed to every row at once; at the first that has to wait the unit
waits there. An uncorrectable word is found before a STRANDED window (R192, R237). -/
def runBlocks (o : Operands) (oa ob c : Nat) (js : List Nat) (u : Flight) (b : Nat) : Nat → State → Res
  | 0, s => .done (s.onMe (fun g => { g with mkres := 0 }))
  | left + 1, s =>
    let rs := o.ranges s.here oa ob b js
    let stop := fun (t : State) (cause : Cause) => Res.trap (t.onMe (fun g => g.interruptAt u b)) cause
    match s.rangeBad rs, s.rangeAccess rs with
    | some cause, _ => stop s cause
    | none, .error cause => stop s cause
    | none, .ok (t, some w) =>
      .wait (if w = .mark true then t.onMe (fun g => { g with mkres := BitVec.ofNat 64 (16 + b % 16) }) else t)
        { u.waiting w (o.spansFrom s.here oa ob b (left + 1) js) with prog := b }
    | none, .ok (t, none) =>
      match t.badBlock o b js with
      | some (r, q) =>
        stop t ⟨0x12, BitVec.ofNat 64 (oa + o.blockAt 0 r q), BitVec.ofNat 64 (r % 2 ^ 16 * 2 ^ 16 + q % 2 ^ 16)⟩
      | none =>
        let i := t.myInst
        let cells := (octetRows js).flatMap (fun m => (List.range 64).map (fun n => (m, n, t.accBlock o (i.cell c m n) m n b)))
        runBlocks o oa ob c js u (b + 1) left (t.setInst t.myInstKey (i.setCells c cells))

/-- The tile that a matrix or tile instruction writes. -/
def tileOf : Instr → Option Nat
  | .mma _ _ c _ _ _ | .mmas _ _ c _ _ _ | .mzero c | .mlda c _ => some c.val
  | _ => none

/-- An instruction of another group of the instance that writes tile `c` came before unit `u` and has still to commit: the
core's matrix pipe takes them in order (R197). -/
def State.tileTaken (s : State) (u : Flight) (c : Nat) : Bool :=
  let mine := s.me.flight.find? (fun x => x.first = u.first)
  (s.coreGroups s.here).any (fun x => x.2.live && x.1 ≠ s.cur && x.2.tslot = s.me.tslot && x.2.flight.any (fun v =>
    !v.done && tileOf v.instr = some c
      && (match mine with
        | none => true
        | some w => v.since < w.since || (v.since = w.since && x.1 < s.cur))))

/-- MMA, and MMAS where `sparse`. -/
def runMatrix (sparse t : Bool) (k : MKind) (c : TReg) (a b : XSrc) (n : Fin 16) (u : Flight) (s : State) : Res :=
  let g := s.me
  let js := g.octets (g.active u.pfx)
  match s.matrixChecks u sparse t k c a b n js with
  | .error cause => .trap s cause
  | .ok (o, oa, ob) =>
    if js = [] then .done (s.onMe (fun g => { g with mkres := 0 }))
    else
      let mine : Bool := g.flight.any (fun x => x.first = u.first)
      let b0 := if mine then u.prog else if g.mkres.getLsbD 4 then fld g.mkres.toNat 0 4 else 0
      let spans := o.spansFrom s.here oa ob b0 (n.val + 1 - b0) js
      if g.sameBytes u spans then .stall s
      else if s.tileTaken u c.val then .wait s { u.waiting .older spans with prog := b0 }
      else runBlocks o oa ob c js u b0 (n.val + 1 - b0) s

def execMma (t : Bool) (k : MKind) (c : TReg) (a b : XSrc) (n : Fin 16) (s : State) : Out :=
  issue (.mma t k c a b n) (runMatrix false t k c a b n) s
def execMmas (t : Bool) (k : MKind) (c : TReg) (a b : XSrc) (n : Fin 16) (s : State) : Out :=
  issue (.mmas t k c a b n) (runMatrix true t k c a b n) s

/-! ## MZERO, MSTA and MLDA -/

/-- The rows of the active octets: these instructions take no guard. -/
def Group.activeRows (g : Group) : List Nat := octetRows (g.octets g.em)

def runMzero (c : TReg) (u : Flight) (s : State) : Res :=
  let i := s.myInst
  if i.acc ≤ c.val then .trap s u.operand
  else if s.tileTaken u c.val then .wait s (u.waiting .older [])
  else
    .done (s.setInst s.myInstKey (i.setCells c (s.me.activeRows.flatMap (fun m => (List.range 64).map (fun n => (m, n, 0))))))
def execMzero (c : TReg) (s : State) : Out := issue (.mzero c) (runMzero c) s

/-- The checks and waits of MSTA and MLDA, and then `f` with the place of the save area (R199, R352). -/
def onSaveArea (write : Bool) (c : TReg) (a : SReg) (u : Flight) (s : State) (f : State → Nat → Res) : Res :=
  let g := s.me
  let i := s.myInst
  let addr := (g.sreg a).toNat
  if i.acc ≤ c.val then .trap s u.operand
  else if !i.selfRange addr (g.width * 256) then .trap s (u.operand (g.sreg a))
  else if addr % 16 ≠ 0 then .trap s (misaligned addr 0)
  else
    let at_ := i.localStart s.here + addr % 2 ^ 20
    let rs := g.activeRows.map (fun m => (addr + 256 * m, localKey (at_ + 256 * m), 256))
    let spans : List Span := rs.map (fun r => ⟨r.2.1, r.2.2⟩)
    if g.sameBytes u spans then .stall s
    else
      match (if write then none else s.rangeBad rs), s.rangeAccess rs with
      | some cause, _ => .trap s cause
      | none, .error cause => .trap s cause
      | none, .ok (t, some w) => .wait t (u.waiting w spans)
      | none, .ok (t, none) => if !write && t.tileTaken u c.val then .wait t (u.waiting .older spans) else f t at_

def runMsta (c : TReg) (a : SReg) (u : Flight) (s : State) : Res :=
  onSaveArea true c a u s (fun t at_ =>
    .done ({ t with lm := t.me.activeRows.foldl (fun m r => (List.range 64).foldl (fun m n =>
      wrLE m (at_ + 256 * r + 4 * n) 4 (t.myInst.cell c r n).toNat) m) t.lm }.healSram
        (t.me.activeRows.map (fun r => (localKey (at_ + 256 * r), 256)))))
def execMsta (c : TReg) (a : SReg) (s : State) : Out := issue (.msta c a) (runMsta c a) s

def runMlda (c : TReg) (a : SReg) (u : Flight) (s : State) : Res :=
  onSaveArea false c a u s (fun t at_ =>
    .done (t.setInst t.myInstKey (t.myInst.setCells c (t.me.activeRows.flatMap (fun r =>
      (List.range 64).map (fun n => (r, n, BitVec.ofNat 32 (rdLE t.lm (at_ + 256 * r + 4 * n) 4))))))))
def execMlda (c : TReg) (a : SReg) (s : State) : Out := issue (.mlda c a) (runMlda c a) s

/-! ## MDRAIN -/

/-- The element size of an output format; none is refused (R200). -/
def drainSize (fmt : Nat) : Option Nat :=
  match fmt with
  | 0x00 | 0x05 => some 4
  | 0x01 | 0x02 => some 2
  | 0x03 | 0x04 => some 1
  | _ => if (b8Of fmt).isSome then some 1 else none

/-- The scale byte of a row of f32 cells for a binary8 format (R200). -/
def drainScale (f : B8Fmt) (cells : List Word32) : Nat :=
  let top := (cells.map (fun c => f32.toNum c.toNat)).foldl (fun a x => match a, x with
    | .fin _ m e, .fin _ n g => if scaled false m e (min e g) < scaled false n g (min e g) then .fin false n g else .fin false m e
    | a, _ => a) (Num.fin false 0 0)
  match top, f.toNum f.maxCode with
  | .fin _ a p, .fin _ b q =>
    if a = 0 then 127
    else
      let e : Int := (Nat.log2 a + p) - (Nat.log2 b + q)
      let e := if a * 2 ^ Nat.log2 b ≤ b * 2 ^ Nat.log2 a then e else e + 1
      if e + 127 < 0 then 0 else min (e + 127).toNat 254
  | _, _ => 127

/-- A cell in an output format; `scale` is the row's scale byte. -/
def drainCell (fmt scale : Nat) (ovf : Bool) (c : Word32) : Nat :=
  let i := c.toInt
  match fmt with
  | 0x00 | 0x05 => c.toNat
  | 0x01 => (bf16.ofNum .rne (f32.toNum c.toNat)).1
  | 0x02 => (f16.ofNum .rne (f32.toNum c.toNat)).1
  | 0x03 => (BitVec.ofInt 8 (if i < -128 then -128 else if 127 < i then 127 else i)).toNat
  | 0x04 => if i < 0 then 0 else if 255 < i then 255 else i.toNat
  | _ =>
    match b8Of fmt, f32.toNum c.toNat with
    | some f, .fin neg m e => (f.ofNum .rne ovf (.fin neg m (e + 127 - scale))).1
    | some f, x => (f.ofNum .rne ovf x).1
    | none, _ => 0

/-- What a row of cells, listed with its columns or rows, writes at `addr`, whose slot follows `len` elements: pieces of
(address, bytes). -/
def drainRow (fmt es len : Nat) (ovf : Bool) (addr : Nat) (cells : List (Nat × Word32)) : List (Nat × List Byte) :=
  let b8 : Bool := (b8Of fmt).isSome
  let scale := match b8Of fmt with
    | some f => drainScale f (cells.map Prod.snd)
    | none => 127
  cells.map (fun c => (addr + c.1 * es, (cellsLE 0 es (drainCell fmt scale ovf c.2)).map Prod.snd))
    ++ (if b8 then [(addr + len * es, BitVec.ofNat 8 scale :: List.replicate 15 0)] else [])

/-- The pieces in runs of up to 16 bytes that no 16-byte boundary cuts, so that each is one store. -/
def joinPieces : List (Nat × List Byte) → List (Nat × List Byte)
  | [] => []
  | (a, bs) :: ps =>
    match joinPieces ps with
    | (a', bs') :: qs =>
      if a + bs.length = a' ∧ a / 16 = (a' + bs'.length - 1) / 16 then (a, bs ++ bs') :: qs else (a, bs) :: (a', bs') :: qs
    | [] => [(a, bs)]

/-- MDRAIN's outputs: rows of (lane, address, length), and the pieces that it writes. -/
def State.drainOut (s : State) (c : TReg) (fmt es addr : Nat) (trans ovf : Bool) :
    List (Nat × Nat × Nat) × List (Nat × List Byte) :=
  let g := s.me
  let i := s.myInst
  let slot := if (b8Of fmt).isSome then 16 else 0
  if trans then
    let size := g.width * es + slot
    ((List.range 64).map (fun n => (0, addr + n * size, size)),
      if g.activeRows = [] then []
      else (List.range 64).flatMap (fun n =>
        drainRow fmt es g.width ovf (addr + n * size) (g.activeRows.map (fun m => (m, i.cell c m n)))))
  else
    let size := 64 * es + slot
    (g.activeRows.map (fun m => (m, addr + m * size, size)),
      g.activeRows.flatMap (fun m => drainRow fmt es 64 ovf (addr + m * size) ((List.range 64).map (fun n => (n, i.cell c m n)))))

/-- The addresses of the 16-byte granules of rows, each with its lane. -/
def granulesOf (rs : List (Nat × Nat × Nat)) : List (Nat × Nat) :=
  rs.flatMap (fun r => (List.range (r.2.2 / 16)).map (fun j => (r.1, (r.2.1 + 16 * j) % 2 ^ 64)))

/-- The part of MDRAIN to local memory: every byte within it, below the marks, then written. -/
def drainLocal (rows : List (Nat × Nat × Nat)) (pieces : List (Nat × List Byte)) (u : Flight) (s : State) : Res :=
  let i := s.myInst
  let place := fun a => i.localStart s.here + a % 2 ^ 20
  match rows.find? (fun r => !i.selfRange r.2.1 r.2.2) with
  | some r => .trap s (u.operand (BitVec.ofNat 64 r.2.1))
  | none =>
    match rows.find? (fun r => r.2.1 % 16 ≠ 0) with
    | some r => .trap s (misaligned r.2.1 0)
    | none =>
      let spans : List Span := rows.map (fun r => ⟨localKey (place r.2.1), r.2.2⟩)
      if s.me.sameBytes u spans then .stall s
      else
        match s.rangeAccess (rows.map (fun r => (r.2.1, localKey (place r.2.1), r.2.2))) with
        | .error cause => .trap s cause
        | .ok (t, some w) => .wait t (u.waiting w spans)
        | .ok (t, none) =>
          .done (State.healSram { t with
              lm := pieces.foldl (fun m p => wrBytes m (p.2.mapIdx (fun j b => (place p.1 + j, b)))) t.lm }
            (pieces.map (fun p => (localKey (place p.1), p.2.length))))

/-- The part of MDRAIN to global memory: every page checked, every byte below the marks, then its stores enter core
order. One that touches more lines than there are miss-status entries takes them all (R85; DEDUCED, unsafe: assumption log, 26). -/
def drainGlobal (rows : List (Nat × Nat × Nat)) (pieces : List (Nat × List Byte)) (u : Flight) (s : State) : Res :=
  let k := s.cur
  let core := s.here
  let ctx := s.me.ctx
  match s.resolve core ctx 16 true (granulesOf rows) with
  | .error c => .trap s c
  | .ok xs =>
    match firstLane xs (fun x => x.at_.control || x.at_.reduce) (fun x => u.operand (BitVec.ofNat 64 x.va)),
        firstLane xs (fun x => x.at_.deferred) (fun x => ⟨7, BitVec.ofNat 64 x.va, BitVec.ofNat 64 x.lane⟩),
        firstLane xs (fun x => s.unreachable x.at_) unreachableCause with
    | some c, _, _ => .trap s c
    | none, some c, _ => .trap s c
    | none, none, some c => .trap s c
    | none, none, none =>
      let spans := spansOf xs 16
      if s.me.sameBytes u spans then .stall s
      else
        let need := min (linesOf xs) Config.missEntries
        match s.missRoom k u need with
        | (false, t) => .stall t
        | (true, t) =>
          match t.strandedLane xs with
          | some c => .trap s c
          | none =>
            let t := t.touch (xs.map (fun x => x.at_.key))
            match t.markWait (xs.map (fun x => x.at_.key)) with
            | some w => .wait (t.holdMiss k u need) { u.waiting w spans with miss := need }
            | none =>
              let put := fun (t : State) (p : Nat × List Byte) => match t.translate core ctx (p.1 % 2 ^ 64) 0 true false with
                | .ok pl => t.storeBytes k pl.key (pl.pa / 128 % 18) p.1 p.2
                | .error _ => t
              .done (((joinPieces pieces).foldl put t).holdMiss k u 0)

/-- MDRAIN (R200, R351). -/
def runMdrain (c : TReg) (a b : SReg) (t g o : Bool) (u : Flight) (s : State) : Res :=
  let me := s.me
  let ofmt := fld me.dfmt.toNat 0 8
  let tfmt := fld me.dfmt.toNat 8 8
  let oa := (me.sreg a).toNat
  let ta := (me.sreg b).toNat
  if s.myInst.acc ≤ c.val then .trap s u.operand
  else
    match drainSize ofmt, (if t then drainSize tfmt else some 1) with
    | some es, some ts =>
      let main := s.drainOut c ofmt es oa false o
      let tr := if t then s.drainOut c tfmt ts ta true o else ([], [])
      let rows := main.1 ++ tr.1
      let pieces := main.2 ++ tr.2
      let crooked : Option Cause :=
        if oa % 16 ≠ 0 then some (misaligned oa 0) else if t ∧ ta % 16 ≠ 0 then some (misaligned ta 0) else none
      if g then
        match crooked with
        | some cause => .trap s cause
        | none => drainGlobal rows pieces u s
      else
        match rows.find? (fun r => !s.myInst.selfRange r.2.1 r.2.2), crooked with
        | none, some cause => .trap s cause
        | _, _ => drainLocal rows pieces u s
    | _, _ => .trap s u.operand
def execMdrain (c : TReg) (a b : SReg) (t g o : Bool) (s : State) : Out := issue (.mdrain c a b t g o) (runMdrain c a b t g o) s

end Sys2Proof.Machine
end

