-- ==== Sys2Proof/Machine/Branch.lean ====
section
/-! DEFINITION. Branches, calls and returns (R314 to R317), the instructions that only move on, EM, and the instructions
that enter and leave a handler (R313, R324, R359, R379, R397). -/

namespace Sys2Proof.Machine
open Sys2Proof

/-- A displacement target: the unit's own instruction word plus 4 × DISP of `n` bits (R315, R35). -/
def Flight.target (u : Flight) (n v : Nat) : Word64 := u.pc + BitVec.ofInt 64 (4 * u.imm n v)

/-- A branch that is taken when `t` holds of its group. -/
def branchIf (t : Group → Bool) (disp : BitVec 18) (u : Flight) (s : State) : Res :=
  .jump s (if t s.me then u.target 18 disp.toNat else u.pc + 4)

/-- The predicate in the lowest lane set in EM, or lane 0. -/
def Group.predAt (g : Group) (p : PReg) : Bool := (g.preg p).getLsbD g.lowest

def execBra (disp : BitVec 18) (s : State) : Out := issue (.bra disp) (branchIf (fun _ => true) disp) s
def execBraIf (p : PReg) (disp : BitVec 18) (s : State) : Out :=
  issue (.braIf p disp) (branchIf (fun g => g.predAt p) disp) s
def execBraIfNot (p : PReg) (disp : BitVec 18) (s : State) : Out :=
  issue (.braIfNot p disp) (branchIf (fun g => !g.predAt p) disp) s
def execBrany (p : PReg) (disp : BitVec 18) (s : State) : Out :=
  issue (.brany p disp) (branchIf (fun g => g.em &&& g.preg p != 0) disp) s
def execBranyNot (p : PReg) (disp : BitVec 18) (s : State) : Out :=
  issue (.branyNot p disp) (branchIf (fun g => g.em &&& ~~~(g.preg p) != 0) disp) s
def execBrall (p : PReg) (disp : BitVec 18) (s : State) : Out :=
  issue (.brall p disp) (branchIf (fun g => g.em &&& ~~~(g.preg p) == 0) disp) s
def execBrallNot (p : PReg) (disp : BitVec 18) (s : State) : Out :=
  issue (.brallNot p disp) (branchIf (fun g => g.em &&& g.preg p == 0) disp) s

/-- The return stack's push and pop: it guides fetch alone (R317). -/
def Group.pushReturn (g : Group) (a : Word64) : Group := { g with rstack := (a :: g.rstack).take 16 }
def Group.popReturn (g : Group) : Group := { g with rstack := g.rstack.tail }

def execCall (disp : BitVec 18) (s : State) : Out :=
  issue (.call disp) (fun u s =>
    .jump (s.onMe (fun g => (g.setS 62 (u.pc + 4)).pushReturn (u.pc + 4))) (u.target 18 disp.toNat)) s

/-- A computed target (R317): misaligned, it traps before anything changes. -/
def computed (a : SReg) (f : Flight → Group → Group) (u : Flight) (s : State) : Res :=
  let t := s.me.sreg a
  if t &&& 3 ≠ 0 then .trap s ⟨4, t, 0⟩ else .jump (s.onMe (f u)) t

def execRet (a : SReg) (s : State) : Out := issue (.ret a) (computed a (fun _ g => g.popReturn)) s
def execBras (a : SReg) (s : State) : Out := issue (.bras a) (computed a (fun _ g => g)) s
def execCalls (a : SReg) (s : State) : Out :=
  issue (.calls a) (computed a (fun u g => (g.setS 62 (u.pc + 4)).pushReturn (u.pc + 4))) s

def execNop (s : State) : Out := issue .nop (fun _ s => .done s) s

/-- YIELD: the group's waiting time starts afresh, and it does not issue in the cycle after (R397). -/
def execYield (s : State) : Out :=
  issue .yield (fun u s => .left ((s.onMe (fun g =>
    { g.advance u s.cycle (u.pc + 4) true with yielded := some (s.cycle + 1) })).calm s.cur)) s

def execEmget (d : SReg) (s : State) : Out := issue (.emget d) (scalarOp d (fun g _ => g.em)) s
def execEmset (a : SReg) (s : State) : Out :=
  issue (.emset a) (fun _ s => .done (s.onMe (fun g => { g with em := g.sreg a &&& g.lanesMask }))) s

def execBkpt (s : State) : Out := issue .bkpt (fun u s => .trapAfter s ⟨0x0F, u.pc, 0⟩) s
def execTrap (c : BitVec 12) (s : State) : Out := issue (.trap c) (fun u s => .trapAfter s ⟨0x10, u.pc, c.setWidth 64⟩) s

/-- ERET (R235): without privilege it takes 0x03. -/
def execEret (s : State) : Out :=
  issue .eret (fun u s =>
    if s.me.priv then .left ((s.onMe (fun g => { g.eret with lastIssue := s.cycle, yielded := none })).calm s.cur)
    else .trap s ⟨3, 0, u.word⟩) s

end Sys2Proof.Machine
end

