-- ==== Sys2Proof/Machine/Stack.lean ====
section
/-! DEFINITION. The divergence stack: SPLIT, FLIP, BRX and MERGE (R30 to R36, R318, R336, R353, R374). -/

namespace Sys2Proof.Machine
open Sys2Proof

def Group.depth (g : Group) : Nat := fld g.dsd.toNat 0 16
def Group.limit (g : Group) : Nat := fld g.dsd.toNat 16 16
def Group.setDepth (g : Group) (d : Nat) : Group := { g with dsd := BitVec.ofNat 64 (g.limit * 2 ^ 16 + d) }

/-- An entry of the stack (R31): ADDR, MASK, OUTER and CTLW. -/
def State.stackWord (s : State) (at_ i : Nat) : Word64 := BitVec.ofNat 64 (rdLE s.lm (at_ + 8 * i) 8)

def ctlKind (w : Word64) : Nat := fld w.toNat 0 2
def ctlTaken (w : Word64) : Bool := w.getLsbD 2
def ctlVa (w : Word64) : Nat := fld w.toNat 8 7
/-- A CTLW with a non-zero reserved bit or KIND 2 or 3. -/
def ctlMalformed (w : Word64) : Bool := w &&& ~~~(0x7F07 : Word64) != 0 || 2 ≤ ctlKind w

/-- The access of a unit to entry `idx`: the state in which it may act, and the entry's place. -/
def State.stackAccess (s : State) (u : Flight) (idx : Nat) (write : Bool) : Except Got (State × Nat) :=
  let a := s.me.dsb.toNat + 32 * idx
  match s.localAccess u s.cur 16 true write [(0, a), (0, a + 16)] with
  | .error e => .error e
  | .ok (t, xs) => .ok (t, (xs.head?.map LLane.at_).getD 0)

/-- A unit that waits for entry `idx`. -/
def stackWait (r : Got) (s : State) (u : Flight) (idx : Nat) : Res :=
  let a := s.me.dsb.toNat + 32 * idx
  r.then s u (s.localSpans s.cur 16 [(0, a), (0, a + 16)]) (fun t _ => .done t)

/-- Writes an entry. -/
def State.writeEntry (s : State) (at_ : Nat) (addr mask outer ctlw : Word64) : State :=
  let lm := wrLE (wrLE (wrLE s.lm at_ 8 addr.toNat) (at_ + 8) 8 mask.toNat) (at_ + 16) 8 outer.toNat
  { s with lm := wrLE lm (at_ + 24) 8 ctlw.toNat }.healSram [(localKey at_, 32)]

/-- Pushes an entry of the acting group and goes on at `pc` with mask `em`. -/
def pushEntry (addr mask ctlw em pc : Word64) (u : Flight) (s : State) : Res :=
  match s.stackAccess u s.me.depth true with
  | .error e => stackWait e s u s.me.depth
  | .ok (t, at_) =>
    .jump ((t.writeEntry at_ addr mask s.me.em ctlw).onMe (fun g => { g.setDepth (g.depth + 1) with em := em })) pc

/-- The overflow of the stack (0x0B, R236). -/
def Group.overflow (g : Group) : Cause := ⟨0x0B, 0, g.dsd⟩

/-- SPLIT on a predicate word (R32). -/
def runSplit (c : Group → Word64) (disp : BitVec 18) (u : Flight) (s : State) : Res :=
  let g := s.me
  if g.depth = g.limit then .trap s g.overflow
  else
    let t := g.em &&& c g
    let e := g.em &&& ~~~(c g)
    let addr := u.target 18 disp.toNat
    if t ≠ 0 then pushEntry addr e 0 t (u.pc + 4) u s else pushEntry addr e 4 e addr u s

def execSplit (p : PReg) (disp : BitVec 18) (s : State) : Out :=
  issue (.split p disp) (runSplit (fun g => g.preg p) disp) s
def execSplitNot (p : PReg) (disp : BitVec 18) (s : State) : Out :=
  issue (.splitNot p disp) (runSplit (fun g => ~~~(g.preg p)) disp) s

/-- FLIP (R33). -/
def runFlip (disp : BitVec 18) (u : Flight) (s : State) : Res :=
  let g := s.me
  if g.depth = 0 then .trap s u.operand
  else
    match s.stackAccess u (g.depth - 1) true with
    | .error e => stackWait e s u (g.depth - 1)
    | .ok (t, at_) =>
      let w := t.stackWord at_ 3
      let mask := t.stackWord at_ 1 &&& g.lanesMask
      if ctlMalformed w ∨ ctlKind w ≠ 0 then .trap s u.operand
      else if mask ≠ 0 ∧ ctlTaken w = false then
        .jump ((t.writeEntry at_ (t.stackWord at_ 0) (t.stackWord at_ 1) (t.stackWord at_ 2) (w ||| 4)).onMe
          (fun g => { g with em := mask })) (t.stackWord at_ 0)
      else .jump t (u.target 18 disp.toNat)

def execFlip (disp : BitVec 18) (s : State) : Out := issue (.flip disp) (runFlip disp) s

/-- Of the lanes of `mask`, the lowest, and those whose value in register `r` is its value. -/
def Group.sameTarget (g : Group) (mask : Word64) (r : Nat) : Word64 × Word64 :=
  match g.lanesOf mask with
  | [] => (0, 0)
  | l :: _ =>
    ((g.vreg r l).signExtend 64, BitVec.ofNat 64 (bitsOf (fun i => mask.getLsbD i && g.vreg r i == g.vreg r l) g.width))

/-- BRX (R35, R318). TINFO of its misaligned target is 0 (DESIGN CHOICE, unsafe: assumption log, 13). -/
def runBrx (a : VReg) (disp : BitVec 19) (u : Flight) (s : State) : Res :=
  let g := s.me
  let join := u.target 19 disp.toNat
  let ctlw : Word64 := BitVec.ofNat 64 (1 + a.val * 256)
  if g.depth = g.limit then .trap s g.overflow
  else if g.em = 0 then pushEntry join 0 ctlw 0 join u s
  else
    let (off, same) := g.sameTarget g.em a
    let t := join + off
    if t &&& 3 ≠ 0 then .trap s ⟨4, t, 0⟩ else pushEntry join (g.em &&& ~~~same) ctlw same t u s

def execBrx (a : VReg) (disp : BitVec 19) (s : State) : Out := issue (.brx a disp) (runBrx a disp) s

/-- MERGE (R34, R353). -/
def runMerge (u : Flight) (s : State) : Res :=
  let g := s.me
  if g.depth = 0 then .trap s u.operand
  else
    match s.stackAccess u (g.depth - 1) true with
    | .error e => stackWait e s u (g.depth - 1)
    | .ok (t, at_) =>
      let w := t.stackWord at_ 3
      let mask := t.stackWord at_ 1 &&& g.lanesMask
      if ctlMalformed w then .trap s u.operand
      else if ctlKind w = 1 ∧ mask ≠ 0 then
        if g.vcount ≤ ctlVa w then .trap s u.operand
        else
          let (off, same) := g.sameTarget mask (ctlVa w)
          let tgt := t.stackWord at_ 0 + off
          if tgt &&& 3 ≠ 0 then .trap s ⟨4, tgt, 0⟩
          else
            .jump ((t.writeEntry at_ (t.stackWord at_ 0) (mask &&& ~~~same) (t.stackWord at_ 2) w).onMe
              (fun g => { g with em := same })) tgt
      else
        .jump (t.onMe (fun g => { g.setDepth (g.depth - 1) with em := t.stackWord at_ 2 &&& g.lanesMask })) (u.pc + 4)

def execMerge (s : State) : Out := issue .merge runMerge s

end Sys2Proof.Machine
end

