-- ==== Sys2Proof/Machine/Resume.lean ====
section
/-! DEFINITION. Testing the wait of a unit again: an instruction that can wait is run once more, from where it stands. -/

namespace Sys2Proof.Machine
open Sys2Proof

/-- The core's watch table has an entry of the group (R95). -/
def State.watches (s : State) (k : Nat) : Bool := (s.core (coreOf k)).watch.any (fun w => w.grp = k && !w.leaving)

/-- The home slice has a notice for the WAITX of the acting group: its word is no longer the one that it waits on. A write to its line
that leaves the word as it is sends one too, and the read that follows finds nothing new (R95). -/
def State.noticed (s : State) (a b : SReg) : Bool :=
  match s.translate s.here s.me.ctx (s.me.sreg a).toNat 0 false false with
  | .ok p => BitVec.ofNat 64 (s.homeBytes p.key 8) ≠ s.me.sreg b
  | .error _ => false

/-- A WAITX with an entry of the watch table reads its word again on a notice, and one that polls when its interval is over (R95,
R96). -/
def attemptWaitx (d a b : SReg) (u : Flight) (s : State) : Res :=
  if u.wait ≠ .waitx ∨ (if s.watches s.cur then s.noticed a b else decide (u.since + u.poll ≤ s.cycle)) = true then runWaitx d a b u s
  else .stall s

/-- What unit `u` of the acting group comes to when its wait is tested again. Units of other instructions wait only for
SFU_RESULT, which completes them. -/
def attempt (u : Flight) (s : State) : Res :=
  match u.instr with
  | .ldg w _ r b o sc => runLdg w r b o sc none u s
  | .ldgAcq w r b o sc => runLdg w r b o sc (some u.modScope) u s
  | .stg w _ r b o sc => runStg w r b o sc none u s
  | .stgRel w r b o sc => runStg w r b o sc (some u.modScope) u s
  | .sld d a imm => runSld d a imm u s
  | .sst d a imm => runSst d a imm u s
  | .sldL d a imm => runSldL d a imm u s
  | .sstL d a imm => runSstL d a imm u s
  | .ldl w r b o sc => runLdl (.ldl w r b o sc) w r b o sc u s
  | .ldlFe w r b o sc => runLdl (.ldlFe w r b o sc) w r b o sc u s
  | .ldlFec w r b o sc => runLdl (.ldlFec w r b o sc) w r b o sc u s
  | .stl w r b o sc => runStl (.stl w r b o sc) false w r b o sc u s
  | .stlFull w r b o sc => runStl (.stlFull w r b o sc) true w r b o sc u s
  | .stlFw w r b o sc => runStl (.stlFw w r b o sc) true w r b o sc u s
  | .atom op d b o ty => runAtom false op d b o ty u s
  | .red op d b o ty => runAtom true op d b o ty u s
  | .latom op d b o ty => runLatom op d b o ty u s
  | .split p disp => runSplit (fun g => g.preg p) disp u s
  | .splitNot p disp => runSplit (fun g => ~~~(g.preg p)) disp u s
  | .flip disp => runFlip disp u s
  | .brx a disp => runBrx a disp u s
  | .merge => runMerge u s
  | .cbar => runCbar true u s
  | .cbara => runCbar false u s
  | .join a => runJoin a none u s
  | .leave => runLeave u s
  | .qpush a q => runQueue q (some a) none none u s
  | .qpushNb a q p => runQueue q (some a) none (some p) u s
  | .qpop d q => runQueue q none (some d) none u s
  | .qpopNb d q p => runQueue q none (some d) (some p) u s
  | .vclaim n => runVclaim n none u s
  | .waitx d a b => attemptWaitx d a b u s
  | .fence k sc => runFence k sc u s
  | .commit sc => runCommit sc u s
  | .spawn d a b => runSpawn d a b u s
  | .exit => runExit none u s
  | .exitH a => runExit (some a) u s
  | .wset w a => runWset false w a u s
  | .wsetG w a => runWset true w a u s
  | .wdrop w => runWdrop w u s
  | .wwait w => runWwait w none u s
  | .wwaitMark w a => runWwait w (some a) u s
  | .txinit a b => runTxinit a b u s
  | .txarrive a => runTxarrive a u s
  | .txexpect a b => runTxexpect a b u s
  | .txwait a b => runTxwait a b u s
  | .mma t k c a b n => runMatrix false t k c a b n u s
  | .mmas t k c a b n => runMatrix true t k c a b n u s
  | .mzero c => runMzero c u s
  | .msta c a => runMsta c a u s
  | .mlda c a => runMlda c a u s
  | .mdrain c a b t g o => runMdrain c a b t g o u s
  | _ => .stall s

/-- Tests the wait of unit `u` of group `k` again. -/
def State.retry (s : State) (k : Nat) (u : Flight) : State :=
  let s := { s with cur := k }
  s.reconclude k u (attempt u s)

/-- Tests the waits of the listed units of group `k` again, oldest first, until one of them changes the group. -/
def State.retryAny (s : State) (k : Nat) : List Flight → State
  | [] => s
  | u :: us =>
    let t := s.retry k u
    if t.grp k = s.grp k then t.retryAny k us else t

end Sys2Proof.Machine
end

