-- ==== Sys2Proof/Machine/Wake.lean ====
section
/-! DEFINITION. The events that end waits (R54, R85, R95, R96, R107, R110, R120, R311, R320, R340, R343, R364), and the two
detectors of waits that never end (R92, R93). -/

namespace Sys2Proof.Machine
open Sys2Proof

/-- The incomplete units of running groups that `p` picks out, oldest first, the lower group first among equals. -/
def State.waiters (s : State) (p : Nat → Flight → Bool) : List (Nat × Flight) :=
  let all := s.groups.flatMap (fun x =>
    if x.2.live ∧ x.2.status = .running then (x.2.incomplete.filter (p x.1)).map (fun u => (x.1, u)) else [])
  all.foldr (fun x l =>
    let before : Nat × Flight → Bool := fun y => y.2.since < x.2.since || (y.2.since = x.2.since && y.1 < x.1)
    l.takeWhile before ++ x :: l.dropWhile before) []

/-- Tests the waits of these units again, in order; a unit that its group no longer has is passed over. -/
def State.wakeAll (s : State) : List (Nat × Flight) → State
  | [] => s
  | (k, u) :: us =>
    (match (s.grp k).incomplete.find? (fun (x : Flight) => x.first = u.first) with
      | some v => s.retry k v
      | none => s).wakeAll us

def State.wake (s : State) (p : Nat → Flight → Bool) : State := s.wakeAll (s.waiters p)

/-- FULL_EMPTY_WAKE (R107): the waits on granules of the core, whoever waits. -/
def execFullEmptyWake (core : Nat) (s : State) : Out :=
  .next (s.wake (fun _ u => u.wait = .fullEmpty && u.granules.any (fun a => a / 2 ^ 16 = core)))

/-- MARK_WAIT_RELEASE (R120). -/
def execMarkWaitRelease (g : Nat) (s : State) : Out :=
  .next (s.wake (fun k u => k = g && (u.wait = .mark true || u.wait = .mark false)))

/-- Bytes of device memory from a key on, or none of them where a codeword of theirs is uncorrectable, as an answer: a cause, or
0, and after it the bytes (R239). -/
def State.answerOf (s : State) (key n : Nat) : List Byte :=
  if (List.range n).any (fun i => s.bad.contains ((key + i) / 64)) then 9 :: bytesLE 8 4
  else 0 :: (List.range n).map (fun i => rdByte s.mem (key + i))

/-- Another module's load of at most a line reaches a home slice here: it waits as a load does, and its bytes are its answer (R119,
R174, R175, R181, R344). -/
def State.farLoad (s : State) (r : FarReq) (n : Nat) : State :=
  let key := s.farKey r
  if 128 < r.pa % 128 + n then s
  else
    s.farServe r (.load r n) n (fun t => (s.farKeys r n).any (fun a => t.storeBlocked (a / 16 * 16) 16
      || t.held.any (fun h => h.key / 16 = a / 16))) (fun t => (t, some (t.answerOf key n)))

/-- LOAD_DATA_RETURN (R343, R344). -/
def execLoadDataReturn (src : LoadSrc) (s : State) : Out :=
  match src with
  | .own g => .next (s.wake (fun k u => k = g && u.wait = .home))
  | .other r n => .next (s.farLoad r n)

/-- QUEUE_WAKE (R364). -/
def execQueueWake (core q : Nat) (s : State) : Out :=
  .next (s.wake (fun k u => coreOf k = core && u.wait = .queue && (queueOf u.instr).map Prod.fst = some q))

/-- A word is held for an atomic of this module that is older than another module's of age `since` (R311). -/
def State.olderThanFar (s : State) (r : FarReq) (since b : Nat) : Bool :=
  s.aholds.any (fun h => h.key < s.farKey r + b && s.farKey r < h.key + h.len && (h.since < since || (h.since = since
    && (coreOf h.grp < r.core || (coreOf h.grp = r.core && s.device < r.module)))))

/-- One lane of another module's atomic or non-deferred reduction applies at a home slice here, once it can: it takes its word from
a younger atomic of this module, and its answer is the old word (R174, R310, R311). -/
def State.farAtom (s : State) (r : FarReq) (op : AOp) (ty : ATy) (n64 : Bool) (d n since : Nat) : State :=
  let key := s.farKey r
  let b := tyBytes ty
  if r.pa % b ≠ 0 then s
  else
    s.farServe r (.atom r op ty n64 d n since) b
      (fun t => t.homeBlocked key || t.held.any (fun h => h.key / 16 = key / 16) || t.olderThanFar r since b) (fun t =>
        if t.bad.contains (key / 64) then (t, some (t.answerOf key b))
        else
          ({ t with
            aholds := t.aholds.filter (fun h => !(h.key < key + b && key < h.key + h.len)),
            mem := wrLE t.mem key b (combineWord op ty n64 (rdLE t.mem key b) d n) }, some (t.answerOf key b)))

/-- ATOMIC_ACCEPT (R311). -/
def execAtomicAccept (src : AtomSrc) (s : State) : Out :=
  match src with
  | .own g => .next (s.wake (fun k u => k = g && u.wait = .accept))
  | .other r op ty n64 d n since => .next (s.farAtom r op ty n64 d n since)

/-- Another module's request that waits at its home here is tested again. -/
def State.retryFar (s : State) (i : FarAsk) : State :=
  match i with
  | .store r bytes marked => s.otherArrival r bytes marked
  | .atom r op ty n64 d n since => s.farAtom r op ty n64 d n since
  | .load r n => s.farLoad r n

/-- MISS_ENTRY_GRANT (R85): entries go to the oldest rejected instruction once it can have all that it needs. -/
def execMissEntryGrant (core : Nat) (s : State) : Out :=
  let c := s.core core
  match c.rejected with
  | [] => .next s
  | (k, n) :: rest =>
    if c.missUsed + n ≤ Config.missEntries then
      .next (s.setCore core { c with
        rejected := rest, granted := c.granted ++ [(k, n)], missUsed := c.missUsed + n, missKept := 0 })
    else .next s

/-- ENGINE_GRANT (R110): a free engine goes to the oldest waiting WSET, or to the records of an instance that starts. -/
def execEngineGrant (core : Nat) (s : State) : Out :=
  let t := s.wake (fun k u => (s.core core).engineQueue.head? = some k && u.wait = .engine)
  .next ((List.range 16).foldl (fun t i => t.bindMore (core * 16 + i)) t)

/-- CLAIM_GRANT (R54). -/
def execClaimGrant (core : Nat) (s : State) : Out := .next (s.grantClaims core)

/-- CREW_PHASE_COMPLETE (R320), at the end of a cycle: the phases whose condition holds complete, and every CBAR of theirs. -/
def execCrewPhaseComplete (core slot : Nat) (s : State) : Out :=
  match find? (s.core core).crews slot with
  | none => .next s
  | some c => .next (s.settleCrew core slot c)

/-- CREW_SLOT_FREE (R340). -/
def execCrewSlotFree (core : Nat) (s : State) : Out := .next (s.wake (fun k u => coreOf k = core && u.wait = .join))

/-- The home slice acknowledges the deregistration of the oldest entry of group `g` that is leaving (R95). -/
def State.ackWatch (s : State) (g : Nat) : State :=
  let c := s.core (coreOf g)
  match c.watch.find? (fun w => w.grp = g && w.leaving) with
  | none => s
  | some w => s.setCore (coreOf g) { c with watch := c.watch.erase w }

/-- The WAITX of group `k` that waits for a notice reads its word again. -/
def State.readAgain (s : State) (k : Nat) : State :=
  let t := { s with cur := k }
  match (if s.watches k ∧ t.me.status = .running then t.me.incomplete.find? (fun u => u.wait = .waitx) else none) with
  | none => s
  | some u =>
    match u.instr with
    | .waitx d a b => t.reconclude k u (runWaitx d a b u t)
    | _ => s

/-- WATCH_NOTICE (R95): what a home slice tells the core about an entry of group `g`: an entry that is leaving is free, and
one whose WAITX waits has its word read again. -/
def execWatchNotice (g : Nat) (s : State) : Out := .next ((s.ackWatch g).readAgain g)

/-- WAITX_POLL (R96). -/
def execWaitxPoll (g : Nat) (s : State) : Out :=
  .next (if s.watches g then s else s.wake (fun k u => k = g && u.wait = .waitx))

/-! ## Watchdog and claim deadlock -/

/-- The limit with which a context's counter is compared on a core; none where every group holds 0 (R91). -/
def State.watchdogLimit (s : State) (core ctx : Nat) : Option Nat :=
  ((s.groups.filter (fun x => coreOf x.1 = core && x.2.live && x.2.ctx = ctx && x.2.wdlim ≠ 0)).map
    (fun x => x.2.wdlim.toNat)).foldl (fun m n => match m with
      | none => some n
      | some a => some (min a n)) none

/-- Every listed group that is still live takes its cause. -/
def State.trapAll (s : State) (cs : List (Nat × Cause)) : State :=
  cs.foldl (fun t x => if (t.grp x.1).live then t.takeTrap x.1 x.2 else t) s

/-- Cycles after which the detector acts (R93). -/
def State.deadlockDue (s : State) (core : Nat) : Bool := Config.deadlockCycles ≤ (s.core core).deadlock

/-- WATCHDOG_EXPIRY (R92): a claim deadlock that is due goes first. -/
def execWatchdogExpiry (core ctx : Nat) (s : State) : Out :=
  match s.watchdogLimit core ctx with
  | none => .next s
  | some n =>
    if look 0 (s.core core).watchdog ctx < n ∨ s.deadlockDue core = true then .next s
    else
      let c := s.core core
      let gs := s.groups.filter (fun x => coreOf x.1 = core && x.2.live && x.2.ctx = ctx)
      .next ((s.setCore core { c with watchdog := del c.watchdog ctx }).trapAll
        (gs.map (fun x => (x.1, ⟨0x0D, 0, x.2.wdlim⟩))))

/-- TINFO of a claim deadlock: the blocks that a VCLAIM asks, the tag that a JOIN names, else 0 (R236). -/
def Group.deadlockInfo (g : Group) : Word64 :=
  match (g.incomplete.head?).map Flight.instr with
  | some (.vclaim n) => BitVec.ofNat 64 n.val
  | some (.join a) => BitVec.ofNat 64 ((g.sreg a).toNat % 2 ^ 16)
  | _ => 0

/-- CLAIM_DEADLOCK (R93). -/
def execClaimDeadlock (core : Nat) (s : State) : Out :=
  if s.deadlockDue core then
    let c := s.core core
    let gs := s.groups.filter (fun x => coreOf x.1 = core && x.2.live)
    .next ((s.setCore core { c with deadlock := 0, watchdog := [] }).trapAll
      (gs.map (fun x => (x.1, ⟨0x0C, 0, x.2.deadlockInfo⟩))))
  else .next s

end Sys2Proof.Machine
end

