-- ==== Sys2Proof/Machine/Background.lean ====
section
/-! DEFINITION. Time: what a number of cycles advances (R90, R93), and which event of the module's other agents is due when
the agenda names none (DESIGN CHOICE, unsafe: assumption log, 2). -/

namespace Sys2Proof.Machine
open Sys2Proof

/-- The oldest incomplete unit's wait. -/
def Group.waitsOn (g : Group) : Option Wait := (g.incomplete.head?).map Flight.wait

/-- The waits that the watchdog counts (R90). -/
def Wait.internal : Wait → Bool
  | .mark _ => true
  | .fullEmpty | .claim | .join | .crew | .queue | .tx | .engine | .lines => true
  | .miss | .home | .accept | .sfu | .older | .waitx | .commit | .spawn | .service => false

/-- The waits that the claim-deadlock detector sees (R93). -/
def Wait.crewOrClaim : Wait → Bool
  | .claim | .join | .crew => true
  | .mark _ | .fullEmpty | .queue | .tx | .engine | .lines | .miss | .home | .accept | .sfu | .older | .waitx
  | .commit | .spawn | .service => false

/-- A WAITX. -/
def isWaitx : Instr → Bool
  | .waitx _ _ _ => true
  | _ => false

/-- The keys at which a span is tested against marks: one in each granule. -/
def Span.keys (a : Span) : List Nat := a.key :: (List.range (a.len / 16)).map (fun i => a.key + 16 * i)

/-- A unit of group `g` on `core` stalls on a frozen mark: some window whose mark it waits on is FROZEN (R90). -/
def State.onFrozen (s : State) (core : Nat) (g : Group) (u : Flight) : Bool :=
  match u.wait, u.instr with
  | .mark _, .wwait w => (look {} (s.inst (core * 16 + g.tslot)).wins w).state = .frozen
  | .mark _, .wwaitMark w _ => (look {} (s.inst (core * 16 + g.tslot)).wins w).state = .frozen
  | .mark _, _ => s.markWait (u.spans.flatMap Span.keys) = some (.mark true)
  | _, _ => false

/-- A live group of the context holds the counter: WAITX, pre-empted, halted, or in fault service (R90). -/
def State.holdsWatchdog (s : State) (core : Nat) (g : Group) : Bool :=
  g.status ≠ .running || (g.priv && g.tcause = 0x0E) || g.incomplete.any (fun u => isWaitx u.instr || s.onFrozen core g u)

def Group.inInternalWait (g : Group) : Bool :=
  match g.waitsOn with
  | some w => w.internal
  | none => false

/-- The live groups of a core. -/
def State.residents (s : State) (core : Nat) : List (Nat × Group) :=
  s.groups.filter (fun x => coreOf x.1 = core && x.2.live)

/-- The watchdog counters of a core `dt` cycles on. -/
def State.watchdogAfter (s : State) (core dt : Nat) : SMap Nat :=
  let gs := s.residents core
  let ctxs := unionOnce [] (gs.map (fun x => x.2.ctx))
  ctxs.foldl (fun m c =>
    let mine := gs.filter (fun x => x.2.ctx = c)
    if mine.all (fun x => x.2.inInternalWait) && !mine.any (fun x => s.holdsWatchdog core x.2) then
      Machine.put m c (look 0 m c + dt) else m) (s.core core).watchdog

/-- The next word of group `k` can issue, or meets a cause: the group is runnable (R82, R93). -/
def State.runnable (s : State) (k : Nat) : Bool :=
  let g := s.grp k
  match s.fetch k with
  | .error _ => g.flight.isEmpty
  | .ok (w, _) =>
    match decode w with
    | none => g.flight.isEmpty
    | some i =>
      if w.toNat / 2 ^ 26 = 1 then !g.incomplete.any (fun u => holdsIssue u.instr) else !g.blocked i

/-- The conditions of the claim-deadlock detector (R93). -/
def State.deadlocked (s : State) (core : Nat) : Bool :=
  let gs := s.residents core
  let c := s.core core
  gs ≠ [] && gs.all (fun x => x.2.status = .running && !x.2.priv && x.2.incomplete ≠ []
      && x.2.incomplete.all (fun u => u.wait.crewOrClaim))
    && c.sfu = [] && c.missUsed = 0 && c.stores = [] && !s.held.any (fun h => h.module = s.device && h.core = core)
    && !s.remote.any (fun r => r.core = core)
    && !s.insts.any (fun x => x.1 / 16 = core && x.2.live && x.2.wins.any (fun w => w.2.state = .landing))
    && !gs.any (fun x => s.runnable x.1)

/-- `dt` cycles pass: the one that ends settles the crews (R3, R90, R93, R320). -/
def State.tick (s : State) (dt : Nat) : State :=
  let s := if dt = 0 then s else s.settleCrews
  { s with
    cycle := s.cycle + dt,
    cores := mapVals s.cores (fun core c => { c with
      watchdog := s.watchdogAfter core dt,
      deadlock := if s.deadlocked core then c.deadlock + dt else 0 }) }

/-! ## What is due -/

/-- Keys of groups that are live. -/
def State.liveGroups (s : State) : List Nat := (s.groups.filter (fun x => x.2.live)).map Prod.fst
/-- The keys of a map. -/
def keysOf {α : Type} (m : SMap α) : List Nat := m.map Prod.fst

/-- Detectors, detected faults, and traps that are due. -/
def State.dueTraps (s : State) : List (State → Out) :=
  (keysOf s.cores).map execClaimDeadlock
    ++ s.cores.flatMap (fun c => (keysOf c.2.watchdog).map (execWatchdogExpiry c.1))
    ++ s.liveGroups.map execFaultService

/-- Stores, pins and rounds. -/
def State.dueStores (s : State) : List (State → Out) :=
  s.cores.flatMap (fun c => (List.range c.2.stores.length).map (fun i => execPlainStoreArrival (.own c.1 i)))
    ++ (List.range s.svcStores.length).map (fun i => execPlainStoreArrival (.service i))
    ++ [execMergeWindowEnd, fun s => .next s.written, fun s => .next s.flushRing]
    ++ s.farQueue.map (fun i s => .next (s.retryFar i))
    ++ (List.range s.remote.length).map (fun i s => .next (s.refusedRemote i))
    ++ s.groups.flatMap (fun x => x.2.marked.map (fun l => execPinLine (coreOf x.1) (.own l)))
    ++ (keysOf s.pins).map execPinForcedWidening
    ++ (if s.remote.any (fun r => r.failed) || s.binsOut.any (fun o => o.failed)
      then (List.range (s.remote.length + s.binsOut.length)).map execPathReplay else [])
    ++ s.rounds.map (fun r => execMulticastRoundClose ⟨r.2.key, r.2.mset⟩ []) ++ (keysOf s.rounds).map execMulticastTimeout

/-- The keys of global addresses that translate. -/
def State.keysAt (s : State) (core ctx : Nat) (vas : List Nat) : List Nat :=
  vas.filterMap (fun a => match s.translate core ctx a 0 false false with
    | .ok p => some p.key
    | .error _ => none)

/-- Where a group's next word would be read at its home. -/
def State.fetchKeys (s : State) (k : Nat) (g : Group) : List Nat :=
  if g.live ∧ g.status = .running then
    (s.keysAt (coreOf k) g.ctx [g.pc.toNat]).filter (fun a => (find? (s.core (coreOf k)).ibuf a).isNone)
  else []

/-- Where an instance's engines read for the next granules of its LANDING windows, and where its next window record lies. -/
def State.engineKeys (s : State) (ik : Nat) (i : Inst) : List Nat :=
  let sources := (i.wins.filter (fun w => w.2.state = .landing)).flatMap (fun w =>
    (w.2.rcd.elements (w.2.mark / 16)).map Prod.snd)
  let records := (i.tobind.take 1).flatMap (fun n =>
    (sixteens (((find? s.sets i.set).map (fun t => t.winp.toNat)).getD 0 + 64 * n) 4).map Prod.snd)
  if i.live then s.keysAt (ik / 16) i.ctx (sources ++ records) else []

/-- Where the request that is first on a connection reads. -/
def State.headKeys (s : State) (c : Conn) : List Nat :=
  match c.queue with
  | .get h body :: _ => (s.rangePlaces h.ctx (field body 0 8) (field body 8 8)).map Place.key
  | .launch h body _ :: _ => (s.rangePlaces h.ctx (field body 0 8) 128).map Place.key
  | _ => []

/-- Where the service reads the output ranges of graphs whose commits are finished. -/
def State.digestKeys (s : State) : List Nat :=
  s.graphs.flatMap (fun g => match (if g.2.done then none else g.2.commit) with
    | some id => if (find? s.commits id).all Commit.finished then (s.outPlaces g.1).map Place.key else []
    | none => [])

/-- The keys of every access that may be waiting at a mark: of units, stores, fetches, engines, the service, another module (R126). -/
def State.waitingKeys (s : State) : List Nat :=
  s.groups.flatMap (fun x => (if x.2.live then x.2.flight.flatMap (fun u => match u.done, u.wait with
      | false, .mark _ => u.spans.flatMap Span.keys
      | _, _ => []) else []) ++ s.fetchKeys x.1 x.2)
    ++ s.cores.flatMap (fun c => c.2.stores.map StoreEntry.key) ++ s.svcStores.map HeldStore.key
    ++ s.insts.flatMap (fun x => s.engineKeys x.1 x.2) ++ s.conns.flatMap (fun c => s.headKeys c.2) ++ s.digestKeys
    ++ s.farQueue.flatMap (fun i => s.farKeys (farReqOf i) i.size)

/-- An access waits on window `n` of the instance of key `ik`, by WWAIT or at its mark, where `keys` are those of `waitingKeys`
(R126). -/
def State.awaited (s : State) (keys : List Nat) (ik n : Nat) : Bool :=
  let i := s.inst ik
  let w := look {} i.wins n
  s.groups.any (fun x => x.2.live && instKey x.1 x.2 = ik && x.2.flight.any (fun u => !u.done && (match u.wait, u.instr with
      | .mark _, .wwait m => m.val = n
      | .mark _, .wwaitMark m _ => m.val = n
      | _, _ => false)))
    || keys.any (fun key => (w.offsetOf (ik / 16) i key).any (fun o => w.mark < 16 * (o / 16 + 1)))

/-- The place of an engine in the order in which its core serves them (R126): first those that are waited for, then by PRIO,
then in turn from the one after the engine that was served last. -/
def State.engineRank (s : State) (keys : List Nat) (ik n : Nat) : Nat :=
  let w := look {} (s.inst ik).wins n
  let turn := (ik % 16 * 16 + n + 255 - (s.core (ik / 16)).served) % 256
  ((if s.awaited keys ik n then 0 else 8) + fld w.rcd.ctl 17 3) * 256 + turn

/-- The engines of a core in LANDING state, as (instance, window), in that order. -/
def State.landings (s : State) (core : Nat) : List (Nat × Nat) :=
  let all := s.insts.flatMap (fun x => if x.1 / 16 = core ∧ x.2.live then
    (x.2.wins.filter (fun w => w.2.state = .landing)).map (fun w => (x.1, w.1)) else [])
  if all.length < 2 then all
  else
    let keys := s.waitingKeys
    sortOn (fun x => s.engineRank keys x.1 x.2) all

/-- Results, crews, claims, and windows. -/
def State.dueCore (s : State) : List (State → Out) :=
  s.cores.flatMap (fun c => (List.range c.2.sfu.length).map (execSfuResult c.1))
    ++ s.cores.flatMap (fun c => (keysOf c.2.crews).map (execCrewPhaseComplete c.1))
    ++ (keysOf s.cores).map execClaimGrant
    ++ s.cores.flatMap (fun c => (c.2.watch.filter (fun w => w.leaving)).map (fun w => execWatchNotice w.grp))
    ++ s.insts.flatMap (fun x => if x.2.tobind = [] then [] else [execEngineGrant (x.1 / 16)])
    ++ (unionOnce [] (s.insts.map (fun x => x.1 / 16))).flatMap (fun c =>
        (s.landings c).map (fun x => execGranuleLanding c (x.1 % 16) x.2))
    ++ s.insts.flatMap (fun x => (keysOf x.2.wins).flatMap (fun w =>
        [execWindowResume (x.1 / 16) (x.1 % 16) w,
          execWindowStrand (x.1 / 16) (x.1 % 16) w]))

/-- Deferred records on their way, and commits. -/
def State.dueRecords (s : State) : List (State → Out) :=
  (keysOf s.cores).map (fun c => execBinDrain ⟨c, false⟩)
    ++ s.units.flatMap (fun u => (keysOf u.2.bins).map (execBinShip u.1))
    ++ (List.range s.transit.length).map execPolderPark
    ++ s.noticesOut.map execCommitNotice
    ++ s.chans.flatMap (fun c => (if c.2.batch = [] then [] else [execBatchForm c.1 []])
        ++ [execApply ⟨c.1, sortSize, [], 0, []⟩, execApplyGrant ⟨c.1, false⟩])
    ++ s.acks.map (fun a => execCommitAck a.1 (.chan a.2.1) a.2.2)
    ++ s.chans.map (fun c => execPolderOverflow c.1 (c.2.polder < 16))

/-- Checks and tests of pseudo-channels. -/
def State.dueChannels (s : State) : List (State → Out) :=
  (keysOf s.pchans).map execCheckDone ++ (keysOf s.pchans).map execBistTestDone
    ++ (keysOf s.pchans).map (fun p s => .next (s.copyStep p)) ++ (keysOf s.pchans).map (fun p => execAllBankRefresh (p / 2))

/-- The requesters of a pool in its rotation, from the one that follows the one served last: its cores, and the other pool's
steals as one more (R77, R80). -/
def State.rotation (s : State) (p : Nat) : List (Option Nat) :=
  let cs := (poolCores p).map some ++ [none]
  let n := look (cs.length - 1) s.rot p + 1
  cs.drop n ++ cs.take n

/-- The requests of one requester that pool `p` would answer with an instance. -/
def State.requestsOf (s : State) (p : Nat) : Option Nat → List (State → Out)
  | some c =>
    if s.mayAsk c && (s.answerFor c p).isSome then [if p < 2 then execPoolRequest c else execStewardPoolRequest c] else []
  | none => ((poolCores (otherPool p)).filter (fun c => s.maySteal c && (s.answerFor c p).isSome)).map (fun c =>
      if p < 2 then execStealRequest c else execStewardPoolRequest c)

/-- Requests that the pools would answer with an instance (R77, R80, R398). -/
def State.duePools (s : State) : List (State → Out) :=
  if s.sets = [] then [] else (List.range 4).flatMap (fun p => (s.rotation p).flatMap (s.requestsOf p))

/-- Instances suspended together that the service itself has saved, with the cores that it may place them on (R240, R241). -/
def State.dueRestores (s : State) : List (State → Out) :=
  s.suspd.flatMap (fun x =>
    match find? s.sets x.2.set with
    | some t =>
      let ids := s.suspBatch x.2 x.1
      if ids.head? ≠ some x.1 ∨ ids.any (fun i => (s.suspd.any (fun y => y.1 = i && y.2.images = []))) = true
        ∨ s.preempting t.ctx = true then []
      else (List.range Config.cores).map (fun c => execSuspendedRestore c ids [])
    | none => [])

/-- The end of graphs, placement, ageing, reservations, the spill queue. -/
def State.dueSets (s : State) : List (State → Out) :=
  (keysOf s.graphs).map execGraphComplete
    ++ s.cores.filterMap (fun c => c.2.answer.map (fun a => execInstancePlacement c.1 a.1 a.2))
    ++ s.duePools ++ (keysOf s.sets).map execSetAgeing ++ (List.range 4).map execSetReservation
    ++ (List.range 4).map execSpillRefill ++ s.dueRestores

/-- The first of these events that changes the state. -/
def State.firstEvent (s : State) : List (State → Out) → Option Out
  | [] => none
  | e :: es =>
    match e s with
    | .next t => if t = s then s.firstEvent es else some (.next t)
    | o => some o

/-- The event that is due next, if any (DESIGN CHOICE, unsafe: assumption log, 2). -/
def State.due (s : State) : Option Out :=
  s.firstEvent (s.dueTraps ++ s.dueStores ++ s.dueCore ++ s.dueRecords ++ s.dueChannels ++ s.dueSets)

end Sys2Proof.Machine
end

