-- ==== Sys2Proof/Machine/Cross.lean ====
section
/-! DEFINITION. Lane exchange and reduction: majors 0x16 and 0x17 (R70 to R73, R230, R348, R349). -/

namespace Sys2Proof.Machine
open Sys2Proof

/-- SHFL: the value of source lane `src`, or a lane's own where that is no lane (R70). -/
def shuffle (d a : VReg) (b : VSrc) (src : Nat → Word32 → Int) : Flight → State → Res :=
  vectorOp d (fun g _ i =>
    let j := src i (srcVal b g i)
    if 0 ≤ j ∧ j < g.width then g.vreg a j.toNat else g.vreg a i)

def execShflIdx (d a : VReg) (b : VSrc) (s : State) : Out :=
  issue (.shflIdx d a b) (shuffle d a b (fun _ x => x.toInt)) s
def execShflUp (d a : VReg) (b : VSrc) (s : State) : Out :=
  issue (.shflUp d a b) (shuffle d a b (fun i x => i - x.toInt)) s
def execShflDown (d a : VReg) (b : VSrc) (s : State) : Out :=
  issue (.shflDown d a b) (shuffle d a b (fun i x => i + x.toInt)) s
def execShflXor (d a : VReg) (b : VSrc) (s : State) : Out :=
  issue (.shflXor d a b) (shuffle d a b (fun i x => (BitVec.ofNat 32 i ^^^ x).toInt)) s

def execVoteAny (d a : PReg) (s : State) : Out :=
  issue (.voteAny d a) (fun u s => .done (s.onMe (fun g => g.setPAll d (g.preg a &&& g.active u.pfx != 0)))) s
def execVoteAll (d a : PReg) (s : State) : Out :=
  issue (.voteAll d a)
    (fun u s => .done (s.onMe (fun g => g.setPAll d (g.preg a &&& g.active u.pfx == g.active u.pfx)))) s
def execVoteBallot (d : SReg) (a : PReg) (s : State) : Out :=
  issue (.voteBallot d a) (scalarOp d (fun g u => g.preg a &&& g.active u.pfx)) s

/-- An integer reduction over the active lanes from its identity (R72). -/
def reduceInt (d : SReg) (a : VReg) (one : Word32) (f : Word32 → Word32 → Word32) (signed : Bool) : Flight → State → Res :=
  scalarOp d (fun g u =>
    let r := (u.lanes g).foldl (fun x i => f x (g.vreg a i)) one
    if signed then r.signExtend 64 else r.setWidth 64)

def execLredAddI32 (d : SReg) (a : VReg) (s : State) : Out :=
  issue (.lredAddI32 d a) (reduceInt d a 0 (fun x y => x + y) true) s
def execLredMinI32 (d : SReg) (a : VReg) (s : State) : Out :=
  issue (.lredMinI32 d a) (reduceInt d a 0x7FFFFFFF (lesser false) true) s
def execLredMaxI32 (d : SReg) (a : VReg) (s : State) : Out :=
  issue (.lredMaxI32 d a) (reduceInt d a 0x80000000 (greater false) true) s
def execLredAnd (d : SReg) (a : VReg) (s : State) : Out :=
  issue (.lredAnd d a) (reduceInt d a 0xFFFFFFFF (fun x y => x &&& y) false) s
def execLredOr (d : SReg) (a : VReg) (s : State) : Out :=
  issue (.lredOr d a) (reduceInt d a 0 (fun x y => x ||| y) false) s

/-- node(k, j) of the reduction tree over leaves, with the flags of every node under it (R73). -/
def treeNode (op : Nat → Nat → Nat × Flags) (leaf : Nat → Nat) : Nat → Nat → Nat × Flags
  | 0, j => (leaf j, {})
  | k + 1, j =>
    let x := treeNode op leaf k (2 * j)
    let y := treeNode op leaf k (2 * j + 1)
    let r := op x.1 y.1
    (r.1, (x.2.or y.2).or r.2)

/-- The inclusive prefix of the blocks of 2^(k−1), 2^(k−2), … lanes that the bits of `n` below bit k choose, from lane
`start` on, after `acc` (R73). A first block that nothing is added to is the node as it is: lane 0 of a sum passes a NaN
through unchanged and raises no flag (DESIGN CHOICE, unsafe: assumption log, 33). -/
def prefixSum (op : Nat → Nat → Nat × Flags) (leaf : Nat → Nat) (n : Nat) :
    Nat → Nat → Option (Nat × Flags) → Option (Nat × Flags)
  | 0, _, acc => acc
  | k + 1, start, acc =>
    if n / 2 ^ k % 2 = 0 then prefixSum op leaf n k start acc
    else
      let b := treeNode op leaf k (start / 2 ^ k)
      let next := match acc with
        | none => b
        | some x =>
          let r := op x.1 b.1
          (r.1, (x.2.or b.2).or r.2)
      prefixSum op leaf n k (start + 2 ^ k) (some next)

/-- The leaves of a group: an active lane's value, else the identity. -/
def Group.leaf (g : Group) (act : Word64) (a : VReg) (one : Nat) (i : Nat) : Nat :=
  if act.getLsbD i then (g.vreg a i).toNat else one

/-- The level at which one node covers the group. -/
def Group.levels (g : Group) : Nat := Nat.log2 g.width

/-- An f32 reduction (R73). -/
def reduceF32 (d : SReg) (a : VReg) (one : Nat) (op : Nat → Nat → Nat × Flags) (u : Flight) (s : State) : Res :=
  .done (s.onMe (fun g =>
    let r := treeNode op (g.leaf (g.active u.pfx) a one) g.levels 0
    (g.setS d (BitVec.ofNat 64 r.1)).raise r.2))

def execLredAddF32 (d : SReg) (a : VReg) (s : State) : Out :=
  issue (.lredAddF32 d a) (reduceF32 d a f32.signBit (f32.add .rne)) s
def execLredMinF32 (d : SReg) (a : VReg) (s : State) : Out :=
  issue (.lredMinF32 d a) (reduceF32 d a f32.nanCode (f32.minmax false)) s
def execLredMaxF32 (d : SReg) (a : VReg) (s : State) : Out :=
  issue (.lredMaxF32 d a) (reduceF32 d a f32.nanCode (f32.minmax true)) s

/-- A scan (R73). -/
def scan (d a : VReg) (one : Nat) (op : Nat → Nat → Nat × Flags) : Flight → State → Res :=
  vectorFlagOp d (fun g u i =>
    let r := (prefixSum op (g.leaf (g.active u.pfx) a one) (i + 1) (g.levels + 1) 0 none).getD (0, {})
    (BitVec.ofNat 32 r.1, r.2))

def execLscanAddI32 (d a : VReg) (s : State) : Out :=
  issue (.lscanAddI32 d a) (scan d a 0 (fun x y => ((x + y) % 2 ^ 32, {}))) s
def execLscanAddF32 (d a : VReg) (s : State) : Out :=
  issue (.lscanAddF32 d a) (scan d a f32.signBit (f32.add .rne)) s

def execPset (d : PReg) (a : SReg) (s : State) : Out :=
  issue (.pset d a) (fun u s => .done (s.onMe (fun g =>
    g.writeP d (g.active u.pfx) (fun i => (g.sreg a).getLsbD i)))) s

end Sys2Proof.Machine
end

