-- ==== Sys2Proof/Machine/Scalar.lean ====
section
/-! DEFINITION. The scalar unit: majors 0x0A to 0x0D and MOVS (R61 to R65, R69). -/

namespace Sys2Proof.Machine
open Sys2Proof

def execSadd (d a b : SReg) (s : State) : Out :=
  issue (.sadd d a b) (scalarOp d (fun g u => saturate 64 u.sat (fun v => v (g.sreg a) + v (g.sreg b)))) s
def execSsub (d a b : SReg) (s : State) : Out :=
  issue (.ssub d a b) (scalarOp d (fun g u => saturate 64 u.sat (fun v => v (g.sreg a) - v (g.sreg b)))) s
def execSmul (d a b : SReg) (s : State) : Out :=
  issue (.smul d a b) (scalarOp d (fun g _ => g.sreg a * g.sreg b)) s
def execSmulh (d a b : SReg) (uns : Bool) (s : State) : Out :=
  issue (.smulh d a b uns) (scalarOp d (fun g _ => mulHigh uns (g.sreg a) (g.sreg b))) s

/-- SDIV and SREM: `pick` takes the quotient or the remainder. -/
def scalarDivide (d a b : SReg) (uns : Bool) (pick : Word64 × Word64 × Flags → Word64) (_u : Flight) (s : State) : Res :=
  .done (s.onMe (fun g =>
    let r := divide uns (g.sreg a) (g.sreg b)
    (g.setS d (pick r)).raise r.2.2))

def execSdiv (d a b : SReg) (uns : Bool) (s : State) : Out :=
  issue (.sdiv d a b uns) (scalarDivide d a b uns (fun r => r.1)) s
def execSrem (d a b : SReg) (uns : Bool) (s : State) : Out :=
  issue (.srem d a b uns) (scalarDivide d a b uns (fun r => r.2.1)) s

def execSand (d a b : SReg) (s : State) : Out := issue (.sand d a b) (scalarOp d (fun g _ => g.sreg a &&& g.sreg b)) s
def execSor (d a b : SReg) (s : State) : Out := issue (.sor d a b) (scalarOp d (fun g _ => g.sreg a ||| g.sreg b)) s
def execSxor (d a b : SReg) (s : State) : Out := issue (.sxor d a b) (scalarOp d (fun g _ => g.sreg a ^^^ g.sreg b)) s
def execSshl (d a b : SReg) (s : State) : Out :=
  issue (.sshl d a b) (scalarOp d (fun g _ => g.sreg a <<< ((g.sreg b).toNat % 64))) s
def execSshr (d a b : SReg) (s : State) : Out :=
  issue (.sshr d a b) (scalarOp d (fun g _ => g.sreg a >>> ((g.sreg b).toNat % 64))) s
def execSsra (d a b : SReg) (s : State) : Out :=
  issue (.ssra d a b) (scalarOp d (fun g _ => (g.sreg a).sshiftRight ((g.sreg b).toNat % 64))) s
def execSmin (d a b : SReg) (uns : Bool) (s : State) : Out :=
  issue (.smin d a b uns) (scalarOp d (fun g _ => lesser uns (g.sreg a) (g.sreg b))) s
def execSmax (d a b : SReg) (uns : Bool) (s : State) : Out :=
  issue (.smax d a b uns) (scalarOp d (fun g _ => greater uns (g.sreg a) (g.sreg b))) s
def execSsel (d a b : SReg) (p : PReg) (s : State) : Out :=
  issue (.ssel d a b p) (scalarOp d (fun g _ => if (g.preg p).getLsbD g.lowest then g.sreg a else g.sreg b)) s

def execSaddImm (d a : SReg) (imm : BitVec 12) (s : State) : Out :=
  issue (.saddImm d a imm) (scalarOp d (fun g u => saturate 64 u.sat (fun v => v (g.sreg a) + v (u.simm imm)))) s
def execSandImm (d a : SReg) (imm : BitVec 12) (s : State) : Out :=
  issue (.sandImm d a imm) (scalarOp d (fun g u => g.sreg a &&& u.simm imm)) s
def execSorImm (d a : SReg) (imm : BitVec 12) (s : State) : Out :=
  issue (.sorImm d a imm) (scalarOp d (fun g u => g.sreg a ||| u.simm imm)) s
def execSxorImm (d a : SReg) (imm : BitVec 12) (s : State) : Out :=
  issue (.sxorImm d a imm) (scalarOp d (fun g u => g.sreg a ^^^ u.simm imm)) s
def execSshlImm (d a : SReg) (n : Fin 64) (s : State) : Out :=
  issue (.sshlImm d a n) (scalarOp d (fun g _ => g.sreg a <<< n.val)) s
def execSshrImm (d a : SReg) (n : Fin 64) (s : State) : Out :=
  issue (.sshrImm d a n) (scalarOp d (fun g _ => g.sreg a >>> n.val)) s
def execSsraImm (d a : SReg) (n : Fin 64) (s : State) : Out :=
  issue (.ssraImm d a n) (scalarOp d (fun g _ => (g.sreg a).sshiftRight n.val)) s
def execSmov (d : SReg) (imm : BitVec 12) (s : State) : Out :=
  issue (.smov d imm) (scalarOp d (fun _ u => u.simm imm)) s

/-- SCMP: the result in every width lane (R65). -/
def execScmp (c : SCond) (p : PReg) (a b : SReg) (s : State) : Out :=
  issue (.scmp c p a b) (fun _ s => .done (s.onMe (fun g => g.setPAll p (condHolds c (g.sreg a) (g.sreg b))))) s
def execScmpImm (c : SCond) (p : PReg) (a : SReg) (imm : BitVec 6) (s : State) : Out :=
  issue (.scmpImm c p a imm)
    (fun _ s => .done (s.onMe (fun g => g.setPAll p (condHolds c (g.sreg a) (imm.signExtend 64))))) s

/-- MOVS: a lane at or above the width is an illegal operand (R69). -/
def execMovs (a : VReg) (d : SReg) (lane : Fin 64) (s : State) : Out :=
  issue (.movs a d lane) (fun u s =>
    if s.me.width ≤ lane.val then .trap s u.operand
    else .done (s.onMe (fun g => g.setS d ((g.vreg a lane).setWidth 64)))) s

end Sys2Proof.Machine
end

