-- ==== Sys2Proof/Machine/VectorInt.lean ====
section
/-! DEFINITION. Vector integer instructions: majors 0x10 to 0x15 and PLOG (R62 to R64, R66 to R68). -/

namespace Sys2Proof.Machine
open Sys2Proof

/-- A lane-wise function of a and b. -/
def laneOp (d a : VReg) (b : VSrc) (f : Word32 → Word32 → Word32) : Flight → State → Res :=
  vectorOp d (fun g _ i => f (g.vreg a i) (srcVal b g i))

/-- A lane-wise integer operation under SAT (R63). -/
def laneSat (d a : VReg) (b : VSrc) (f : Int → Int → Int) : Flight → State → Res :=
  vectorOp d (fun g u i => saturate 32 u.sat (fun v => f (v (g.vreg a i)) (v (srcVal b g i))))

/-- A lane-wise function of a and the immediate. -/
def immOp (d a : VReg) (imm : BitVec 9) (f : Word32 → Word32 → Word32) : Flight → State → Res :=
  vectorOp d (fun g u i => f (g.vreg a i) (u.vimm imm))

/-- A lane-wise function of a. -/
def unaryOp (d a : VReg) (f : Word32 → Word32) : Flight → State → Res := vectorOp d (fun g _ i => f (g.vreg a i))

def execVadd (d a : VReg) (b : VSrc) (s : State) : Out := issue (.vadd d a b) (laneSat d a b (fun x y => x + y)) s
def execVsub (d a : VReg) (b : VSrc) (s : State) : Out := issue (.vsub d a b) (laneSat d a b (fun x y => x - y)) s
def execVmul (d a : VReg) (b : VSrc) (s : State) : Out := issue (.vmul d a b) (laneSat d a b (fun x y => x * y)) s
def execVmulhI32 (d a : VReg) (b : VSrc) (s : State) : Out := issue (.vmulhI32 d a b) (laneOp d a b (mulHigh false)) s
def execVmulhN32 (d a : VReg) (b : VSrc) (s : State) : Out := issue (.vmulhN32 d a b) (laneOp d a b (mulHigh true)) s
def execVmad (d a : VReg) (b : VSrc) (s : State) : Out :=
  issue (.vmad d a b) (vectorOp d (fun g u i =>
    saturate 32 u.sat (fun v => v (g.vreg a i) * v (srcVal b g i) + v (u.addend g d i)))) s
def execVand (d a : VReg) (b : VSrc) (s : State) : Out := issue (.vand d a b) (laneOp d a b (fun x y => x &&& y)) s
def execVor (d a : VReg) (b : VSrc) (s : State) : Out := issue (.vor d a b) (laneOp d a b (fun x y => x ||| y)) s
def execVxor (d a : VReg) (b : VSrc) (s : State) : Out := issue (.vxor d a b) (laneOp d a b (fun x y => x ^^^ y)) s
def execVshl (d a : VReg) (b : VSrc) (s : State) : Out :=
  issue (.vshl d a b) (laneOp d a b (fun x y => x <<< (y.toNat % 32))) s
def execVshr (d a : VReg) (b : VSrc) (s : State) : Out :=
  issue (.vshr d a b) (laneOp d a b (fun x y => x >>> (y.toNat % 32))) s
def execVsra (d a : VReg) (b : VSrc) (s : State) : Out :=
  issue (.vsra d a b) (laneOp d a b (fun x y => x.sshiftRight (y.toNat % 32))) s
def execVminI32 (d a : VReg) (b : VSrc) (s : State) : Out := issue (.vminI32 d a b) (laneOp d a b (lesser false)) s
def execVminN32 (d a : VReg) (b : VSrc) (s : State) : Out := issue (.vminN32 d a b) (laneOp d a b (lesser true)) s
def execVmaxI32 (d a : VReg) (b : VSrc) (s : State) : Out := issue (.vmaxI32 d a b) (laneOp d a b (greater false)) s
def execVmaxN32 (d a : VReg) (b : VSrc) (s : State) : Out := issue (.vmaxN32 d a b) (laneOp d a b (greater true)) s

def execVaddImm (d a : VReg) (imm : BitVec 9) (s : State) : Out :=
  issue (.vaddImm d a imm) (vectorOp d (fun g u i => saturate 32 u.sat (fun v => v (g.vreg a i) + v (u.vimm imm)))) s
def execVandImm (d a : VReg) (imm : BitVec 9) (s : State) : Out :=
  issue (.vandImm d a imm) (immOp d a imm (fun x y => x &&& y)) s
def execVorImm (d a : VReg) (imm : BitVec 9) (s : State) : Out :=
  issue (.vorImm d a imm) (immOp d a imm (fun x y => x ||| y)) s
def execVxorImm (d a : VReg) (imm : BitVec 9) (s : State) : Out :=
  issue (.vxorImm d a imm) (immOp d a imm (fun x y => x ^^^ y)) s
def execVshlImm (d a : VReg) (n : Fin 32) (s : State) : Out :=
  issue (.vshlImm d a n) (unaryOp d a (fun x => x <<< n.val)) s
def execVshrImm (d a : VReg) (n : Fin 32) (s : State) : Out :=
  issue (.vshrImm d a n) (unaryOp d a (fun x => x >>> n.val)) s
def execVsraImm (d a : VReg) (n : Fin 32) (s : State) : Out :=
  issue (.vsraImm d a n) (unaryOp d a (fun x => x.sshiftRight n.val)) s
def execVmovImm (d : VReg) (imm : BitVec 9) (s : State) : Out :=
  issue (.vmovImm d imm) (vectorOp d (fun _ u _ => u.vimm imm)) s
def execVmov (d a : VReg) (s : State) : Out := issue (.vmov d a) (unaryOp d a (fun x => x)) s
def execVmovS (d : VReg) (b : SReg) (s : State) : Out :=
  issue (.vmovS d b) (vectorOp d (fun g _ _ => (g.sreg b).setWidth 32)) s
def execVnot (d a : VReg) (s : State) : Out := issue (.vnot d a) (unaryOp d a (fun x => ~~~x)) s
def execVabs (d a : VReg) (s : State) : Out :=
  issue (.vabs d a) (vectorOp d (fun g u i => saturate 32 u.sat (fun v => ((v (g.vreg a i)).natAbs : Int)))) s
def execVclz (d a : VReg) (s : State) : Out :=
  issue (.vclz d a) (unaryOp d a (fun x => BitVec.ofNat 32 (leadingZeros x))) s
def execVpopc (d a : VReg) (s : State) : Out :=
  issue (.vpopc d a) (unaryOp d a (fun x => BitVec.ofNat 32 (setBits x))) s
def execVbfxI32 (d a : VReg) (b : VSrc) (s : State) : Out := issue (.vbfxI32 d a b) (laneOp d a b (extractField false)) s
def execVbfxN32 (d a : VReg) (b : VSrc) (s : State) : Out := issue (.vbfxN32 d a b) (laneOp d a b (extractField true)) s
def execVbfi (d a : VReg) (b : VSrc) (s : State) : Out :=
  issue (.vbfi d a b) (vectorOp d (fun g _ i => insertField (g.vreg d i) (g.vreg a i) (srcVal b g i))) s
def execVlane (d : VReg) (s : State) : Out := issue (.vlane d) (vectorOp d (fun _ _ i => BitVec.ofNat 32 i)) s

/-- VDIV and VREM: `pick` takes the quotient or the remainder (R64). -/
def vectorDivide (d a : VReg) (b : VSrc) (uns : Bool) (pick : Word32 × Word32 × Flags → Word32) : Flight → State → Res :=
  vectorFlagOp d (fun g _ i =>
    let r := divide uns (g.vreg a i) (srcVal b g i)
    (pick r, r.2.2))

def execVdivI32 (d a : VReg) (b : VSrc) (s : State) : Out :=
  issue (.vdivI32 d a b) (vectorDivide d a b false (fun r => r.1)) s
def execVdivN32 (d a : VReg) (b : VSrc) (s : State) : Out :=
  issue (.vdivN32 d a b) (vectorDivide d a b true (fun r => r.1)) s
def execVremI32 (d a : VReg) (b : VSrc) (s : State) : Out :=
  issue (.vremI32 d a b) (vectorDivide d a b false (fun r => r.2.1)) s
def execVremN32 (d a : VReg) (b : VSrc) (s : State) : Out :=
  issue (.vremN32 d a b) (vectorDivide d a b true (fun r => r.2.1)) s

def execVcmp (c : SCond) (p : PReg) (m : Cmb) (a : VReg) (b : VSrc) (s : State) : Out :=
  issue (.vcmp c p m a b)
    (fun u s => .done (s.onMe (fun g => g.combine p m (g.active u.pfx) (fun i => condHolds c (g.vreg a i) (srcVal b g i))))) s
def execVsel (p : PReg) (d a : VReg) (b : VSrc) (s : State) : Out :=
  issue (.vsel p d a b) (vectorOp d (fun g _ i => if (g.preg p).getLsbD i then g.vreg a i else srcVal b g i)) s
def execPlog (t : BitVec 4) (d a b : PReg) (s : State) : Out :=
  issue (.plog t d a b) (fun u s => .done (s.onMe (fun g =>
    g.writeP d (g.active u.pfx) (fun i =>
      t.getLsbD ((if (g.preg a).getLsbD i then 2 else 0) + (if (g.preg b).getLsbD i then 1 else 0)))))) s

end Sys2Proof.Machine
end

