-- ==== Sys2Proof/Machine/Dispatch.lean ====
section
/-! DEFINITION. The effect of each instruction and event: one arm for each constructor. -/

namespace Sys2Proof.Machine
open Sys2Proof

def exec (i : Instr) (s : State) : Host.Outcome State Fault Refusal :=
  match i with
  | .nop => Sys2Proof.Machine.execNop s
  | .bkpt => Sys2Proof.Machine.execBkpt s
  | .trap c => Sys2Proof.Machine.execTrap c s
  | .eret => Sys2Proof.Machine.execEret s
  | .yield => Sys2Proof.Machine.execYield s
  | .mfsr d n => Sys2Proof.Machine.execMfsr d n s
  | .mtsr a n => Sys2Proof.Machine.execMtsr a n s
  | .cinv a b => Sys2Proof.Machine.execCinv a b s
  | .cinvAll => Sys2Proof.Machine.execCinvAll s
  | .fence k sc => Sys2Proof.Machine.execFence k sc s
  | .emget d => Sys2Proof.Machine.execEmget d s
  | .emset a => Sys2Proof.Machine.execEmset a s
  | .merge => Sys2Proof.Machine.execMerge s
  | .leave => Sys2Proof.Machine.execLeave s
  | .cbar => Sys2Proof.Machine.execCbar s
  | .cbara => Sys2Proof.Machine.execCbara s
  | .ret a => Sys2Proof.Machine.execRet a s
  | .bras a => Sys2Proof.Machine.execBras a s
  | .calls a => Sys2Proof.Machine.execCalls a s
  | .exit => Sys2Proof.Machine.execExit s
  | .exitH a => Sys2Proof.Machine.execExitH a s
  | .spawn d a b => Sys2Proof.Machine.execSpawn d a b s
  | .join a => Sys2Proof.Machine.execJoin a s
  | .joinNb a p => Sys2Proof.Machine.execJoinNb a p s
  | .waitx d a b => Sys2Proof.Machine.execWaitx d a b s
  | .commit sc => Sys2Proof.Machine.execCommit sc s
  | .qpush a q => Sys2Proof.Machine.execQpush a q s
  | .qpushNb a q p => Sys2Proof.Machine.execQpushNb a q p s
  | .qpop d q => Sys2Proof.Machine.execQpop d q s
  | .qpopNb d q p => Sys2Proof.Machine.execQpopNb d q p s
  | .vclaim n => Sys2Proof.Machine.execVclaim n s
  | .vclaimNb n p => Sys2Proof.Machine.execVclaimNb n p s
  | .vgive n => Sys2Proof.Machine.execVgive n s
  | .bra disp => Sys2Proof.Machine.execBra disp s
  | .braIf p disp => Sys2Proof.Machine.execBraIf p disp s
  | .braIfNot p disp => Sys2Proof.Machine.execBraIfNot p disp s
  | .brany p disp => Sys2Proof.Machine.execBrany p disp s
  | .branyNot p disp => Sys2Proof.Machine.execBranyNot p disp s
  | .brall p disp => Sys2Proof.Machine.execBrall p disp s
  | .brallNot p disp => Sys2Proof.Machine.execBrallNot p disp s
  | .call disp => Sys2Proof.Machine.execCall disp s
  | .split p disp => Sys2Proof.Machine.execSplit p disp s
  | .splitNot p disp => Sys2Proof.Machine.execSplitNot p disp s
  | .flip disp => Sys2Proof.Machine.execFlip disp s
  | .brx a disp => Sys2Proof.Machine.execBrx a disp s
  | .pfxImm p => Sys2Proof.Machine.execPfxImm p s
  | .pfxOp vc valid neg g => Sys2Proof.Machine.execPfxOp vc valid neg g s
  | .pfxMod rnd sc pol sat neg abs => Sys2Proof.Machine.execPfxMod rnd sc pol sat neg abs s
  | .sadd d a b => Sys2Proof.Machine.execSadd d a b s
  | .ssub d a b => Sys2Proof.Machine.execSsub d a b s
  | .smul d a b => Sys2Proof.Machine.execSmul d a b s
  | .smulh d a b u => Sys2Proof.Machine.execSmulh d a b u s
  | .sdiv d a b u => Sys2Proof.Machine.execSdiv d a b u s
  | .srem d a b u => Sys2Proof.Machine.execSrem d a b u s
  | .sand d a b => Sys2Proof.Machine.execSand d a b s
  | .sor d a b => Sys2Proof.Machine.execSor d a b s
  | .sxor d a b => Sys2Proof.Machine.execSxor d a b s
  | .sshl d a b => Sys2Proof.Machine.execSshl d a b s
  | .sshr d a b => Sys2Proof.Machine.execSshr d a b s
  | .ssra d a b => Sys2Proof.Machine.execSsra d a b s
  | .smin d a b u => Sys2Proof.Machine.execSmin d a b u s
  | .smax d a b u => Sys2Proof.Machine.execSmax d a b u s
  | .ssel d a b p => Sys2Proof.Machine.execSsel d a b p s
  | .saddImm d a imm => Sys2Proof.Machine.execSaddImm d a imm s
  | .sandImm d a imm => Sys2Proof.Machine.execSandImm d a imm s
  | .sorImm d a imm => Sys2Proof.Machine.execSorImm d a imm s
  | .sxorImm d a imm => Sys2Proof.Machine.execSxorImm d a imm s
  | .sshlImm d a n => Sys2Proof.Machine.execSshlImm d a n s
  | .sshrImm d a n => Sys2Proof.Machine.execSshrImm d a n s
  | .ssraImm d a n => Sys2Proof.Machine.execSsraImm d a n s
  | .smov d imm => Sys2Proof.Machine.execSmov d imm s
  | .scmp c p a b => Sys2Proof.Machine.execScmp c p a b s
  | .scmpImm c p a imm => Sys2Proof.Machine.execScmpImm c p a imm s
  | .sld d a imm => Sys2Proof.Machine.execSld d a imm s
  | .sst d a imm => Sys2Proof.Machine.execSst d a imm s
  | .sldL d a imm => Sys2Proof.Machine.execSldL d a imm s
  | .sstL d a imm => Sys2Proof.Machine.execSstL d a imm s
  | .movs a d lane => Sys2Proof.Machine.execMovs a d lane s
  | .vadd d a b => Sys2Proof.Machine.execVadd d a b s
  | .vsub d a b => Sys2Proof.Machine.execVsub d a b s
  | .vmul d a b => Sys2Proof.Machine.execVmul d a b s
  | .vmulhI32 d a b => Sys2Proof.Machine.execVmulhI32 d a b s
  | .vmulhN32 d a b => Sys2Proof.Machine.execVmulhN32 d a b s
  | .vmad d a b => Sys2Proof.Machine.execVmad d a b s
  | .vand d a b => Sys2Proof.Machine.execVand d a b s
  | .vor d a b => Sys2Proof.Machine.execVor d a b s
  | .vxor d a b => Sys2Proof.Machine.execVxor d a b s
  | .vshl d a b => Sys2Proof.Machine.execVshl d a b s
  | .vshr d a b => Sys2Proof.Machine.execVshr d a b s
  | .vsra d a b => Sys2Proof.Machine.execVsra d a b s
  | .vminI32 d a b => Sys2Proof.Machine.execVminI32 d a b s
  | .vminN32 d a b => Sys2Proof.Machine.execVminN32 d a b s
  | .vmaxI32 d a b => Sys2Proof.Machine.execVmaxI32 d a b s
  | .vmaxN32 d a b => Sys2Proof.Machine.execVmaxN32 d a b s
  | .vaddImm d a imm => Sys2Proof.Machine.execVaddImm d a imm s
  | .vandImm d a imm => Sys2Proof.Machine.execVandImm d a imm s
  | .vorImm d a imm => Sys2Proof.Machine.execVorImm d a imm s
  | .vxorImm d a imm => Sys2Proof.Machine.execVxorImm d a imm s
  | .vshlImm d a n => Sys2Proof.Machine.execVshlImm d a n s
  | .vshrImm d a n => Sys2Proof.Machine.execVshrImm d a n s
  | .vsraImm d a n => Sys2Proof.Machine.execVsraImm d a n s
  | .vmovImm d imm => Sys2Proof.Machine.execVmovImm d imm s
  | .vmov d a => Sys2Proof.Machine.execVmov d a s
  | .vmovS d b => Sys2Proof.Machine.execVmovS d b s
  | .vnot d a => Sys2Proof.Machine.execVnot d a s
  | .vabs d a => Sys2Proof.Machine.execVabs d a s
  | .vclz d a => Sys2Proof.Machine.execVclz d a s
  | .vpopc d a => Sys2Proof.Machine.execVpopc d a s
  | .vbfxI32 d a b => Sys2Proof.Machine.execVbfxI32 d a b s
  | .vbfxN32 d a b => Sys2Proof.Machine.execVbfxN32 d a b s
  | .vbfi d a b => Sys2Proof.Machine.execVbfi d a b s
  | .vlane d => Sys2Proof.Machine.execVlane d s
  | .vdivI32 d a b => Sys2Proof.Machine.execVdivI32 d a b s
  | .vdivN32 d a b => Sys2Proof.Machine.execVdivN32 d a b s
  | .vremI32 d a b => Sys2Proof.Machine.execVremI32 d a b s
  | .vremN32 d a b => Sys2Proof.Machine.execVremN32 d a b s
  | .vcmp c p m a b => Sys2Proof.Machine.execVcmp c p m a b s
  | .vsel p d a b => Sys2Proof.Machine.execVsel p d a b s
  | .shflIdx d a b => Sys2Proof.Machine.execShflIdx d a b s
  | .shflUp d a b => Sys2Proof.Machine.execShflUp d a b s
  | .shflDown d a b => Sys2Proof.Machine.execShflDown d a b s
  | .shflXor d a b => Sys2Proof.Machine.execShflXor d a b s
  | .voteAny d a => Sys2Proof.Machine.execVoteAny d a s
  | .voteAll d a => Sys2Proof.Machine.execVoteAll d a s
  | .voteBallot d a => Sys2Proof.Machine.execVoteBallot d a s
  | .lredAddI32 d a => Sys2Proof.Machine.execLredAddI32 d a s
  | .lredMinI32 d a => Sys2Proof.Machine.execLredMinI32 d a s
  | .lredMaxI32 d a => Sys2Proof.Machine.execLredMaxI32 d a s
  | .lredAddF32 d a => Sys2Proof.Machine.execLredAddF32 d a s
  | .lredMinF32 d a => Sys2Proof.Machine.execLredMinF32 d a s
  | .lredMaxF32 d a => Sys2Proof.Machine.execLredMaxF32 d a s
  | .lscanAddI32 d a => Sys2Proof.Machine.execLscanAddI32 d a s
  | .lscanAddF32 d a => Sys2Proof.Machine.execLscanAddF32 d a s
  | .lredAnd d a => Sys2Proof.Machine.execLredAnd d a s
  | .lredOr d a => Sys2Proof.Machine.execLredOr d a s
  | .pset d a => Sys2Proof.Machine.execPset d a s
  | .plog t d a b => Sys2Proof.Machine.execPlog t d a b s
  | .faddF32 d a b => Sys2Proof.Machine.execFaddF32 d a b s
  | .fsubF32 d a b => Sys2Proof.Machine.execFsubF32 d a b s
  | .fmulF32 d a b => Sys2Proof.Machine.execFmulF32 d a b s
  | .fmaF32 d a b => Sys2Proof.Machine.execFmaF32 d a b s
  | .fmin d a b => Sys2Proof.Machine.execFmin d a b s
  | .fmax d a b => Sys2Proof.Machine.execFmax d a b s
  | .faddBf16x2 d a b => Sys2Proof.Machine.execFaddBf16x2 d a b s
  | .fmulBf16x2 d a b => Sys2Proof.Machine.execFmulBf16x2 d a b s
  | .fmaBf16x2 d a b => Sys2Proof.Machine.execFmaBf16x2 d a b s
  | .faddF16x2 d a b => Sys2Proof.Machine.execFaddF16x2 d a b s
  | .fmulF16x2 d a b => Sys2Proof.Machine.execFmulF16x2 d a b s
  | .fmaF16x2 d a b => Sys2Proof.Machine.execFmaF16x2 d a b s
  | .fcmp c p m a b => Sys2Proof.Machine.execFcmp c p m a b s
  | .fcvtF32I32 d a => Sys2Proof.Machine.execFcvtF32I32 d a s
  | .fcvtF32N32 d a => Sys2Proof.Machine.execFcvtF32N32 d a s
  | .fcvtI32F32 d a => Sys2Proof.Machine.execFcvtI32F32 d a s
  | .fcvtN32F32 d a => Sys2Proof.Machine.execFcvtN32F32 d a s
  | .fcvtF32Bf16 d a => Sys2Proof.Machine.execFcvtF32Bf16 d a s
  | .fcvtBf16F32 d a => Sys2Proof.Machine.execFcvtBf16F32 d a s
  | .fcvtF32F16 d a => Sys2Proof.Machine.execFcvtF32F16 d a s
  | .fcvtF16F32 d a => Sys2Proof.Machine.execFcvtF16F32 d a s
  | .fcvtF32E8 d a c o => Sys2Proof.Machine.execFcvtF32E8 d a c o s
  | .fcvtE8F32 d a c => Sys2Proof.Machine.execFcvtE8F32 d a c s
  | .frnd d a => Sys2Proof.Machine.execFrnd d a s
  | .fclass d a => Sys2Proof.Machine.execFclass d a s
  | .fcvtFx64F32 d a e => Sys2Proof.Machine.execFcvtFx64F32 d a e s
  | .fcvtF32Bf16x2 d a b => Sys2Proof.Machine.execFcvtF32Bf16x2 d a b s
  | .xrcp d a => Sys2Proof.Machine.execXrcp d a s
  | .xrsq d a => Sys2Proof.Machine.execXrsq d a s
  | .xsqrt d a => Sys2Proof.Machine.execXsqrt d a s
  | .xexp d a => Sys2Proof.Machine.execXexp d a s
  | .xlog d a => Sys2Proof.Machine.execXlog d a s
  | .xsin d a => Sys2Proof.Machine.execXsin d a s
  | .xcos d a => Sys2Proof.Machine.execXcos d a s
  | .xtanh d a => Sys2Proof.Machine.execXtanh d a s
  | .ldg w q r b o x => Sys2Proof.Machine.execLdg w q r b o x s
  | .ldgAcq w r b o x => Sys2Proof.Machine.execLdgAcq w r b o x s
  | .ldgTouch b o x => Sys2Proof.Machine.execLdgTouch b o x s
  | .stg w q r b o x => Sys2Proof.Machine.execStg w q r b o x s
  | .stgRel w r b o x => Sys2Proof.Machine.execStgRel w r b o x s
  | .ldl w r b o x => Sys2Proof.Machine.execLdl w r b o x s
  | .ldlFe w r b o x => Sys2Proof.Machine.execLdlFe w r b o x s
  | .ldlFec w r b o x => Sys2Proof.Machine.execLdlFec w r b o x s
  | .ldlFb r b o x => Sys2Proof.Machine.execLdlFb r b o x s
  | .ldlTouch b o x => Sys2Proof.Machine.execLdlTouch b o x s
  | .stl w r b o x => Sys2Proof.Machine.execStl w r b o x s
  | .stlFull w r b o x => Sys2Proof.Machine.execStlFull w r b o x s
  | .stlFw w r b o x => Sys2Proof.Machine.execStlFw w r b o x s
  | .stlFb r b o x => Sys2Proof.Machine.execStlFb r b o x s
  | .atom op d b o ty => Sys2Proof.Machine.execAtom op d b o ty s
  | .red op d b o ty => Sys2Proof.Machine.execRed op d b o ty s
  | .latom op d b o ty => Sys2Proof.Machine.execLatom op d b o ty s
  | .mma t k c a b n => Sys2Proof.Machine.execMma t k c a b n s
  | .mmas t k c a b n => Sys2Proof.Machine.execMmas t k c a b n s
  | .mzero c => Sys2Proof.Machine.execMzero c s
  | .mdrain c a b t g o => Sys2Proof.Machine.execMdrain c a b t g o s
  | .msta c a => Sys2Proof.Machine.execMsta c a s
  | .mlda c a => Sys2Proof.Machine.execMlda c a s
  | .gset g a => Sys2Proof.Machine.execGset g a s
  | .gget g d => Sys2Proof.Machine.execGget g d s
  | .gseed g a => Sys2Proof.Machine.execGseed g a s
  | .geval g d a b t => Sys2Proof.Machine.execGeval g d a b t s
  | .wset w a => Sys2Proof.Machine.execWset w a s
  | .wsetG w a => Sys2Proof.Machine.execWsetG w a s
  | .wdrop w => Sys2Proof.Machine.execWdrop w s
  | .wstat w d => Sys2Proof.Machine.execWstat w d s
  | .wmark w d => Sys2Proof.Machine.execWmark w d s
  | .wwait w => Sys2Proof.Machine.execWwait w s
  | .wwaitMark w a => Sys2Proof.Machine.execWwaitMark w a s
  | .txinit a b => Sys2Proof.Machine.execTxinit a b s
  | .txarrive a => Sys2Proof.Machine.execTxarrive a s
  | .txexpect a b => Sys2Proof.Machine.execTxexpect a b s
  | .txwait a b => Sys2Proof.Machine.execTxwait a b s
  | .launch h body pool => Sys2Proof.Machine.execLaunch h body pool s
  | .mapmem h body frames tables home members => Sys2Proof.Machine.execMapmem h body frames tables home members s
  | .unmap h body => Sys2Proof.Machine.execUnmap h body s
  | .put h body => Sys2Proof.Machine.execPut h body s
  | .get h body => Sys2Proof.Machine.execGet h body s
  | .preemptSuspend h body => Sys2Proof.Machine.execPreemptSuspend h body s
  | .preemptEnd h body => Sys2Proof.Machine.execPreemptEnd h body s
  | .preemptHalt h body => Sys2Proof.Machine.execPreemptHalt h body s
  | .attest h body => Sys2Proof.Machine.execAttest h body s
  | .healthRead h body => Sys2Proof.Machine.execHealthRead h body s
  | .healthClear h body => Sys2Proof.Machine.execHealthClear h body s
  | .update h body => Sys2Proof.Machine.execUpdate h body s
  | .trapEntry g cause taddr tinfo => Sys2Proof.Machine.execTrapEntry g cause taddr tinfo s
  | .instancePlacement core set idx => Sys2Proof.Machine.execInstancePlacement core set idx s
  | .poolRequest core => Sys2Proof.Machine.execPoolRequest core s
  | .stealRequest core => Sys2Proof.Machine.execStealRequest core s
  | .stewardPoolRequest core => Sys2Proof.Machine.execStewardPoolRequest core s
  | .setAgeing set => Sys2Proof.Machine.execSetAgeing set s
  | .setReservation pool => Sys2Proof.Machine.execSetReservation pool s
  | .placementLimitChange core courses tslots gslots => Sys2Proof.Machine.execPlacementLimitChange core courses tslots gslots s
  | .spillRefill pool => Sys2Proof.Machine.execSpillRefill pool s
  | .graphComplete graph => Sys2Proof.Machine.execGraphComplete graph s
  | .claimGrant core => Sys2Proof.Machine.execClaimGrant core s
  | .crewPhaseComplete core slot => Sys2Proof.Machine.execCrewPhaseComplete core slot s
  | .crewSlotFree core => Sys2Proof.Machine.execCrewSlotFree core s
  | .queueWake core q => Sys2Proof.Machine.execQueueWake core q s
  | .fullEmptyWake core => Sys2Proof.Machine.execFullEmptyWake core s
  | .markWaitRelease g => Sys2Proof.Machine.execMarkWaitRelease g s
  | .missEntryGrant core => Sys2Proof.Machine.execMissEntryGrant core s
  | .loadDataReturn src => Sys2Proof.Machine.execLoadDataReturn src s
  | .sfuResult core j => Sys2Proof.Machine.execSfuResult core j s
  | .watchdogExpiry core ctx => Sys2Proof.Machine.execWatchdogExpiry core ctx s
  | .claimDeadlock core => Sys2Proof.Machine.execClaimDeadlock core s
  | .watchNotice g => Sys2Proof.Machine.execWatchNotice g s
  | .waitxPoll g => Sys2Proof.Machine.execWaitxPoll g s
  | .engineGrant core => Sys2Proof.Machine.execEngineGrant core s
  | .granuleLanding core slot w => Sys2Proof.Machine.execGranuleLanding core slot w s
  | .sourceFault core slot w k cause => Sys2Proof.Machine.execSourceFault core slot w k cause s
  | .windowResume core slot w => Sys2Proof.Machine.execWindowResume core slot w s
  | .windowStrand core slot w => Sys2Proof.Machine.execWindowStrand core slot w s
  | .binDrain d => Sys2Proof.Machine.execBinDrain d s
  | .binShip unit bin => Sys2Proof.Machine.execBinShip unit bin s
  | .moduleBinIngress src recs => Sys2Proof.Machine.execModuleBinIngress src recs s
  | .polderPark j => Sys2Proof.Machine.execPolderPark j s
  | .commitNotice n => Sys2Proof.Machine.execCommitNotice n s
  | .applyGrant a => Sys2Proof.Machine.execApplyGrant a s
  | .apply a => Sys2Proof.Machine.execApply a s
  | .commitAck commit src lost => Sys2Proof.Machine.execCommitAck commit src lost s
  | .polderOverflow ch enlarge => Sys2Proof.Machine.execPolderOverflow ch enlarge s
  | .mergeWindowEnd => Sys2Proof.Machine.execMergeWindowEnd s
  | .pinLine core src => Sys2Proof.Machine.execPinLine core src s
  | .pinForcedWidening line => Sys2Proof.Machine.execPinForcedWidening line s
  | .atomicAccept src => Sys2Proof.Machine.execAtomicAccept src s
  | .pageWalk core ctx va => Sys2Proof.Machine.execPageWalk core ctx va s
  | .faultService g => Sys2Proof.Machine.execFaultService g s
  | .suspendedRestore core insts saves => Sys2Proof.Machine.execSuspendedRestore core insts saves s
  | .throttleSet die n => Sys2Proof.Machine.execThrottleSet die n s
  | .throttleLift die n => Sys2Proof.Machine.execThrottleLift die n s
  | .batchForm ch reqs => Sys2Proof.Machine.execBatchForm ch reqs s
  | .refreshDue pch bank => Sys2Proof.Machine.execRefreshDue pch bank s
  | .allBankRefresh ch => Sys2Proof.Machine.execAllBankRefresh ch s
  | .scrubRow act corrected bad => Sys2Proof.Machine.execScrubRow act corrected bad s
  | .trainOwn pch => Sys2Proof.Machine.execTrainOwn pch s
  | .trainRelease pch => Sys2Proof.Machine.execTrainRelease pch s
  | .readCheck pch => Sys2Proof.Machine.execReadCheck pch s
  | .writeCheck pch => Sys2Proof.Machine.execWriteCheck pch s
  | .readWriteCheck pch => Sys2Proof.Machine.execReadWriteCheck pch s
  | .checkDone pch => Sys2Proof.Machine.execCheckDone pch s
  | .laneRepair pch v => Sys2Proof.Machine.execLaneRepair pch v s
  | .bistMarch pch bank => Sys2Proof.Machine.execBistMarch pch bank s
  | .bistCheckerboard pch bank => Sys2Proof.Machine.execBistCheckerboard pch bank s
  | .bistRetention pch bank => Sys2Proof.Machine.execBistRetention pch bank s
  | .bistTestDone pch => Sys2Proof.Machine.execBistTestDone pch s
  | .controlRegisterWrite pch off n v => Sys2Proof.Machine.execControlRegisterWrite pch off n v s
  | .flitReceive port flit => Sys2Proof.Machine.execFlitReceive port flit s
  | .flitReplay port seq => Sys2Proof.Machine.execFlitReplay port seq s
  | .pathReplay j => Sys2Proof.Machine.execPathReplay j s
  | .planeDown module plane => Sys2Proof.Machine.execPlaneDown module plane s
  | .planeUp module plane => Sys2Proof.Machine.execPlaneUp module plane s
  | .multicastRoundClose word others => Sys2Proof.Machine.execMulticastRoundClose word others s
  | .multicastTimeout round => Sys2Proof.Machine.execMulticastTimeout round s
  | .uePacketDrop port => Sys2Proof.Machine.execUePacketDrop port s
  | .dataMessage conn xfer off bytes => Sys2Proof.Machine.execDataMessage conn xfer off bytes s
  | .boot recovery => Sys2Proof.Machine.execBoot recovery s
  | .coreMappedOut core => Sys2Proof.Machine.execCoreMappedOut core s
  | .plainStoreArrival src => Sys2Proof.Machine.execPlainStoreArrival src s

end Sys2Proof.Machine
end

