-- ==== Sys2Proof/Machine/Turn.lean ====
section
/-! DEFINITION. A step: the turn that comes next, the issue turn of a group (R82, R232, R235), and the order in which
groups take their turns. -/

namespace Sys2Proof.Machine
open Sys2Proof

/-- The instruction of constructor `i` is one that a group issues, and no event. -/
def isInstruction (i : Instr) : Bool := i.code.isSome

/-- The next word of group `k` is fetched and issues, unless a pending pre-emption is taken first (R235, R240). -/
def State.issueWord (s : State) (k : Nat) : Out :=
  let g := s.grp k
  match g.preempt.filter (fun _ => !(g.priv || s.skipStuck k)) with
  | some r => .next ((s.setGrp k { g with preempt := none }).takeTrap k ⟨0x0E, 0, BitVec.ofNat 64 r⟩)
  | none =>
    let s := s.fetchTouch k
    match s.fetch k with
    | .error c => .next (if g.flight.isEmpty then s.fault k c else s)
    | .ok (w, s) =>
      match decode w with
      | none => .next (s.notInstruction k w)
      | some i =>
        if (g.skip.head?).getD false then .next (s.onGrp k (fun g => g.skipWordAt w i)) else exec i { s with cur := k }

/-- The core of a group issues nothing in this cycle (R25; DESIGN CHOICE, unsafe: assumption log, 2). -/
def State.throttled (s : State) (core : Nat) : Bool :=
  let n := (s.core core).throttle
  s.cycle * n / 16 < (s.cycle + 1) * n / 16

/-- The issue turn of group `k`: the waits of its incomplete units are tested again; where that changes nothing in the
group, its next word issues. A group at a vector of the service's own table is the service's. -/
def State.groupTurn (s : State) (k : Nat) : Out :=
  let g := s.grp k
  if !(g.live && g.status = .running) || g.yielded = some s.cycle || s.throttled (coreOf k) then .next s
  else
    match g.serviceVector with
    | some c => .next (s.serviceHandler k c)
    | none =>
      let t := s.retryAny k g.incomplete
      if t.grp k = g then t.issueWord k else .next t

/-- The groups that can take a turn, the one that has waited longest first, the lower slot first among equals (R82). -/
def State.waitingOrder (s : State) : List Nat :=
  ((s.groups.filter (fun x => x.2.live && x.2.status = .running)).map (fun x => (x.2.lastIssue, x.1))).foldr
    (fun x l => (l.takeWhile (fun y => y.1 < x.1 || (y.1 = x.1 && y.2 < x.2))) ++ x ::
      l.dropWhile (fun y => y.1 < x.1 || (y.1 = x.1 && y.2 < x.2))) [] |>.map Prod.snd

/-- The pipe of an instruction, by its major (R82): control 0, vector 1, SFU 2, memory 3, matrix 4. -/
def pipeOf (major : Nat) : Nat :=
  if major < 0x10 then 0 else if major < 0x1C ∨ major = 0x28 then 1 else if major = 0x1C then 2
  else if major < 0x24 ∨ major = 0x29 then 3 else 4

/-- What the issue turn of group `k` would fill: no issue slot, where it is not the issue of a word; a slot without a pipe,
where the word is a prefix (R83); a slot and a pipe. -/
def State.slotOf (s : State) (k : Nat) : Option (Option Nat) :=
  let g := s.grp k
  if g.serviceVector.isSome || (s.retryAny k g.incomplete).grp k ≠ g || (!g.priv && g.preempt.isSome)
    || (g.skip.head?).getD false then none
  else
    match s.fetch k with
    | .error _ => none
    | .ok (w, _) =>
      let major := w.toNat / 2 ^ 26
      if (decode w).isNone then none else some (if major = 1 then none else some (pipeOf major))

/-- The turns of a core's groups in one cycle, in this order: those that issue nothing, and up to two issues of two groups
on different pipes (R82). `slot` is what the first slot holds, once it is filled. -/
def State.coreTurns (s : State) (slot : Option (Option Nat)) : List Nat → Out
  | [] => .next s
  | k :: ks =>
    let p := s.slotOf k
    if (p.bind id).isSome ∧ p = slot then s.coreTurns slot ks
    else
      match s.groupTurn k with
      | .next t =>
        if t.grp k = s.grp k ∨ p.isNone = true then t.coreTurns slot ks
        else if slot.isSome then .next t else t.coreTurns p ks
      | .fault f => .fault f
      | .refused r => .refused r

/-- The turns of one cycle, core by core. -/
def State.allTurns (s : State) (order : List Nat) : List Nat → Out
  | [] => .next s
  | c :: cs =>
    match s.coreTurns none (order.filter (fun k => coreOf k = c)) with
    | .next t => t.allTurns order cs
    | .fault f => .fault f
    | .refused r => .refused r

/-- A step with nothing on the agenda: the event that is due, else the turns of the cores' groups in one cycle. -/
def State.ownStep (s : State) : Out :=
  match s.due with
  | some o => o
  | none => s.allTurns s.waitingOrder (unionOnce [] (s.waitingOrder.map coreOf))

/-- SRAM codes have corrected a single-bit error in each of these stores (R23; DESIGN CHOICE, safe: assumption log, 8). -/
def State.noteFixed (s : State) (stores : List Nat) : State :=
  { s with sramFixed := stores.foldl (fun m x => if x < 8 then Machine.put m x (look 0 m x + 1) else m) s.sramFixed }

/-- A step of the module. -/
def State.advance (s : State) : Out :=
  match s.agenda with
  | [] => (s.tick 1).ownStep
  | x :: xs =>
    let t := ({ s with agenda := xs }.noteFixed x.fixed).tick x.dt
    match x.what with
    | .issue k => t.groupTurn k
    | .event i => if isInstruction i then .fault .agendaNamesInstruction else exec i t

end Sys2Proof.Machine
end

