-- ==== Sys2Proof/Machine/Step.lean ====
section
/-! DEFINITION. One step of the machine, and the state in which a given word is the next that a group fetches. -/

namespace Sys2Proof.Machine
open Sys2Proof

/-- One step: the next turn of the agenda, or what is due (DESIGN CHOICE, unsafe: assumption log, 2). -/
def step (s : State) : Host.Outcome State Fault Refusal := s.advance

/-- The virtual address at which `withFetchWord` puts its word. -/
def fetchVa : Nat := 0x10000

/-- `s` as if the service had placed a 16-lane group in slot 0 of core 0 whose next word is `w`, with the context and the
page it runs in, and as if that group's turn came next (DESIGN CHOICE, unsafe: assumption log, 4). -/
def State.withFetchWord (s : State) (_nbits w : Nat) : State :=
  let home := s.device * 2 ^ 52
  let ctx := s.nextCtx
  let table : Ctx :=
    { endpoint := 0, root := 0x1000, mode := some (false, false), lazies := [], ended := false }
  { s with
    booted := true,
    mem := wrLE (wrLE (wrLE (wrLE s.mem (home + 0x1000) 8 (0x20 * 2 ^ 20 + 1)) (home + 0x2000) 8 (0x30 * 2 ^ 20 + 1))
      (home + 0x3000) 8 0xB) (home + fetchVa) 4 w,
    ctxs := Machine.put s.ctxs ctx table,
    nextCtx := ctx + 1,
    homes := s.homes.filter (fun r => r.ctx ≠ ctx),
    cores := Machine.put s.cores 0 { s.core 0 with
      ibuf := [], tlb := [], used := (s.core 0).used - (if (s.inst 0).live then (s.inst 0).held else 0) + 9 },
    insts := Machine.put s.insts 0 { live := true, ctx := ctx, groups := 1, width := 16, spad := 1, held := 9 },
    groups := Machine.put s.groups 0 { live := true, ctx := ctx, pc := BitVec.ofNat 64 fetchVa, em := 0xFFFF },
    agenda := [{ dt := 0, what := .issue 0 }] }

end Sys2Proof.Machine
end

