-- ==== Sys2Proof/Safety.lean ====
section
/-! DEFINITION. What a safe run is, and the terms in which claims speak of one instruction: when its unit issues with
nothing in the way, and what it then comes to. -/

namespace Sys2Proof.Machine
open Sys2Proof

/-- The outcome is a next state. -/
def Out.isNext : Out → Bool
  | .next _ => true
  | .fault _ => false
  | .refused _ => false

/-- `n` steps from `s` all have next states. -/
def safeFor : Nat → State → Bool
  | 0, _ => true
  | n + 1, s =>
    match step s with
    | .next t => safeFor n t
    | .fault _ => false
    | .refused _ => false

/-- The acting group is live and runs. -/
def State.groupRuns (s : State) : Prop := s.me.live = true ∧ s.me.status = .running

/-- The unit of the acting group that ends in `i`: the prefixes it has fetched, then `i` at its PC. -/
def State.unitOf (s : State) (i : Instr) : Flight := s.me.unit i

/-- The acting group runs, nothing holds back its unit that ends in `i` (R232), and that unit meets none of the causes that
are found before its operands are looked at (R237, R289). -/
def State.canIssue (s : State) (i : Instr) : Prop :=
  s.groupRuns ∧ s.me.blocked i = false ∧ s.me.refused (s.unitOf i) s.here = none

/-- `t` with the acting group past its unit that ends in `i`, which is complete: what `i` itself did is in `t`. -/
def State.completed (s : State) (i : Instr) (t : State) : State := s.conclude s.cur (s.unitOf i) (.done t)

/-- The same, with the PC at `pc`. -/
def State.completedAt (s : State) (i : Instr) (t : State) (pc : Word64) : State :=
  s.conclude s.cur (s.unitOf i) (.jump t pc)

/-- Whenever `i` can issue and `p` holds, it completes, its own effect being `t`. -/
def CompletesWhen (i : Instr) (p : State → Prop) (t : State → State) : Prop :=
  ∀ s, s.canIssue i → p s → exec i s = .next (s.completed i (t s))

/-- Whenever `i` can issue, it completes, its own effect being `t`. -/
def Completes (i : Instr) (t : State → State) : Prop := ∀ s, s.canIssue i → exec i s = .next (s.completed i (t s))

/-- Whenever `i` can issue and `p` holds, it completes with effect `t` and the group goes on at `pc`. -/
def GoesTo (i : Instr) (p : State → Prop) (t : State → State) (pc : State → Word64) : Prop :=
  ∀ s, s.canIssue i → p s → exec i s = .next (s.completedAt i (t s) (pc s))

/-- Whenever `i` can issue and `p` holds, it meets cause `c`: with no older unit incomplete the cause is taken, or goes
to the steward (R246), with nothing of `i` done; until then the unit has not issued. -/
def TrapsWhen (i : Instr) (p : State → Prop) (c : State → Cause) : Prop :=
  ∀ s, s.canIssue i → p s → exec i s = .next (if s.me.flight.isEmpty then s.fault s.cur (c s) else s)

/-- Whenever `i` can issue and `p` holds, its unit waits as `v` says, what it did so far being `t`. -/
def WaitsWhen (i : Instr) (p : State → Prop) (t : State → State) (v : State → Flight) : Prop :=
  ∀ s, s.canIssue i → p s → exec i s = .next (s.conclude s.cur (s.unitOf i) (.wait (t s) (v s)))

/-- The active lanes of the acting group's unit that ends in `i` (R28). -/
def State.lanesOf (s : State) (i : Instr) : List Nat := (s.unitOf i).lanes s.me

/-- `s` with scalar `d` of the acting group holding `x`. -/
def State.withS (s : State) (d : SReg) (x : Word64) : State := s.onMe (fun g => g.setS d x)

/-- `s` with vector register `d` of the acting group holding `f` of each active lane of its unit `i`. -/
def State.withV (s : State) (i : Instr) (d : VReg) (f : Nat → Word32) : State :=
  s.onMe (fun g => g.writeLanes d f (s.lanesOf i))

/-- `s` with predicate `p` of the acting group holding `f` of each active lane of its unit `i`. -/
def State.withP (s : State) (i : Instr) (p : PReg) (f : Nat → Bool) : State :=
  s.onMe (fun g => g.writeP p (g.active (s.unitOf i).pfx) f)

/-- `s` with the flags `f` raised in the acting group's GSTAT. -/
def State.withFlags (s : State) (f : Flags) : State := s.onMe (fun g => g.raise f)

/-- The memories of the module are in canonical form. -/
def State.memoryWf (s : State) : Bool := s.mem.wf && s.lm.wf && s.bstore.wf

/-- Nothing is under way that an access of the acting group's core could wait for or meet: no store on its way or held, no
pin and no request that one has refused, no word held for an atomic, no uncorrectable word, no window bound, no register of the
control range written, no plane down, no round open, no miss-status entry taken, no older unit in the group's run-ahead window;
the core's L1 holds nothing, and its log has room; the group has no store that a trap has cut short. -/
def State.quiet (s : State) : Prop :=
  s.held = [] ∧ s.pins = [] ∧ s.refusals = [] ∧ s.aholds = [] ∧ s.bad = [] ∧ s.sramBad = [] ∧ s.remote = [] ∧ s.pchans = [] ∧
  s.down = [] ∧ s.rounds = [] ∧
  (∀ x ∈ s.insts, ∀ y ∈ x.2.wins, y.2.state = .empty) ∧
  (s.core s.here).rejected = [] ∧ (s.core s.here).granted = [] ∧ (s.core s.here).missUsed = 0 ∧
  (s.core s.here).stores = [] ∧ (s.core s.here).l1 = [] ∧ (s.core s.here).log.length < Config.logSize ∧ s.me.flight = [] ∧
  s.me.heldStores = []

/-- (lane, address) of each active lane of the acting group's unit `i`: s[b] + v[o] sign-extended, times `scale` (R287). -/
def State.laneAddrs (s : State) (i : Instr) (b : SReg) (o : VReg) (scale : Nat) : List (Nat × Nat) :=
  (s.lanesOf i).map (fun k => (k, (s.me.sreg b + (s.me.vreg o k).signExtend 64 * BitVec.ofNat 64 scale).toNat))

/-- Plain pages of this module, below the control range. -/
def State.plainHere (s : State) (xs : List GLane) : Prop := ∀ x ∈ xs, x.at_.plain = true ∧ x.at_.home = s.device

/-- Everything but the acting group, the cores and the pins is as in `s`; every other group is, but for the lines
that a release has marked and that are still to be pinned (R175). -/
def State.restOf (s t : State) : Prop :=
  t.mem = s.mem ∧ t.lm = s.lm ∧ t.full = s.full ∧ t.bstore = s.bstore ∧ t.insts = s.insts ∧ t.cur = s.cur ∧
  (∀ k, k ≠ s.cur → { t.grp k with marked := [] } = { s.grp k with marked := [] })

/-- The unit `u` of group `k` has completed, what it did being in `t`. -/
def State.finishes (t : State) (k : Nat) (u : Flight) : State := (t.onGrp k (fun g => g.settle u.first)).calm k

/-- Of the units that wait as `p` says, there is one: `u` of group `k`, the only unit of that group at its address. -/
def State.onlyWaiter (s : State) (p : Nat → Flight → Bool) (k : Nat) (u : Flight) : Prop :=
  s.waiters p = [(k, u)] ∧ (s.grp k).incomplete.find? (fun x => x.first = u.first) = some u

/-- Nothing of a deferred record, and no commit, is under way in the module. -/
def State.noRecords (s : State) : Prop :=
  (∀ x ∈ s.cores, x.2.log = []) ∧ s.units = [] ∧ s.transit = [] ∧ s.chans = [] ∧ s.abroad = [] ∧ s.binsOut = [] ∧
  s.farBins = [] ∧ s.farCommits = [] ∧ s.lostOrigins = [] ∧ s.commits = []

/-- The service runs, a request of operation `opc` has a good header and at least `need` bytes of body, and no request of
its connection is outstanding. -/
def State.takes (s : State) (opc need : Nat) (h : ReqHdr) (body : List Byte) : Prop :=
  s.booted = true ∧ h.opc = opc ∧ s.outstanding h.conn = 0 ∧ hdrBad h body need = false

/-- The address lies in a launch record of the ring in device memory (R276). -/
def State.ringByte (s : State) (a : Nat) : Prop :=
  ∃ b, s.ringBase = some b ∧ ∃ x ∈ s.ring, s.device * 2 ^ 52 + b + 128 * x.1 ≤ a ∧ a < s.device * 2 ^ 52 + b + 128 * x.1 + 128

/-- The reply with which the service ends a request. -/
def replyTo (h : ReqHdr) (status cause ctx : Nat) (body : List Byte) : Reply :=
  { conn := h.conn, opc := h.opc, flags := 1, tag := h.tag, ctx := ctx, status := status, cause := cause, body := body }

end Sys2Proof.Machine
end

