-- ==== Sys2Proof/Certificates/Slice0/Obligations.lean ====
section
/-! DEFINITION. The statements for the provers. Each docstring names the rules of spec/ that it formalises. -/

open Sys2Proof Sys2Proof.Machine

/-! ## Reset, steps and encodings -/

/-- R12, R55, R81, R145, R148, R257, R295: the module right after reset, in what the rules give: nothing is placed, spilled or
open; a compute core's limit is 2,048 courses, 16 task slots and 64 group slots, a steward core's 768, 4 and 16, all free;
queues are disabled and generations zero; polders are of 64 MB; the blocks of the pseudo-channels hold their reset column;
CYCLE is zero. That memory lists nothing is the model's reading of an unwritten byte (DESIGN CHOICE, unsafe: assumption log,
1), and that the resident program of a steward core holds back nothing yet is the model's choice (DESIGN CHOICE, unsafe:
assumption log, 30). -/
def Obligations.ResetState : Prop :=
  let s := State.reset
  (s.groups = [] ∧ s.insts = [] ∧ s.sets = [] ∧ s.spill = [] ∧ s.ctxs = [] ∧ s.conns = [] ∧ s.booted = false ∧
    s.spillMax = 65536 ∧ s.cycle = 0 ∧ s.memoryWf = true) ∧
  (∀ c < 256, (s.core c).limCourses = 2048 ∧ (s.core c).limTslots = 16 ∧ (s.core c).limGslots = 64 ∧ (s.core c).free = 2048) ∧
  (∀ c, 256 ≤ c → c < 260 →
    (s.core c).limCourses = 768 ∧ (s.core c).limTslots = 4 ∧ (s.core c).limGslots = 16 ∧ (s.core c).free = 768) ∧
  (∀ c q, look 0 (s.core c).qcfg q = 0 ∧ look false (s.core c).gen q = false ∧ (s.core c).throttle = 0 ∧
    (s.core c).crews = [] ∧ (s.core c).claims = [] ∧ (s.core c).stores = [] ∧ (s.core c).log = []) ∧
  (∀ ch, (s.chan ch).polder = 4 ∧ (s.chan ch).slots = [] ∧ (s.chan ch).grant = false) ∧
  (∀ p, (s.pchan p).own = false ∧ (s.pchan p).trcmd = 0 ∧ (s.pchan p).trres = 0 ∧ (s.pchan p).lrep = 0 ∧
    (s.pchan p).rcth = 2048 ∧ (s.pchan p).scrub = 24 ∧ (s.pchan p).bistctl = 0)

/-- R82, R232, R235, R282, R294, R361: the turn of a group that runs, with nothing of it incomplete and no pre-emption to take, is
to issue the word that it fetches. Where the word decodes, the step is what that instruction does, or passes the word of a
unit that TSKIP marks; where it does not, the group takes 0x01 at the word; where the fetch meets a cause, that cause. The
fetched word is the little-endian word at the PC's place, or the one that the core's instruction buffer holds of it: a copy that
has not been evicted is what the fetch reads. A turn of another agent is what its event does. That a step takes
its turn from the agenda is the model's choice (DESIGN CHOICE, safe: assumption log, 2). -/
def Obligations.StepRunsDecoded : Prop :=
  (∀ (s : State) (k dt : Nat) (rest : List Turn),
    let s1 := ({ s with agenda := rest } : State).tick dt
    let g := s1.grp k
    s.agenda = { dt := dt, what := .issue k } :: rest → g.live = true → g.status = .running → g.yielded ≠ some s1.cycle →
    s1.throttled (coreOf k) = false → g.serviceVector = none → g.incomplete = [] → g.priv = true ∨ g.preempt = none →
    let s2 := s1.fetchTouch k
    (∀ (w : Word32) (t : State), s2.fetch k = .ok (w, t) →
      (∀ i, decode w = some i → g.skip.head? ≠ some true → step s = exec i { t with cur := k }) ∧
      (∀ i, decode w = some i → g.skip.head? = some true → step s = .next (t.onGrp k (fun g => g.skipWordAt w i))) ∧
      (decode w = none → g.flight = [] →
        step s = .next (t.fault k { code := 1, taddr := (t.grp k).pc, tinfo := w.setWidth 64 }))) ∧
    (∀ c, s2.fetch k = .error c → g.flight = [] → step s = .next (s2.fault k c))) ∧
  (∀ (s : State) (k : Nat) (p : Place), s.translate (coreOf k) (s.grp k).ctx (s.grp k).pc.toNat 0 false true = .ok p →
    pteX p.leaf = true → p.pa < Config.controlBase → s.unreachable p = false →
    p.home = s.device → s.fetchHeld k p = false → s.bad = [] → s.stranded [((s.grp k).firstWord.toNat, p.key)] = none →
    ∃ w t, s.fetch k = .ok (w, t) ∧ t.groups = s.groups ∧ t.mem = s.mem ∧ t.lm = s.lm ∧
      (w = BitVec.ofNat 32 (s.homeBytes p.key 4) ∨ find? (s.core (coreOf k)).ibuf (wordKey p) = some w) ∧
      (∀ v, find? (s.core (coreOf k)).ibuf (wordKey p) = some v → Config.ibufEvicts (coreOf k) (wordKey p) s.free = false → w = v)) ∧
  (∀ (s : State) (k : Nat), (s.fetchTouch k).groups = s.groups ∧ (s.fetchTouch k).cores = s.cores ∧
    (s.fetchTouch k).mem = s.mem ∧ (s.fetchTouch k).lm = s.lm) ∧
  (∀ (s : State) (key n : Nat), s.homeBytes key n = rdLE s.mem key n) ∧
  (∀ (s : State) (dt : Nat) (i : Instr) (rest : List Turn), s.agenda = { dt := dt, what := .event i } :: rest → i.code = none →
    step s = exec i (({ s with agenda := rest } : State).tick dt)) ∧
  (∀ (s : State) (k : Nat), s.agenda = [] → (s.tick 1).due = none → (s.tick 1).waitingOrder = [k] →
    step s = (s.tick 1).groupTurn k)

/-- R283, R285: words written out from the encoding tables, field by field, and the instructions that they stand for. -/
def Obligations.DecodeWords : Prop :=
  decode (0x00#6 ++ 0x1#4 ++ 0#22 : BitVec 32) = some .nop ∧
  decode (0x0A#6 ++ 0#4 ++ 3#6 ++ 4#6 ++ 5#6 ++ 0#4 : BitVec 32) = some (.sadd 3 4 5) ∧
  decode (0x0B#6 ++ 0#2 ++ 1#6 ++ 2#6 ++ 0xFFF#12 : BitVec 32) = some (.saddImm 1 2 0xFFF) ∧
  decode (0x10#6 ++ 0#4 ++ 9#7 ++ 8#7 ++ 7#7 ++ 0#1 : BitVec 32) = some (.vadd 9 8 (.vec 7)) ∧
  decode (0x10#6 ++ 0#4 ++ 9#7 ++ 8#7 ++ 7#7 ++ 1#1 : BitVec 32) = some (.vadd 9 8 (.sca 7)) ∧
  decode (0x16#6 ++ 0#4 ++ 14#7 ++ 12#7 ++ 41#7 ++ 0#1 : BitVec 32) = some (.shflIdx 14 12 (.vec 41)) ∧
  decode (0x06#6 ++ 0#4 ++ 2#4 ++ 3#18 : BitVec 32) = some (.split 2 3) ∧
  decode (0x08#6 ++ 5#7 ++ 6#19 : BitVec 32) = some (.brx 5 6) ∧
  decode (0x01#6 ++ 0#2 ++ 0xABCDEF#24 : BitVec 32) = some (.pfxImm 0xABCDEF) ∧
  decode (0x29#6 ++ 0#4 ++ 2#4 ++ 10#6 ++ 0#6 ++ 1#6 : BitVec 32) = some (.wsetG 2 10) ∧
  decode (0x29#6 ++ 3#4 ++ 2#4 ++ 0#6 ++ 12#6 ++ 0#6 : BitVec 32) = some (.wmark 2 12)

/-- R283 to R292: every instruction that some word spells has a word, and that word decodes to it with every operand as it is; a
word that decodes is the word of what it decodes to, so each instruction has one word. -/
def Obligations.RoundTrip : Prop :=
  (∀ i : Instr, i.wf = true → i.code.isSome = true → ∃ w, encode i = some w ∧ decode w = some i) ∧
  (∀ (w : Word32) (i : Instr), decode w = some i → i.wf = true ∧ encode i = some w)

/-- R109, R284, R285, R287, R288, R294: words that are no instruction: major 0x00 with function 0, majors 0x2A to 0x3F, a kind of
prefix that is reserved, a scalar operand past s63. In the M form: a store of WD 1, 3 or 7, a touch with a register or a
qualifier, Q = 3 on LDG or STG, or with another WD than 4 on LDL or STL, and b64 or b128 data whose first register is not a
multiple of 2 or of 4. In the A form: AND, OR, XOR and CAS of f32, RED of XCHG and CAS, and i64 data, and the data of CAS, whose
first register is not a multiple of its span. FCVT function 12 with an odd first register. -/
def Obligations.ReservedWords : Prop :=
  (∀ x : BitVec 22, decode (0x00#6 ++ 0#4 ++ x : BitVec 32) = none) ∧
  (∀ w : Word32, 0x2A ≤ (w.extractLsb' 26 6).toNat → decode w = none) ∧
  (∀ x : BitVec 24, decode (0x01#6 ++ 3#2 ++ x : BitVec 32) = none) ∧
  (∀ (wd : BitVec 3) (q : BitVec 2) (r o : BitVec 7) (b : BitVec 6) (sc : BitVec 1),
    let word := fun (maj : BitVec 6) => (maj ++ wd ++ q ++ r ++ b ++ o ++ sc : BitVec 32)
    (∀ maj ∈ [0x1E#6, 0x20#6], wd ∈ [1#3, 3#3, 7#3] → decode (word maj) = none) ∧
    (∀ maj ∈ [0x1D#6, 0x1F#6], wd = 7 → r ≠ 0 ∨ q ≠ 0 → decode (word maj) = none) ∧
    (∀ maj ∈ [0x1D#6, 0x1E#6], q = 3 → decode (word maj) = none) ∧
    (∀ maj ∈ [0x1F#6, 0x20#6], q = 3 → wd ≠ 4 → decode (word maj) = none) ∧
    (∀ maj ∈ [0x1D#6, 0x1E#6, 0x1F#6, 0x20#6],
      (wd = 5 → r.toNat % 2 ≠ 0 → decode (word maj) = none) ∧ (wd = 6 → r.toNat % 4 ≠ 0 → decode (word maj) = none))) ∧
  (∀ (op : BitVec 4) (d o : BitVec 7) (b : BitVec 6) (ty : BitVec 2),
    let word := fun (maj : BitVec 6) => (maj ++ op ++ d ++ b ++ o ++ ty : BitVec 32)
    (∀ maj ∈ [0x21#6, 0x22#6, 0x23#6],
      (8 ≤ op.toNat → decode (word maj) = none) ∧ (ty = 2 → op ∈ [3#4, 4#4, 5#4, 7#4] → decode (word maj) = none) ∧
      (ty = 3 ∨ op = 7 → d.toNat % 2 ≠ 0 → decode (word maj) = none) ∧
      (ty = 3 → op = 7 → d.toNat % 4 ≠ 0 → decode (word maj) = none)) ∧
    (op = 6 ∨ op = 7 → decode (word 0x22#6) = none)) ∧
  (∀ (d a : BitVec 7) (x : BitVec 8), a.toNat % 2 ≠ 0 → decode (0x1B#6 ++ 12#4 ++ d ++ a ++ x : BitVec 32) = none) ∧
  (∀ (fn : BitVec 4) (d a : BitVec 7) (b : BitVec 6), decode (0x10#6 ++ fn ++ d ++ a ++ 1#1 ++ b ++ 1#1 : BitVec 32) = none)

/-! ## The whole machine -/

/-- R28, R231, R233, R293: every instruction and every event has a next state, whatever the state: what a unit meets is a trap, a
wait or its effect, and an event whose condition does not hold leaves the state as it is (DESIGN CHOICE, safe: assumption log, 2). -/
def Obligations.ExecAnswersNext : Prop :=
  ∀ (i : Instr) (s : State), ∃ t, exec i s = .next t

/-- The memories of the module keep their canonical form over every step, from every state: addresses rising, each once, and
no entry that reads as an unlisted byte does (DESIGN CHOICE, unsafe: assumption log, 1). -/
def Obligations.MemoryCanonical : Prop :=
  ∀ s t : State, s.memoryWf = true → step s = .next t → t.memoryWf = true

/-- R231, R234, R354: no instruction of a group without privilege changes that group's TVEC, WDLIM, POL or SUSP, while the group
is alive: an EXIT that ends its instance can place a successor's group there, which is another group (R51). -/
def Obligations.PrivilegedState : Prop :=
  ∀ (i : Instr) (s t : State), i.code.isSome = true → s.me.priv = false → exec i s = .next t → (t.grp s.cur).live = true →
    (i = .exit ∨ (∃ a, i = .exitH a) → s.myInst.exited.length + 1 < s.myInst.groups) →
    (t.grp s.cur).tvec = s.me.tvec ∧ (t.grp s.cur).wdlim = s.me.wdlim ∧ (t.grp s.cur).pol = s.me.pol ∧
    (t.grp s.cur).susp = s.me.susp

/-- R232, R233: what a completed unit leaves besides its own effect: the PC after it, no prefix pending, and every register,
flag and special register of every group, and every memory, as the effect left it.
R61, R66, R26: what writing registers leaves. A scalar, a lane of a vector register, a predicate and a lane of one read what was
written, and every other one as before; a write to p15 is discarded. -/
def Obligations.CompletedFrame : Prop :=
  (∀ (s t : State) (i : Instr),
    let r := s.completed i t
    let g := r.grp s.cur
    let h := t.grp s.cur
    (g.pc = s.me.pc + 4 ∧ g.pfx = [] ∧ g.lastIssue = s.cycle) ∧
    (g.v = h.v ∧ g.s = h.s ∧ g.shadow = h.shadow ∧ g.p = h.p ∧ g.g = h.g ∧ g.em = h.em ∧ g.blocks = h.blocks ∧
      g.gstat = h.gstat ∧ g.mstride = h.mstride ∧ g.mfmt = h.mfmt ∧ g.mkres = h.mkres ∧ g.dsb = h.dsb ∧ g.dsd = h.dsd ∧
      g.dfmt = h.dfmt ∧ g.crew = h.crew ∧ g.tvec = h.tvec ∧ g.tcause = h.tcause ∧ g.tepc = h.tepc ∧ g.taddr = h.taddr ∧
      g.tinfo = h.tinfo ∧ g.priv = h.priv ∧ g.susp = h.susp ∧ g.det = h.det ∧ g.pol = h.pol ∧ g.wdlim = h.wdlim ∧
      g.tskip = h.tskip ∧ g.live = h.live ∧ g.status = h.status) ∧
    (∀ k, k ≠ s.cur → r.grp k = t.grp k) ∧
    (r.mem = t.mem ∧ r.lm = t.lm ∧ r.full = t.full ∧ r.bstore = t.bstore ∧ r.insts = t.insts ∧ r.sets = t.sets) ∧
    (∀ c, { r.core c with watchdog := [] } = { t.core c with watchdog := [] }) ∧
    (∀ pc, (s.completedAt i t pc).grp s.cur = { g with pc := pc })) ∧
  (∀ (s : State) (i : Instr) (d : SReg) (x : Word64) (v : VReg) (f : Nat → Word32), s.me.width ≤ 64 →
    ((s.withS d x).me.sreg d = x ∧ (∀ r, r ≠ d.val → (s.withS d x).me.sreg r = s.me.sreg r) ∧
      (s.withS d x).me.v = s.me.v ∧ (s.withS d x).me.p = s.me.p ∧ (s.withS d x).me.gstat = s.me.gstat ∧
      (s.withS d x).mem = s.mem ∧ (s.withS d x).lm = s.lm) ∧
    ((∀ k ∈ s.lanesOf i, (s.withV i v f).me.vreg v k = f k) ∧
      (∀ k < 64, k ∉ s.lanesOf i → (s.withV i v f).me.vreg v k = s.me.vreg v k) ∧
      (∀ r k, r ≠ v.val → k < 64 → (s.withV i v f).me.vreg r k = s.me.vreg r k) ∧
      (s.withV i v f).me.s = s.me.s ∧ (s.withV i v f).me.p = s.me.p ∧ (s.withV i v f).me.gstat = s.me.gstat ∧
      (s.withV i v f).mem = s.mem ∧ (s.withV i v f).lm = s.lm) ∧
    (∀ (p : PReg) (c : Nat → Bool) (w : Word64),
      let a := s.withP i p c
      let b := s.onMe (fun g => g.setP p w)
      (p ≠ 15 → b.me.preg p = w ∧ (∀ k ∈ s.lanesOf i, (a.me.preg p).getLsbD k = c k) ∧
        (∀ k < s.me.width, k ∉ s.lanesOf i → (a.me.preg p).getLsbD k = (s.me.preg p).getLsbD k)) ∧
      (∀ q : PReg, q ≠ p ∨ p = 15 → a.me.preg q = s.me.preg q ∧ b.me.preg q = s.me.preg q) ∧
      (a.me.s = s.me.s ∧ a.me.v = s.me.v ∧ a.me.gstat = s.me.gstat ∧ a.mem = s.mem ∧ a.lm = s.lm) ∧
      (b.me.s = s.me.s ∧ b.me.v = s.me.v ∧ b.me.gstat = s.me.gstat ∧ b.mem = s.mem ∧ b.lm = s.lm)) ∧
    (∀ k, k ∈ s.lanesOf i ↔ (k < s.me.width ∧ s.me.em.getLsbD k = true ∧ (s.me.guardMask s.me.pfx).getLsbD k = true)))

/-- R237, R289, R232: a unit that a cause of acceptance, privilege or VCOUNT refuses does nothing but take that cause, once
no older unit is incomplete; a unit that the scoreboard holds, or a group that does not run, does nothing. For every
instruction that a group issues but the prefixes.
R289, R290, R291, R292: a prefix joins the unit of the words after it, and the same kind twice is refused with 0x01 at
the second; an IMM prefix widens an immediate of n bits to n + 24; without one it is sign-extended. That TADDR and TINFO name the
second of two prefixes of one kind is the model's reading (DEDUCED, unsafe: assumption log, 18). -/
def Obligations.Acceptance : Prop :=
  (∀ (i : Instr) (s : State), i.code.isSome = true →
    (∀ p, i ≠ .pfxImm p) → (∀ a b c d, i ≠ .pfxOp a b c d) → (∀ a b c d e f, i ≠ .pfxMod a b c d e f) →
    (∀ c, s.groupRuns → s.me.blocked i = false → s.me.refused (s.unitOf i) s.here = some c →
      exec i s = .next (if s.me.flight.isEmpty then s.fault s.cur c else s)) ∧
    (s.me.blocked i = true → exec i s = .next s) ∧ (¬ s.groupRuns → exec i s = .next s)) ∧
  ((∀ (s : State) (i : Instr), ((∃ p, i = .pfxImm p) ∨ (∃ a b c d, i = .pfxOp a b c d) ∨ (∃ a b c d e f, i = .pfxMod a b c d e f)) →
    s.groupRuns → (s.me.incomplete.any (fun u => holdsIssue u.instr)) = false →
    let w := BitVec.ofNat 32 (i.code.getD 0)
    let twice := s.me.pfx.any (fun x => x.word.toNat / 2 ^ 24 = w.toNat / 2 ^ 24)
    (twice = false → ∃ t, exec i s = .next t ∧ t.me.pfx = s.me.pfx ++ [{ addr := s.me.pc, word := w }] ∧
      t.me.pc = s.me.pc + 4 ∧ t.me.s = s.me.s ∧ t.me.v = s.me.v ∧ t.me.p = s.me.p ∧ t.me.gstat = s.me.gstat ∧
      t.me.flight = s.me.flight ∧ t.mem = s.mem ∧ t.lm = s.lm) ∧
    (twice = true → exec i s = .next (if s.me.flight.isEmpty then
      s.fault s.cur { code := 1, taddr := s.me.pc, tinfo := w.setWidth 64 } else s))) ∧
  (∀ (u : Flight) (n v : Nat), u.pfx = [] → u.imm n v = (BitVec.ofNat n v).toInt) ∧
  (∀ (u : Flight) (n v : Nat) (a : Word64) (p : BitVec 24), u.pfx = [{ addr := a, word := (0x04#8 ++ p : BitVec 32) }] →
    v < 2 ^ n → u.imm n v = ((p ++ BitVec.ofNat n v : BitVec (24 + n))).toInt))

/-! ## Traps and special registers -/

/-- R233, R234: trap entry of a group that is not privileged.
R236: an illegal-instruction trap of a unit without prefixes leaves TEPC and TADDR at the unit's address and TINFO its
word; TRAP and BKPT leave TEPC at the unit after them, TADDR at themselves, and TRAP its code in TINFO.
R238: a pre-emption that reaches a privileged group stays pending; any other cause ends its context: the group stops,
and the launcher is told both causes with TEPC, TADDR and TINFO of each; no byte of memory changes but of the launch records. -/
def Obligations.TrapEntry : Prop :=
  (∀ (s : State) (k : Nat) (c : Cause), (s.grp k).priv = false → c.code ≠ 0x0E →
    let g := s.grp k
    let h := (s.takeTrap k c).grp k
    h.tcause = BitVec.ofNat 64 c.code ∧ h.taddr = c.taddr ∧ h.tinfo = c.tinfo ∧ h.priv = true ∧
    h.pc = (g.tvec &&& 0xFFFFFFFFFFFFF000) + BitVec.ofNat 64 (64 * c.code) ∧ h.pfx = [] ∧ h.flight = [] ∧
    (∀ r, 56 ≤ r → r < 64 → h.sreg r = look 0 g.shadow r ∧ look 0 h.shadow r = g.sreg r) ∧
    (∀ r, r < 56 → h.sreg r = g.sreg r) ∧ h.em = g.em ∧ h.p = g.p ∧ h.g = g.g ∧ h.dsd = g.dsd ∧ h.dsb = g.dsb ∧
    h.tvec = g.tvec ∧ h.mstride = g.mstride ∧ h.mfmt = g.mfmt ∧ h.crew = g.crew ∧
    (s.takeTrap k c).mem = s.mem ∧ (s.takeTrap k c).lm = s.lm ∧ (∀ j, j ≠ k → (s.takeTrap k c).grp j = s.grp j) ∧
    (g.flight = [] → (∀ e ∈ (s.core (coreOf k)).sfu, e.grp ≠ k) →
      h.gstat = g.gstat ∧ h.v = g.v ∧ h.mkres = g.mkres ∧ (g.skip.head? ≠ some true → h.tepc = g.firstWord))) ∧
  ((∀ (s : State) (c : BitVec 12), s.canIssue (.trap c) → s.me.priv = false → ∃ t, exec (.trap c) s = .next t ∧
    t.me.tepc = s.me.pc + 4 ∧ t.me.taddr = s.me.pc ∧ t.me.tinfo = c.setWidth 64 ∧ t.me.tcause = 0x10 ∧ t.me.priv = true ∧
    t.me.tskip = 0 ∧ t.me.pc = (s.me.tvec &&& 0xFFFFFFFFFFFFF000) + 0x400 ∧ t.mem = s.mem ∧ t.lm = s.lm) ∧
  (∀ (s : State), s.canIssue .bkpt → s.me.priv = false → ∃ t, exec .bkpt s = .next t ∧
    t.me.tepc = s.me.pc + 4 ∧ t.me.taddr = s.me.pc ∧ t.me.tinfo = 0 ∧ t.me.tcause = 0x0F ∧ t.me.priv = true ∧
    t.me.tskip = 0 ∧ t.me.pc = (s.me.tvec &&& 0xFFFFFFFFFFFFF000) + 0x3C0 ∧ t.mem = s.mem ∧ t.lm = s.lm)) ∧
  ((∀ (s : State) (k : Nat) (c : Cause), (s.grp k).priv = true → c.code = 0x0E →
    (s.grp k).flight.any Flight.leaving = false → (s.grp k).skip.head? ≠ some true →
    s.takeTrap k c = s.setGrp k { s.grp k with preempt := some c.tinfo.toNat }) ∧
  (∀ (s : State) (k : Nat) (c : Cause), (s.grp k).priv = true → c.code ≠ 0x0E → (s.grp k).skip.head? ≠ some true →
    let t := s.takeTrap k c
    let g := s.grp k
    (∀ x, find? s.ctxs g.ctx = some x → ∃ y, find? t.ctxs g.ctx = some y ∧ y.ended = true) ∧
    ((t.grp k).live = false ∨ (t.grp k).status = .stopped) ∧
    (∃ r ∈ t.replies, r.status = 1 ∧ r.cause = c.code ∧ r.ctx = g.ctx ∧
      r.body = [g.tcause, g.tepc, g.taddr, g.tinfo, BitVec.ofNat 64 c.code, g.resumePc, c.taddr, c.tinfo].flatMap
        (fun w => (cellsLE 0 8 w.toNat).map Prod.snd)) ∧
    (∀ a, ¬ s.ringByte a → rdByte t.mem a = rdByte s.mem a) ∧ t.lm = s.lm))

/-- R235, R231: ERET of a privileged group exchanges s56 to s63 with the shadow bank, drops privilege and goes on at TEPC,
skipping the units that TSKIP marks; a pending pre-emption is taken at once, TEPC and TSKIP unchanged; without privilege
ERET takes 0x03. That it skips the unit at TEPC too, where that one had completed before the trap and its words could not be read,
is the model's reading (DEDUCED, unsafe: assumption log, 11). -/
def Obligations.ReturnFromTrap : Prop :=
  (∀ s, s.canIssue .eret → s.me.priv = true → s.me.preempt = none → ∃ t, exec .eret s = .next t ∧
    t.me.priv = false ∧ t.me.pc = s.me.tepc ∧ t.me.tepc = s.me.tepc ∧ t.me.tskip = s.me.tskip ∧ t.me.gstat = s.me.gstat ∧
    (∀ r, 56 ≤ r → r < 64 → t.me.sreg r = look 0 s.me.shadow r ∧ look 0 t.me.shadow r = s.me.sreg r) ∧
    (∀ r, r < 56 → t.me.sreg r = s.me.sreg r) ∧ t.me.v = s.me.v ∧ t.me.p = s.me.p ∧ t.me.em = s.me.em ∧
    t.me.pfx = [] ∧ t.me.skip.head? = some (s.me.heldDone && decide (s.me.tepc = s.me.heldAt)) ∧
    (∀ k < 16, t.me.skip[k + 1]? = some (s.me.tskip.getLsbD k)) ∧ t.mem = s.mem ∧ t.lm = s.lm) ∧
  (∀ s r, s.canIssue .eret → s.me.priv = true → s.me.preempt = some r → ∃ t, exec .eret s = .next t ∧
    t.me.priv = true ∧ t.me.preempt = none ∧ t.me.tcause = 0x0E ∧ t.me.taddr = 0 ∧ t.me.tinfo = BitVec.ofNat 64 r ∧
    t.me.tepc = s.me.tepc ∧ t.me.tskip = s.me.tskip ∧ (∀ q < 64, t.me.sreg q = s.me.sreg q) ∧
    t.me.pc = (s.me.tvec &&& 0xFFFFFFFFFFFFF000) + 0x380) ∧
  (TrapsWhen .eret (fun s => s.me.priv = false) (fun _ => { code := 3, taddr := 0, tinfo := 0x01000000 }))

/-- R295, R354, R355, R231, R234: MFSR reads and MTSR writes the special registers. A number of no register is 0x02; a
privileged register without privilege, or a write of one that only reads, is 0x03; a value with a reserved bit or out of
range is 0x02, the register unchanged.
R295, R354, R355: a writable register reads what was written to it, and every other register reads as before; TMODE takes
SUSP alone; TSV0 to TSV7 are the shadow bank. -/
def Obligations.SpecialRegisters : Prop :=
  ((∀ (d : SReg) (n : BitVec 12),
    CompletesWhen (.mfsr d n) (fun s => specialExists n.toNat = true ∧ (n.toNat < 0x100 ∨ s.me.priv = true))
      (fun s => s.withS d (s.special s.cur n.toNat)) ∧
    TrapsWhen (.mfsr d n) (fun _ => specialExists n.toNat = false) (fun s => (s.unitOf (.mfsr d n)).operand) ∧
    TrapsWhen (.mfsr d n) (fun s => specialExists n.toNat = true ∧ 0x100 ≤ n.toNat ∧ s.me.priv = false)
      (fun s => { code := 3, taddr := 0, tinfo := (s.unitOf (.mfsr d n)).word })) ∧
  (∀ (a : SReg) (n : BitVec 12),
    CompletesWhen (.mtsr a n) (fun s => specialExists n.toNat = true ∧ specialWritable n.toNat = true ∧
        (n.toNat < 0x100 ∨ s.me.priv = true) ∧ specialGood n.toNat (s.me.sreg a) = true)
      (fun s => s.setSpecial s.cur n.toNat (s.me.sreg a)) ∧
    TrapsWhen (.mtsr a n) (fun s => specialExists n.toNat = true ∧ specialWritable n.toNat = true ∧
        (n.toNat < 0x100 ∨ s.me.priv = true) ∧ specialGood n.toNat (s.me.sreg a) = false)
      (fun s => (s.unitOf (.mtsr a n)).operand) ∧
    TrapsWhen (.mtsr a n) (fun s => specialExists n.toNat = true ∧
        (specialWritable n.toNat = false ∨ (0x100 ≤ n.toNat ∧ s.me.priv = false)))
      (fun s => { code := 3, taddr := 0, tinfo := (s.unitOf (.mtsr a n)).word })) ∧
  (∀ (s : State) (k : Nat),
    let g := s.grp k
    let i := s.inst (instKey k g)
    s.special k 0x000 = BitVec.ofNat 64 g.gidx ∧ s.special k 0x001 = BitVec.ofNat 64 g.width ∧
    s.special k 0x002 = BitVec.ofNat 64 (k / 64) ∧ s.special k 0x004 = BitVec.ofNat 64 i.taskix ∧ s.special k 0x006 = i.argp ∧
    s.special k 0x007 = g.crew ∧ s.special k 0x008 = BitVec.ofNat 64 (8 * g.blocks) ∧
    s.special k 0x010 = BitVec.ofNat 64 s.cycle ∧ s.special k 0x100 = g.tvec ∧ s.special k 0x101 = g.tcause ∧
    s.special k 0x103 = g.taddr ∧ s.special k 0x104 = g.tinfo)) ∧
  (∀ (s : State) (k n : Nat) (w : Word64), specialWritable n = true → specialGood n w = true →
    (n ≠ 0x105 → (s.setSpecial k n w).special k n = w) ∧
    (∀ m, m ≠ n → (s.setSpecial k n w).special k m = s.special k m) ∧
    ((s.setSpecial k 0x105 w).grp k = { s.grp k with susp := w.getLsbD 3 }) ∧
    (∀ r, 56 ≤ r → r < 64 → look 0 ((s.setSpecial k (0x108 + (r - 56)) w).grp k).shadow r = w) ∧
    (s.setSpecial k n w).mem = s.mem ∧ (s.setSpecial k n w).lm = s.lm ∧ ((s.setSpecial k n w).grp k).s = (s.grp k).s ∧
    ((s.setSpecial k n w).grp k).v = (s.grp k).v)

/-! ## Scalars, lanes and predicates -/

/-- R61 to R63: the instructions of majors 0x0A and 0x0B but division: arithmetic modulo 2^64 without SAT, clamped signed and
unsigned under SAT = 1 and 2, the high product, logic, shifts by the low six bits, least, greatest, selection by the lowest
lane set in EM, and the immediates. -/
def Obligations.ScalarArithmetic : Prop :=
  (∀ (d a b : SReg) (imm : BitVec 12),
    (CompletesWhen (.sadd d a b) (fun s => (s.unitOf (.sadd d a b)).sat = 0)
      (fun s => s.withS d (s.me.sreg a + s.me.sreg b))) ∧
    (CompletesWhen (.sadd d a b) (fun s => (s.unitOf (.sadd d a b)).sat = 1)
      (fun s => s.withS d (BitVec.ofInt 64
        (max (-(2 ^ 63)) (min (2 ^ 63 - 1) ((s.me.sreg a).toInt + (s.me.sreg b).toInt)))))) ∧
    (CompletesWhen (.sadd d a b) (fun s => (s.unitOf (.sadd d a b)).sat = 2)
      (fun s => s.withS d (BitVec.ofNat 64 (min (2 ^ 64 - 1) ((s.me.sreg a).toNat + (s.me.sreg b).toNat))))) ∧
    (CompletesWhen (.ssub d a b) (fun s => (s.unitOf (.ssub d a b)).sat = 0)
      (fun s => s.withS d (s.me.sreg a - s.me.sreg b))) ∧
    (CompletesWhen (.ssub d a b) (fun s => (s.unitOf (.ssub d a b)).sat = 1)
      (fun s => s.withS d (BitVec.ofInt 64
        (max (-(2 ^ 63)) (min (2 ^ 63 - 1) ((s.me.sreg a).toInt - (s.me.sreg b).toInt)))))) ∧
    (CompletesWhen (.ssub d a b) (fun s => (s.unitOf (.ssub d a b)).sat = 2)
      (fun s => s.withS d (BitVec.ofNat 64 ((s.me.sreg a).toNat - (s.me.sreg b).toNat)))) ∧
    (CompletesWhen (.saddImm d a imm) (fun s => (s.unitOf (.saddImm d a imm)).sat = 0)
      (fun s => s.withS d (s.me.sreg a + (s.unitOf (.saddImm d a imm)).simm imm))) ∧
    (CompletesWhen (.saddImm d a imm) (fun s => (s.unitOf (.saddImm d a imm)).sat = 1)
      (fun s => s.withS d (BitVec.ofInt 64 (max (-(2 ^ 63)) (min (2 ^ 63 - 1)
        ((s.me.sreg a).toInt + ((s.unitOf (.saddImm d a imm)).simm imm).toInt)))))) ∧
    (CompletesWhen (.saddImm d a imm) (fun s => (s.unitOf (.saddImm d a imm)).sat = 2)
      (fun s => s.withS d (BitVec.ofNat 64 (min (2 ^ 64 - 1)
        ((s.me.sreg a).toNat + ((s.unitOf (.saddImm d a imm)).simm imm).toNat))))) ∧
    (Completes (.smul d a b) (fun s => s.withS d (s.me.sreg a * s.me.sreg b))) ∧
    (Completes (.smulh d a b false) (fun s => s.withS d
      (((s.me.sreg a).signExtend 128 * (s.me.sreg b).signExtend 128).extractLsb' 64 64))) ∧
    (Completes (.smulh d a b true) (fun s => s.withS d
      (((s.me.sreg a).setWidth 128 * (s.me.sreg b).setWidth 128).extractLsb' 64 64)))) ∧
  (∀ (d a b : SReg) (p : PReg) (imm : BitVec 12) (n : Fin 64),
    (Completes (.sand d a b) (fun s => s.withS d (s.me.sreg a &&& s.me.sreg b))) ∧
    (Completes (.sor d a b) (fun s => s.withS d (s.me.sreg a ||| s.me.sreg b))) ∧
    (Completes (.sxor d a b) (fun s => s.withS d (s.me.sreg a ^^^ s.me.sreg b))) ∧
    (Completes (.sshl d a b) (fun s => s.withS d (s.me.sreg a <<< (s.me.sreg b &&& 63)))) ∧
    (Completes (.sshr d a b) (fun s => s.withS d (s.me.sreg a >>> (s.me.sreg b &&& 63)))) ∧
    (Completes (.ssra d a b) (fun s => s.withS d ((s.me.sreg a).sshiftRight' (s.me.sreg b &&& 63)))) ∧
    (Completes (.smin d a b false) (fun s => s.withS d
      (BitVec.ofInt 64 (min (s.me.sreg a).toInt (s.me.sreg b).toInt)))) ∧
    (Completes (.smin d a b true) (fun s => s.withS d
      (BitVec.ofNat 64 (min (s.me.sreg a).toNat (s.me.sreg b).toNat)))) ∧
    (Completes (.smax d a b false) (fun s => s.withS d
      (BitVec.ofInt 64 (max (s.me.sreg a).toInt (s.me.sreg b).toInt)))) ∧
    (Completes (.smax d a b true) (fun s => s.withS d
      (BitVec.ofNat 64 (max (s.me.sreg a).toNat (s.me.sreg b).toNat)))) ∧
    (∀ l, CompletesWhen (.ssel d a b p) (fun s => l < s.me.width ∧ s.me.em.getLsbD l = true ∧ ∀ k < l, s.me.em.getLsbD k = false)
      (fun s => s.withS d (if (s.me.preg p).getLsbD l then s.me.sreg a else s.me.sreg b))) ∧
    (CompletesWhen (.ssel d a b p) (fun s => ∀ k < s.me.width, s.me.em.getLsbD k = false)
      (fun s => s.withS d (if (s.me.preg p).getLsbD 0 then s.me.sreg a else s.me.sreg b))) ∧
    (Completes (.sandImm d a imm) (fun s => s.withS d (s.me.sreg a &&& (s.unitOf (.sandImm d a imm)).simm imm))) ∧
    (Completes (.sorImm d a imm) (fun s => s.withS d (s.me.sreg a ||| (s.unitOf (.sorImm d a imm)).simm imm))) ∧
    (Completes (.sxorImm d a imm) (fun s => s.withS d (s.me.sreg a ^^^ (s.unitOf (.sxorImm d a imm)).simm imm))) ∧
    (Completes (.sshlImm d a n) (fun s => s.withS d (s.me.sreg a <<< n.val))) ∧
    (Completes (.sshrImm d a n) (fun s => s.withS d (s.me.sreg a >>> n.val))) ∧
    (Completes (.ssraImm d a n) (fun s => s.withS d ((s.me.sreg a).sshiftRight n.val))) ∧
    (Completes (.smov d imm) (fun s => s.withS d ((s.unitOf (.smov d imm)).simm imm))))

/-- R64: division truncates toward zero, and the remainder is a − q × b; a zero divisor gives all ones, the dividend as
remainder, and DZ, once, and in a lane of its own only; the most negative value divided by −1 gives itself, remainder 0,
and no flag. -/
def Obligations.Division : Prop :=
  (∀ (d a b : SReg),
    (∀ u, CompletesWhen (.sdiv d a b u) (fun s => s.me.sreg b = 0)
      (fun s => (s.withS d 0xFFFFFFFFFFFFFFFF).withFlags { dz := true })) ∧
    (∀ u, CompletesWhen (.srem d a b u) (fun s => s.me.sreg b = 0)
      (fun s => (s.withS d (s.me.sreg a)).withFlags { dz := true })) ∧
    (CompletesWhen (.sdiv d a b false) (fun s => s.me.sreg b ≠ 0) (fun s =>
      s.withS d (BitVec.ofInt 64 (Int.tdiv (s.me.sreg a).toInt (s.me.sreg b).toInt)))) ∧
    (CompletesWhen (.srem d a b false) (fun s => s.me.sreg b ≠ 0) (fun s =>
      s.withS d (BitVec.ofInt 64 (Int.tmod (s.me.sreg a).toInt (s.me.sreg b).toInt)))) ∧
    (CompletesWhen (.sdiv d a b true) (fun s => s.me.sreg b ≠ 0) (fun s =>
      s.withS d (BitVec.ofNat 64 ((s.me.sreg a).toNat / (s.me.sreg b).toNat)))) ∧
    (CompletesWhen (.srem d a b true) (fun s => s.me.sreg b ≠ 0) (fun s =>
      s.withS d (BitVec.ofNat 64 ((s.me.sreg a).toNat % (s.me.sreg b).toNat)))) ∧
    (CompletesWhen (.sdiv d a b false) (fun s => s.me.sreg a = 0x8000000000000000 ∧ s.me.sreg b = 0xFFFFFFFFFFFFFFFF)
      (fun s => s.withS d (s.me.sreg a))) ∧
    (CompletesWhen (.srem d a b false) (fun s => s.me.sreg a = 0x8000000000000000 ∧ s.me.sreg b = 0xFFFFFFFFFFFFFFFF)
      (fun s => s.withS d 0))) ∧
  (∀ (d a : VReg) (b : VSrc),
    let dz := fun (s : State) (i : Instr) (t : State) =>
      if ∃ k ∈ s.lanesOf i, srcVal b s.me k = 0 then t.withFlags { dz := true } else t
    (Completes (.vdivI32 d a b) (fun s => dz s (.vdivI32 d a b) (s.withV (.vdivI32 d a b) d (fun i =>
      if srcVal b s.me i = 0 then 0xFFFFFFFF
      else BitVec.ofInt 32 (Int.tdiv (s.me.vreg a i).toInt (srcVal b s.me i).toInt))))) ∧
    (Completes (.vdivN32 d a b) (fun s => dz s (.vdivN32 d a b) (s.withV (.vdivN32 d a b) d (fun i =>
      if srcVal b s.me i = 0 then 0xFFFFFFFF
      else BitVec.ofNat 32 ((s.me.vreg a i).toNat / (srcVal b s.me i).toNat))))) ∧
    (Completes (.vremI32 d a b) (fun s => dz s (.vremI32 d a b) (s.withV (.vremI32 d a b) d (fun i =>
      if srcVal b s.me i = 0 then s.me.vreg a i
      else BitVec.ofInt 32 (Int.tmod (s.me.vreg a i).toInt (srcVal b s.me i).toInt))))) ∧
    (Completes (.vremN32 d a b) (fun s => dz s (.vremN32 d a b) (s.withV (.vremN32 d a b) d (fun i =>
      if srcVal b s.me i = 0 then s.me.vreg a i
      else BitVec.ofNat 32 ((s.me.vreg a i).toNat % (srcVal b s.me i).toNat)))))) ∧
  (∀ a b : Int, Int.tmod a b = a - Int.tdiv a b * b) ∧
  (BitVec.ofInt 32 (Int.tdiv (-(2 ^ 31)) (-1)) = 0x80000000 ∧ Int.tmod (-(2 ^ 31)) (-1) = 0) ∧
  (∀ (d a : VReg) (b : VSrc), ∀ x ∈ [(Instr.vdivI32 d a b, 0), (.vdivN32 d a b, 1), (.vremI32 d a b, 2), (.vremN32 d a b, 3)],
    ∃ w, encode x.1 = some w ∧ w.extractLsb' 26 6 = 0x13 ∧ w.extractLsb' 22 4 = BitVec.ofNat 4 x.2)

/-- R62, R63, R66, R68: the lane arithmetic, logic, shifts, moves and selections of majors 0x10 to 0x12 and 0x15, modulo 2^32
without SAT and clamped under SAT. -/
def Obligations.VectorArithmetic : Prop :=
  (∀ (d a : VReg) (b : VSrc) (imm : BitVec 9),
    (CompletesWhen (.vadd d a b) (fun s => (s.unitOf (.vadd d a b)).sat = 0)
      (fun s => s.withV (.vadd d a b) d (fun i => s.me.vreg a i + srcVal b s.me i))) ∧
    (CompletesWhen (.vadd d a b) (fun s => (s.unitOf (.vadd d a b)).sat = 1)
      (fun s => s.withV (.vadd d a b) d (fun i => BitVec.ofInt 32
        (max (-(2 ^ 31)) (min (2 ^ 31 - 1) ((s.me.vreg a i).toInt + (srcVal b s.me i).toInt)))))) ∧
    (CompletesWhen (.vadd d a b) (fun s => (s.unitOf (.vadd d a b)).sat = 2)
      (fun s => s.withV (.vadd d a b) d (fun i => BitVec.ofNat 32
        (min (2 ^ 32 - 1) ((s.me.vreg a i).toNat + (srcVal b s.me i).toNat))))) ∧
    (CompletesWhen (.vsub d a b) (fun s => (s.unitOf (.vsub d a b)).sat = 0)
      (fun s => s.withV (.vsub d a b) d (fun i => s.me.vreg a i - srcVal b s.me i))) ∧
    (CompletesWhen (.vsub d a b) (fun s => (s.unitOf (.vsub d a b)).sat = 1)
      (fun s => s.withV (.vsub d a b) d (fun i => BitVec.ofInt 32
        (max (-(2 ^ 31)) (min (2 ^ 31 - 1) ((s.me.vreg a i).toInt - (srcVal b s.me i).toInt)))))) ∧
    (CompletesWhen (.vsub d a b) (fun s => (s.unitOf (.vsub d a b)).sat = 2)
      (fun s => s.withV (.vsub d a b) d (fun i => BitVec.ofNat 32 ((s.me.vreg a i).toNat - (srcVal b s.me i).toNat)))) ∧
    (CompletesWhen (.vmul d a b) (fun s => (s.unitOf (.vmul d a b)).sat = 0)
      (fun s => s.withV (.vmul d a b) d (fun i => s.me.vreg a i * srcVal b s.me i))) ∧
    (CompletesWhen (.vmul d a b) (fun s => (s.unitOf (.vmul d a b)).sat = 1)
      (fun s => s.withV (.vmul d a b) d (fun i => BitVec.ofInt 32
        (max (-(2 ^ 31)) (min (2 ^ 31 - 1) ((s.me.vreg a i).toInt * (srcVal b s.me i).toInt)))))) ∧
    (CompletesWhen (.vmul d a b) (fun s => (s.unitOf (.vmul d a b)).sat = 2)
      (fun s => s.withV (.vmul d a b) d (fun i => BitVec.ofNat 32
        (min (2 ^ 32 - 1) ((s.me.vreg a i).toNat * (srcVal b s.me i).toNat))))) ∧
    (Completes (.vmulhI32 d a b) (fun s => s.withV (.vmulhI32 d a b) d (fun i =>
      ((s.me.vreg a i).signExtend 64 * (srcVal b s.me i).signExtend 64).extractLsb' 32 32))) ∧
    (Completes (.vmulhN32 d a b) (fun s => s.withV (.vmulhN32 d a b) d (fun i =>
      ((s.me.vreg a i).setWidth 64 * (srcVal b s.me i).setWidth 64).extractLsb' 32 32))) ∧
    (CompletesWhen (.vmad d a b) (fun s => (s.unitOf (.vmad d a b)).sat = 0)
      (fun s => s.withV (.vmad d a b) d (fun i =>
        s.me.vreg a i * srcVal b s.me i + s.me.vreg ((s.unitOf (.vmad d a b)).fourth.getD d) i))) ∧
    (CompletesWhen (.vmad d a b) (fun s => (s.unitOf (.vmad d a b)).sat = 1)
      (fun s => s.withV (.vmad d a b) d (fun i => BitVec.ofInt 32 (max (-(2 ^ 31)) (min (2 ^ 31 - 1)
        ((s.me.vreg a i).toInt * (srcVal b s.me i).toInt
          + (s.me.vreg ((s.unitOf (.vmad d a b)).fourth.getD d) i).toInt)))))) ∧
    (CompletesWhen (.vmad d a b) (fun s => (s.unitOf (.vmad d a b)).sat = 2)
      (fun s => s.withV (.vmad d a b) d (fun i => BitVec.ofNat 32 (min (2 ^ 32 - 1)
        ((s.me.vreg a i).toNat * (srcVal b s.me i).toNat
          + (s.me.vreg ((s.unitOf (.vmad d a b)).fourth.getD d) i).toNat))))) ∧
    (CompletesWhen (.vaddImm d a imm) (fun s => (s.unitOf (.vaddImm d a imm)).sat = 0)
      (fun s => s.withV (.vaddImm d a imm) d (fun i => s.me.vreg a i + (s.unitOf (.vaddImm d a imm)).vimm imm))) ∧
    (CompletesWhen (.vaddImm d a imm) (fun s => (s.unitOf (.vaddImm d a imm)).sat = 1)
      (fun s => s.withV (.vaddImm d a imm) d (fun i => BitVec.ofInt 32 (max (-(2 ^ 31)) (min (2 ^ 31 - 1)
        ((s.me.vreg a i).toInt + ((s.unitOf (.vaddImm d a imm)).vimm imm).toInt)))))) ∧
    (CompletesWhen (.vaddImm d a imm) (fun s => (s.unitOf (.vaddImm d a imm)).sat = 2)
      (fun s => s.withV (.vaddImm d a imm) d (fun i => BitVec.ofNat 32 (min (2 ^ 32 - 1)
        ((s.me.vreg a i).toNat + ((s.unitOf (.vaddImm d a imm)).vimm imm).toNat))))) ∧
    (CompletesWhen (.vabs d a) (fun s => (s.unitOf (.vabs d a)).sat = 0)
      (fun s => s.withV (.vabs d a) d (fun i => if (s.me.vreg a i).msb then -(s.me.vreg a i) else s.me.vreg a i))) ∧
    (CompletesWhen (.vabs d a) (fun s => (s.unitOf (.vabs d a)).sat = 1)
      (fun s => s.withV (.vabs d a) d (fun i => if s.me.vreg a i = 0x80000000 then 0x7FFFFFFF
        else if (s.me.vreg a i).msb then -(s.me.vreg a i) else s.me.vreg a i)))) ∧
  (∀ (d a : VReg) (b : VSrc) (r : SReg) (p : PReg) (imm : BitVec 9) (n : Fin 32),
    (Completes (.vand d a b) (fun s => s.withV (.vand d a b) d (fun i => s.me.vreg a i &&& srcVal b s.me i))) ∧
    (Completes (.vor d a b) (fun s => s.withV (.vor d a b) d (fun i => s.me.vreg a i ||| srcVal b s.me i))) ∧
    (Completes (.vxor d a b) (fun s => s.withV (.vxor d a b) d (fun i => s.me.vreg a i ^^^ srcVal b s.me i))) ∧
    (Completes (.vshl d a b) (fun s => s.withV (.vshl d a b) d (fun i => s.me.vreg a i <<< (srcVal b s.me i &&& 31)))) ∧
    (Completes (.vshr d a b) (fun s => s.withV (.vshr d a b) d (fun i => s.me.vreg a i >>> (srcVal b s.me i &&& 31)))) ∧
    (Completes (.vsra d a b) (fun s => s.withV (.vsra d a b) d (fun i =>
      (s.me.vreg a i).sshiftRight' (srcVal b s.me i &&& 31)))) ∧
    (Completes (.vminI32 d a b) (fun s => s.withV (.vminI32 d a b) d (fun i =>
      BitVec.ofInt 32 (min (s.me.vreg a i).toInt (srcVal b s.me i).toInt)))) ∧
    (Completes (.vminN32 d a b) (fun s => s.withV (.vminN32 d a b) d (fun i =>
      BitVec.ofNat 32 (min (s.me.vreg a i).toNat (srcVal b s.me i).toNat)))) ∧
    (Completes (.vmaxI32 d a b) (fun s => s.withV (.vmaxI32 d a b) d (fun i =>
      BitVec.ofInt 32 (max (s.me.vreg a i).toInt (srcVal b s.me i).toInt)))) ∧
    (Completes (.vmaxN32 d a b) (fun s => s.withV (.vmaxN32 d a b) d (fun i =>
      BitVec.ofNat 32 (max (s.me.vreg a i).toNat (srcVal b s.me i).toNat)))) ∧
    (Completes (.vandImm d a imm) (fun s => s.withV (.vandImm d a imm) d (fun i =>
      s.me.vreg a i &&& (s.unitOf (.vandImm d a imm)).vimm imm))) ∧
    (Completes (.vorImm d a imm) (fun s => s.withV (.vorImm d a imm) d (fun i =>
      s.me.vreg a i ||| (s.unitOf (.vorImm d a imm)).vimm imm))) ∧
    (Completes (.vxorImm d a imm) (fun s => s.withV (.vxorImm d a imm) d (fun i =>
      s.me.vreg a i ^^^ (s.unitOf (.vxorImm d a imm)).vimm imm))) ∧
    (Completes (.vshlImm d a n) (fun s => s.withV (.vshlImm d a n) d (fun i => s.me.vreg a i <<< n.val))) ∧
    (Completes (.vshrImm d a n) (fun s => s.withV (.vshrImm d a n) d (fun i => s.me.vreg a i >>> n.val))) ∧
    (Completes (.vsraImm d a n) (fun s => s.withV (.vsraImm d a n) d (fun i => (s.me.vreg a i).sshiftRight n.val))) ∧
    (Completes (.vmovImm d imm) (fun s => s.withV (.vmovImm d imm) d (fun _ => (s.unitOf (.vmovImm d imm)).vimm imm))) ∧
    (Completes (.vmov d a) (fun s => s.withV (.vmov d a) d (fun i => s.me.vreg a i))) ∧
    (Completes (.vmovS d r) (fun s => s.withV (.vmovS d r) d (fun _ => (s.me.sreg r).setWidth 32))) ∧
    (Completes (.vnot d a) (fun s => s.withV (.vnot d a) d (fun i => ~~~(s.me.vreg a i)))) ∧
    (Completes (.vlane d) (fun s => s.withV (.vlane d) d (fun i => BitVec.ofNat 32 i))) ∧
    (Completes (.vsel p d a b) (fun s => s.withV (.vsel p d a b) d (fun i =>
      if (s.me.preg p).getLsbD i then s.me.vreg a i else srcVal b s.me i))))

/-- R66, R67: leading zeros, set bits, and bit fields. VCLZ gives the n with n leading zeros; VPOPC counts; bit j of a
field that VBFX extracts is bit pos + j of a, and above its length it is 0 or the field's top bit; VBFI replaces exactly the
bits of the field. -/
def Obligations.VectorBits : Prop :=
  (∀ d a, Completes (.vclz d a) (fun s => s.withV (.vclz d a) d (fun i => BitVec.ofNat 32 (leadingZeros (s.me.vreg a i))))) ∧
  (∀ d a, Completes (.vpopc d a) (fun s => s.withV (.vpopc d a) d (fun i => BitVec.ofNat 32 (setBits (s.me.vreg a i))))) ∧
  (∀ d a b, Completes (.vbfxI32 d a b) (fun s => s.withV (.vbfxI32 d a b) d (fun i =>
    extractField false (s.me.vreg a i) (srcVal b s.me i)))) ∧
  (∀ d a b, Completes (.vbfxN32 d a b) (fun s => s.withV (.vbfxN32 d a b) d (fun i =>
    extractField true (s.me.vreg a i) (srcVal b s.me i)))) ∧
  (∀ d a b, Completes (.vbfi d a b) (fun s => s.withV (.vbfi d a b) d (fun i =>
    insertField (s.me.vreg d i) (s.me.vreg a i) (srcVal b s.me i)))) ∧
  (leadingZeros 0 = 32) ∧
  (∀ a : Word32, a ≠ 0 → 2 ^ (31 - leadingZeros a) ≤ a.toNat ∧ a.toNat < 2 ^ (32 - leadingZeros a)) ∧
  (setBits 0 = 0 ∧ ∀ (a : Word32) (k : Nat), k < 32 → a.getLsbD k = false → setBits (a ||| (1#32 <<< k)) = setBits a + 1) ∧
  (∀ (a b : Word32) (j : Nat), j < 32 →
    let pos := (b &&& 31).toNat
    let len := min (pos + ((b >>> 8) &&& 63).toNat) 32 - pos
    ((extractField true a b).getLsbD j = (decide (j < len) && a.getLsbD (pos + j))) ∧
    ((extractField false a b).getLsbD j =
      (if j < len then a.getLsbD (pos + j) else decide (0 < len) && a.getLsbD (pos + len - 1)))) ∧
  (∀ (old a b : Word32) (j : Nat), j < 32 →
    let pos := (b &&& 31).toNat
    let len := min (pos + ((b >>> 8) &&& 63).toNat) 32 - pos
    (insertField old a b).getLsbD j =
      (if pos ≤ j ∧ j < pos + len then a.getLsbD (j - pos) else old.getLsbD j))

/-- R65, R69: SCMP writes its result to every width lane of the predicate, p15 excepted; the conditions are signed for 0 to
5, unsigned for 6 to 9, and test is true where a AND b is not zero. MOVS reads a lane, and a lane at or above the width is
an illegal operand.
R68: VCMP under each CMB, PLOG and PSET write the active lanes of a predicate and keep the others; a write to p15 is
discarded. -/
def Obligations.PredicateWrites : Prop :=
  ((∀ (c : SCond) (p : PReg) (a b : SReg), Completes (.scmp c p a b) (fun s =>
    s.onMe (fun g => g.setP p (if condHolds c (g.sreg a) (g.sreg b) then g.lanesMask else 0)))) ∧
  (∀ (c : SCond) (p : PReg) (a : SReg) (imm : BitVec 6), Completes (.scmpImm c p a imm) (fun s =>
    s.onMe (fun g => g.setP p (if condHolds c (g.sreg a) (imm.signExtend 64) then g.lanesMask else 0)))) ∧
  (∀ a b : Word64,
    (condHolds .eq a b ↔ a = b) ∧ (condHolds .ne a b ↔ a ≠ b) ∧ (condHolds .lt a b ↔ a.toInt < b.toInt) ∧
    (condHolds .le a b ↔ a.toInt ≤ b.toInt) ∧ (condHolds .gt a b ↔ b.toInt < a.toInt) ∧
    (condHolds .ge a b ↔ b.toInt ≤ a.toInt) ∧ (condHolds .ltn a b ↔ a.toNat < b.toNat) ∧
    (condHolds .len a b ↔ a.toNat ≤ b.toNat) ∧ (condHolds .gtn a b ↔ b.toNat < a.toNat) ∧
    (condHolds .gen a b ↔ b.toNat ≤ a.toNat) ∧ (condHolds .test a b ↔ a &&& b ≠ 0)) ∧
  (∀ (a : VReg) (d : SReg) (lane : Fin 64),
    CompletesWhen (.movs a d lane) (fun s => lane.val < s.me.width)
      (fun s => s.withS d (BitVec.ofNat 64 (s.me.vreg a lane).toNat)) ∧
    TrapsWhen (.movs a d lane) (fun s => s.me.width ≤ lane.val)
      (fun s => { code := 2, taddr := 0, tinfo := (s.unitOf (.movs a d lane)).word }))) ∧
  ((∀ c p a b, Completes (.vcmp c p .set a b) (fun s => s.withP (.vcmp c p .set a b) p (fun i =>
    condHolds c (s.me.vreg a i) (srcVal b s.me i)))) ∧
  (∀ c p a b, Completes (.vcmp c p .and a b) (fun s => s.withP (.vcmp c p .and a b) p (fun i =>
    (s.me.preg p).getLsbD i && condHolds c (s.me.vreg a i) (srcVal b s.me i)))) ∧
  (∀ c p a b, Completes (.vcmp c p .or a b) (fun s => s.withP (.vcmp c p .or a b) p (fun i =>
    (s.me.preg p).getLsbD i || condHolds c (s.me.vreg a i) (srcVal b s.me i)))) ∧
  (∀ t d a b, Completes (.plog t d a b) (fun s => s.withP (.plog t d a b) d (fun i =>
    t.getLsbD (((s.me.preg a).getLsbD i).toNat * 2 + ((s.me.preg b).getLsbD i).toNat)))) ∧
  (∀ d a, Completes (.pset d a) (fun s => s.withP (.pset d a) d (fun i => (s.me.sreg a).getLsbD i))) ∧
  (∀ (g : Group) (p : PReg) (m : Word64) (f : Nat → Bool), g.width ≤ 64 → p.val ≠ 15 →
    (∀ i < g.width, ((g.writeP p m f).preg p).getLsbD i = (if m.getLsbD i then f i else (g.preg p).getLsbD i)) ∧
    (∀ q : PReg, q ≠ p → (g.writeP p m f).preg q = g.preg q)) ∧
  (∀ (g : Group) (m : Word64) (f : Nat → Bool), g.writeP 15 m f = g) ∧
  (∀ (g : Group) (x : Word64), g.setP 15 x = g ∧ g.preg 15 = g.lanesMask))

/-- R70: SHFL reads every source before it writes; a source lane outside the width gives the lane its own value.
R72: the integer reductions, from the identity of each over the active lanes.
R73, R230: the f32 reductions over their fixed tree, and the scans over its blocks: lane i of LSCAN adds, in order, the nodes of
the blocks that the bits of i + 1 name, from the highest, and raises their flags. LRED.add.f32 adds the pairs, the pairs of pairs,
and so on; LSCAN in lane 6 is (node(2,0) + node(1,2)) + lane 6. That lane 0 of
LSCAN.add.f32 has its own value as it is, a NaN too, is the model's choice (DESIGN CHOICE, unsafe: assumption log, 33). -/
def Obligations.CrossLane : Prop :=
  (∀ (d a : VReg) (b : VSrc),
    let pick := fun (g : Group) (i : Nat) (j : Int) => if 0 ≤ j ∧ j < g.width then g.vreg a j.toNat else g.vreg a i
    (Completes (.shflIdx d a b) (fun s => s.withV (.shflIdx d a b) d (fun i => pick s.me i (srcVal b s.me i).toInt))) ∧
    (Completes (.shflUp d a b) (fun s => s.withV (.shflUp d a b) d (fun i => pick s.me i (i - (srcVal b s.me i).toInt)))) ∧
    (Completes (.shflDown d a b) (fun s => s.withV (.shflDown d a b) d (fun i => pick s.me i (i + (srcVal b s.me i).toInt)))) ∧
    (Completes (.shflXor d a b) (fun s => s.withV (.shflXor d a b) d (fun i =>
      pick s.me i (BitVec.ofNat 32 i ^^^ srcVal b s.me i).toInt)))) ∧
  ((∀ d a, Completes (.lredAddI32 d a) (fun s => s.withS d
    (((s.lanesOf (.lredAddI32 d a)).map (s.me.vreg a)).foldl (· + ·) 0 |>.signExtend 64))) ∧
  (∀ d a, Completes (.lredMinI32 d a) (fun s => s.withS d (BitVec.ofInt 64
    (((s.lanesOf (.lredMinI32 d a)).map (fun i => (s.me.vreg a i).toInt)).foldl min (2 ^ 31 - 1))))) ∧
  (∀ d a, Completes (.lredMaxI32 d a) (fun s => s.withS d (BitVec.ofInt 64
    (((s.lanesOf (.lredMaxI32 d a)).map (fun i => (s.me.vreg a i).toInt)).foldl max (-(2 ^ 31)))))) ∧
  (∀ d a, Completes (.lredAnd d a) (fun s => s.withS d
    (((s.lanesOf (.lredAnd d a)).map (s.me.vreg a)).foldl (· &&& ·) 0xFFFFFFFF |>.setWidth 64))) ∧
  (∀ d a, Completes (.lredOr d a) (fun s => s.withS d
    (((s.lanesOf (.lredOr d a)).map (s.me.vreg a)).foldl (· ||| ·) 0 |>.setWidth 64)))) ∧
  ((∀ d a, Completes (.lredAddF32 d a) (fun s =>
    let r := treeNode (f32.add .rne) (fun i => if i ∈ s.lanesOf (.lredAddF32 d a) then (s.me.vreg a i).toNat else 0x80000000)
      (Nat.log2 s.me.width) 0
    (s.withS d (BitVec.ofNat 64 r.1)).withFlags r.2)) ∧
  (∀ d a, CompletesWhen (.lscanAddI32 d a) (fun s => s.me.width ∈ [16, 32, 64]) (fun s => s.withV (.lscanAddI32 d a) d (fun i =>
    (((List.range (i + 1)).filter (fun j => j ∈ s.lanesOf (.lscanAddI32 d a))).map (s.me.vreg a)).foldl (· + ·) 0))) ∧
  (∀ d a, Completes (.lscanAddF32 d a) (fun s =>
    let leaf := fun i => if i ∈ s.lanesOf (.lscanAddF32 d a) then (s.me.vreg a i).toNat else 0x80000000
    let r := fun i => (prefixSum (f32.add .rne) leaf (i + 1) (Nat.log2 s.me.width + 1) 0 none).getD (0, {})
    (s.withV (.lscanAddF32 d a) d (fun i => BitVec.ofNat 32 (r i).1)).withFlags
      (orFlags (fun i => (r i).2) (s.lanesOf (.lscanAddF32 d a))))) ∧
  (∀ (op : Nat → Nat → Nat × Flags) (leaf : Nat → Nat) (n k start : Nat) (acc : Option (Nat × Flags)),
    let b := treeNode op leaf k (start / 2 ^ k)
    prefixSum op leaf n 0 start acc = acc ∧
    (n.testBit k = false → prefixSum op leaf n (k + 1) start acc = prefixSum op leaf n k start acc) ∧
    (n.testBit k = true → prefixSum op leaf n (k + 1) start none = prefixSum op leaf n k (start + 2 ^ k) (some b)) ∧
    (n.testBit k = true → ∀ x, prefixSum op leaf n (k + 1) start (some x) = prefixSum op leaf n k (start + 2 ^ k)
      (some ((op x.1 b.1).1, (x.2.or b.2).or (op x.1 b.1).2)))) ∧
  (∀ (op : Nat → Nat → Nat × Flags) (leaf : Nat → Nat),
    let node := treeNode op leaf
    let scan := fun i => prefixSum op leaf (i + 1) 5 0 none
    let two := op (node 2 0).1 (node 1 2).1
    let three := op (node 3 0).1 (node 2 2).1
    scan 0 = some (leaf 0, {}) ∧ scan 1 = some (node 1 0) ∧ scan 7 = some (node 3 0) ∧ scan 15 = some (node 4 0) ∧
    scan 6 = some ((op two.1 (leaf 6)).1, (((node 2 0).2.or (node 1 2).2).or two.2).or (op two.1 (leaf 6)).2) ∧
    (scan 13).map Prod.fst = some (op three.1 (node 1 6).1).1) ∧
  (∀ (op : Nat → Nat → Nat × Flags) (leaf : Nat → Nat) (k j : Nat),
    (treeNode op leaf 0 j).1 = leaf j ∧
    (treeNode op leaf (k + 1) j).1 = (op (treeNode op leaf k (2 * j)).1 (treeNode op leaf k (2 * j + 1)).1).1))

/-- R71: VOTE.any and VOTE.all read a predicate over the active lanes and write the result to every width lane of another:
all is true and any is false when no lane is active. VOTE.ballot writes a scalar with the bits of the active lanes in
which the predicate is true, every other bit zero. -/
def Obligations.Votes : Prop :=
  (∀ d a, Completes (.voteAny d a) (fun s => s.onMe (fun g => g.setP d
    (if ∃ i ∈ s.lanesOf (.voteAny d a), (s.me.preg a).getLsbD i = true then g.lanesMask else 0)))) ∧
  (∀ d a, Completes (.voteAll d a) (fun s => s.onMe (fun g => g.setP d
    (if ∀ i ∈ s.lanesOf (.voteAll d a), (s.me.preg a).getLsbD i = true then g.lanesMask else 0)))) ∧
  (∀ d a, Completes (.voteBallot d a) (fun s => s.withS d (s.me.preg a &&& s.me.active (s.unitOf (.voteBallot d a)).pfx))) ∧
  (∀ (d : SReg) (a : PReg) (s : State) (i : Nat), (((s : State).me.preg a &&& s.me.active (s.unitOf (.voteBallot d a)).pfx).getLsbD i = true ↔
    i ∈ s.lanesOf (.voteBallot d a) ∧ (s.me.preg a).getLsbD i = true))

/-- R29: EMGET writes EM, zero-extended, into a scalar; EMSET sets EM from a scalar within the width, and leaves the divergence
stack, its registers and its memory alone; so a MERGE of an entry that is not of BRX puts back the mask that the entry
holds, whatever EM is then. -/
def Obligations.EmAccess : Prop :=
  (∀ d, Completes (.emget d) (fun s => s.withS d s.me.em)) ∧
  (∀ a, Completes (.emset a) (fun s => s.onMe (fun g => { g with em := g.sreg a &&& g.lanesMask }))) ∧
  (∀ a s, s.canIssue (.emset a) → ∃ t, exec (.emset a) s = .next t ∧ t.me.dsb = s.me.dsb ∧ t.me.dsd = s.me.dsd ∧
    t.lm = s.lm ∧ t.mem = s.mem ∧ ∀ k, t.me.em.getLsbD k = (decide (k < s.me.width) && (s.me.sreg a).getLsbD k)) ∧
  (∀ (s t : State) (at_ : Nat) (m : Word64), s.canIssue .merge → s.me.depth ≠ 0 →
    s.stackAccess (s.unitOf .merge) (s.me.depth - 1) true = .ok (t, at_) → ctlMalformed (t.stackWord at_ 3) = false →
    ctlKind (t.stackWord at_ 3) ≠ 1 → t.me.em = m →
    ∃ t', exec .merge s = .next t' ∧ t'.me.em = t.stackWord at_ 2 &&& s.me.lanesMask)

/-! ## Numbers -/

/-- R327, R328, R222, R225, R292: the FALU forms in f32 and on packed pairs, each element in its own format, with the operands
under the negate and abs fields and the mode of RND, every active lane's flags raised. Abs clears the sign bit of each element of
its operand and negate then flips it; c has a negate alone. -/
def Obligations.FloatArithmetic : Prop :=
  ∀ (d a : VReg) (b : VSrc),
    let one := fun (i : Instr) (f : RMode → Nat → Nat → Nat → Nat × Flags) =>
      Completes i (fun s =>
        let u := s.unitOf i
        let r := fun k => f u.rmode (u.opA 0x80000000 (s.me.vreg a k)).toNat (u.opB 0x80000000 (srcVal b s.me k)).toNat
          (u.opC 0x80000000 (s.me.vreg (u.fourth.getD d) k)).toNat
        (s.withV i d (fun k => BitVec.ofNat 32 (r k).1)).withFlags (orFlags (fun k => (r k).2) (s.lanesOf i)))
    let pair := fun (i : Instr) (f : RMode → Nat → Nat → Nat → Nat × Flags) =>
      Completes i (fun s =>
        let u := s.unitOf i
        let x := fun k => (u.opA 0x80008000 (s.me.vreg a k)).toNat
        let y := fun k => (u.opB 0x80008000 (srcVal b s.me k)).toNat
        let z := fun k => (u.opC 0x80008000 (s.me.vreg (u.fourth.getD d) k)).toNat
        let lo := fun k => f u.rmode (x k % 65536) (y k % 65536) (z k % 65536)
        let hi := fun k => f u.rmode (x k / 65536) (y k / 65536) (z k / 65536)
        (s.withV i d (fun k => BitVec.ofNat 32 ((hi k).1 * 65536 + (lo k).1))).withFlags
          (orFlags (fun k => (lo k).2.or (hi k).2) (s.lanesOf i)))
    one (.faddF32 d a b) (fun m x y _ => f32.add m x y) ∧ one (.fsubF32 d a b) (fun m x y _ => f32.sub m x y) ∧
    one (.fmulF32 d a b) (fun m x y _ => f32.mul m x y) ∧ one (.fmaF32 d a b) f32.fma ∧
    pair (.faddBf16x2 d a b) (fun m x y _ => bf16.add m x y) ∧ pair (.fmulBf16x2 d a b) (fun m x y _ => bf16.mul m x y) ∧
    pair (.fmaBf16x2 d a b) bf16.fma ∧ pair (.faddF16x2 d a b) (fun m x y _ => f16.add m x y) ∧
    pair (.fmulF16x2 d a b) (fun m x y _ => f16.mul m x y) ∧ pair (.fmaF16x2 d a b) f16.fma ∧
    (∀ (u : Flight) (mask x : Word32) (j : Nat), j < 32 →
      let signed := fun (abs neg : Bool) => if mask.getLsbD j then (x.getLsbD j && !abs) ^^ neg else x.getLsbD j
      (u.opA mask x).getLsbD j = signed (u.abs.testBit 1) (u.neg.testBit 2) ∧
      (u.opB mask x).getLsbD j = signed (u.abs.testBit 0) (u.neg.testBit 1) ∧
      (u.opC mask x).getLsbD j = signed false (u.neg.testBit 0)) ∧
    (∀ (u : Flight) (p : Word64) (rnd neg : BitVec 3) (sc : BitVec 4) (pol sat abs : BitVec 2),
      (u.pfx = [] → u.neg = 0 ∧ u.abs = 0) ∧
      (u.pfx = [{ addr := p, word := (0x06#8 ++ rnd ++ sc ++ pol ++ sat ++ neg ++ abs ++ 0#8 : BitVec 32) }] →
        u.neg = neg.toNat ∧ u.abs = abs.toNat))

/-- R222: what the arithmetic of each native format gives. A NaN operand gives the canonical NaN, with IV exactly for a
signalling one; a number that the format holds rounds to itself with no flag, subnormals too; x − x is +0, but −0 in RD; an
invalid product gives the canonical NaN with IV; a rounded magnitude above the largest finite value sets OF and NX and
gives infinity, or the largest finite value where the mode rounds toward it.
R221: Round to nearest gives a value of the format that no other finite value of it is nearer to, and Round toward zero
the greatest that does not exceed the number, for every number m × 2^e that does not overflow. -/
def Obligations.FloatValues : Prop :=
  (∀ f ∈ [f32, bf16, f16], ∀ (rm : RMode) (x y : Nat), x < 2 ^ f.width → y < 2 ^ f.width →
    ((f.toNum x).isNan = true ∨ (f.toNum y).isNan = true →
      f.add rm x y = (f.nanCode, { iv := (f.toNum x).isSnan || (f.toNum y).isSnan }) ∧
      f.mul rm x y = (f.nanCode, { iv := (f.toNum x).isSnan || (f.toNum y).isSnan })) ∧
    (∀ n m e, f.toNum x = .fin n m e → f.round rm n ⟨m, e, false⟩ = (x, {})) ∧
    (∀ n m e, f.toNum x = .fin n m e → f.sub rm x x = (if rm = .rd then f.signBit else 0, {})) ∧
    (∀ n e k, f.toNum x = .inf n → f.toNum y = .fin k 0 e → f.mul rm x y = (f.nanCode, { iv := true })) ∧
    (∀ neg (v : Mag), (roundGrid f.prec f.emin f.maxCode rm neg v).overflow = true →
      f.round rm neg v =
        (f.signed neg (if rm = .rne ∨ rm = .rna ∨ (rm = .rd ∧ neg = true) ∨ (rm = .ru ∧ neg = false) then f.infCode else f.maxCode),
          { ovf := true, nx := true }))) ∧
  (∀ f ∈ [f32, bf16, f16], ∀ (m : Nat) (e : Int) (c : Nat),
    (∀ flags, f.round .rne false ⟨m, e, false⟩ = (c, flags) → flags.ovf = false →
      ∀ c' ≤ f.maxCode, ∀ m₁ e₁ m₂ e₂, f.toNum c = .fin false m₁ e₁ → f.toNum c' = .fin false m₂ e₂ →
        let d := min e (min e₁ e₂)
        (scaled false m e d - scaled false m₁ e₁ d).natAbs ≤ (scaled false m e d - scaled false m₂ e₂ d).natAbs) ∧
    (∀ flags, f.round .rz false ⟨m, e, false⟩ = (c, flags) → flags.ovf = false →
      ∀ m₁ e₁, f.toNum c = .fin false m₁ e₁ →
        (let d := min e e₁; scaled false m₁ e₁ d ≤ scaled false m e d) ∧
        (∀ m₂ e₂, f.toNum (c + 1) = .fin false m₂ e₂ → let d := min e e₂; scaled false m e d < scaled false m₂ e₂ d)))

/-- R225: FMIN and FMAX are minimumNumber and maximumNumber, with −0 below +0: the operand that is no NaN where exactly one is,
with IV if that NaN is signalling, and the canonical NaN for two. LRED.min.f32 and LRED.max.f32 and the MIN.f32 and MAX.f32
records use the same ordering. -/
def Obligations.FloatMinMax : Prop :=
  (∀ (d a : VReg) (b : VSrc), ∀ x ∈ [(Instr.fmin d a b, false), (.fmax d a b, true)], Completes x.1 (fun s =>
    let u := s.unitOf x.1
    let r := fun k => f32.minmax x.2 (u.opA 0x80000000 (s.me.vreg a k)).toNat (u.opB 0x80000000 (srcVal b s.me k)).toNat
    (s.withV x.1 d (fun k => BitVec.ofNat 32 (r k).1)).withFlags (orFlags (fun k => (r k).2) (s.lanesOf x.1)))) ∧
  (∀ d a, Completes (.lredMinF32 d a) (fun s =>
    let r := treeNode (f32.minmax false) (fun i => if i ∈ s.lanesOf (.lredMinF32 d a) then (s.me.vreg a i).toNat else 0x7FC00000)
      (Nat.log2 s.me.width) 0
    (s.withS d (BitVec.ofNat 64 r.1)).withFlags r.2)) ∧
  (∀ d a, Completes (.lredMaxF32 d a) (fun s =>
    let r := treeNode (f32.minmax true) (fun i => if i ∈ s.lanesOf (.lredMaxF32 d a) then (s.me.vreg a i).toNat else 0x7FC00000)
      (Nat.log2 s.me.width) 0
    (s.withS d (BitVec.ofNat 64 r.1)).withFlags r.2)) ∧
  (∀ o y : Nat, recApply 6 4 o y = ((f32.minmax false o y).1, false) ∧ recApply 9 4 o y = ((f32.minmax true o y).1, false)) ∧
  (∀ (x y : Nat), x < 2 ^ 32 → y < 2 ^ 32 → ∀ up : Bool,
    ((f32.toNum x).isNan = true → (f32.toNum y).isNan = false →
      f32.minmax up x y = (y, { iv := (f32.toNum x).isSnan })) ∧
    ((f32.toNum x).isNan = false → (f32.toNum y).isNan = true →
      f32.minmax up x y = (x, { iv := (f32.toNum y).isSnan })) ∧
    ((f32.toNum x).isNan = true → (f32.toNum y).isNan = true → (f32.minmax up x y).1 = 0x7FC00000) ∧
    (∀ v, (f32.toNum x).compare? (f32.toNum y) = some v → v < 0 →
      f32.minmax false x y = (x, {}) ∧ f32.minmax true x y = (y, {})) ∧
    (∀ v, (f32.toNum x).compare? (f32.toNum y) = some v → 0 < v →
      f32.minmax false x y = (y, {}) ∧ f32.minmax true x y = (x, {})) ∧
    f32.minmax false 0x80000000 0 = (0x80000000, {}) ∧ f32.minmax false 0 0x80000000 = (0x80000000, {}) ∧
    f32.minmax true 0x80000000 0 = (0, {}) ∧ f32.minmax true 0 0x80000000 = (0, {}))

/-- R223: FCMP writes the comparison under CMB and raises IV as the condition and the NaNs say. An integer comparison sets no flag. -/
def Obligations.FloatCompare : Prop :=
  (∀ c p m a b, Completes (.fcmp c p m a b) (fun s =>
    let r := fun i => fcmpLane c (s.me.vreg a i) (srcVal b s.me i)
    (s.withP (.fcmp c p m a b) p (fun i => match m with
      | .set => (r i).1
      | .and => (s.me.preg p).getLsbD i && (r i).1
      | .or => (s.me.preg p).getLsbD i || (r i).1)).withFlags
        (orFlags (fun i => (r i).2) (s.lanesOf (.fcmp c p m a b))))) ∧
  (∀ a b : Word32, (f32.toNum a.toNat).isNan = true ∨ (f32.toNum b.toNat).isNan = true →
    let sig := (f32.toNum a.toNat).isSnan || (f32.toNum b.toNat).isSnan
    fcmpLane .eq a b = (false, { iv := sig }) ∧ fcmpLane .ne a b = (true, { iv := sig }) ∧
    fcmpLane .un a b = (true, { iv := sig }) ∧ fcmpLane .ord a b = (false, { iv := sig }) ∧
    ∀ c ∈ [FCond.lt, .le, .gt, .ge], fcmpLane c a b = (false, { iv := true })) ∧
  (∀ (a b : Word32) (v : Int), (f32.toNum a.toNat).compare? (f32.toNum b.toNat) = some v →
    fcmpLane .eq a b = (decide (v = 0), {}) ∧ fcmpLane .ne a b = (decide (v ≠ 0), {}) ∧
    fcmpLane .lt a b = (decide (v < 0), {}) ∧ fcmpLane .le a b = (decide (v ≤ 0), {}) ∧
    fcmpLane .gt a b = (decide (0 < v), {}) ∧ fcmpLane .ge a b = (decide (0 ≤ v), {}) ∧
    fcmpLane .un a b = (false, {}) ∧ fcmpLane .ord a b = (true, {})) ∧
  fcmpLane .eq 0x80000000 0 = (true, {}) ∧
  (∀ (c : SCond) (p : PReg) (m : Cmb) (a : VReg) (b : VSrc) (x y : SReg) (n : BitVec 6) (s : State),
    ∀ i ∈ [Instr.vcmp c p m a b, .scmp c p x y, .scmpImm c p x n], s.canIssue i →
    ∃ t, exec i s = .next t ∧ t.me.gstat = s.me.gstat)

/-- R226, R331: the conversions of FCVT, FRND and FCLASS write each active lane's result and raise its flags; a code that
names no plain binary8 format is an illegal operand.
R226, R227: what the conversions give. An integer in range converts exactly; out of range saturates with IV; a NaN gives
0 with IV. The rows of R227 in their order. FCLASS sets one bit. -/
def Obligations.FloatConversions : Prop :=
  (∀ (d a : VReg) (b : VSrc),
    let lane := fun (i : Instr) (p : State → Prop) (f : RMode → Nat → Nat × Flags) =>
      CompletesWhen i p (fun s =>
        let r := fun k => f (s.unitOf i).rmode (s.me.vreg a k).toNat
        (s.withV i d (fun k => BitVec.ofNat 32 (r k).1)).withFlags (orFlags (fun k => (r k).2) (s.lanesOf i)))
    let toInt := fun (lo hi : Int) (m : RMode) (x : Nat) =>
      let r := toIntSat m lo hi (f32.toNum x)
      ((r.1 % 2 ^ 32).toNat, r.2)
    lane (.fcvtF32I32 d a) (fun _ => True) (toInt (-(2 ^ 31)) (2 ^ 31 - 1)) ∧
    lane (.fcvtF32N32 d a) (fun _ => True) (toInt 0 (2 ^ 32 - 1)) ∧
    lane (.fcvtI32F32 d a) (fun _ => True) (fun m x => ofIntScaled m (if x < 2 ^ 31 then x else x - 2 ^ 32) 0) ∧
    lane (.fcvtN32F32 d a) (fun _ => True) (fun m x => ofIntScaled m x 0) ∧
    lane (.fcvtF32Bf16 d a) (fun _ => True) (convert f32 bf16) ∧
    lane (.fcvtBf16F32 d a) (fun _ => True) (fun m x => convert bf16 f32 m (x % 65536)) ∧
    lane (.fcvtF32F16 d a) (fun _ => True) (convert f32 f16) ∧
    lane (.fcvtF16F32 d a) (fun _ => True) (fun m x => convert f16 f32 m (x % 65536)) ∧
    lane (.frnd d a) (fun _ => True) frnd ∧
    lane (.fclass d a) (fun _ => True) (fun _ x => (fclass x, {})) ∧
    (∀ (c : Fin 128) (o : Bool) (f : B8Fmt), b8Of c.val = some f →
      lane (.fcvtF32E8 d a c o) (fun _ => True) (fun m x => f.ofNum m o (f32.toNum x)) ∧
      lane (.fcvtE8F32 d a c) (fun _ => True) (fun _ x => f32.ofNum .rne (f.toNum (x % 256)))) ∧
    (∀ (c : Fin 128) (o : Bool), b8Of c.val = none →
      TrapsWhen (.fcvtF32E8 d a c o) (fun _ => True)
        (fun s => { code := 2, taddr := 0, tinfo := (s.unitOf (.fcvtF32E8 d a c o)).word }) ∧
      TrapsWhen (.fcvtE8F32 d a c) (fun _ => True)
        (fun s => { code := 2, taddr := 0, tinfo := (s.unitOf (.fcvtE8F32 d a c)).word })) ∧
    (∀ e : BitVec 7, Completes (.fcvtFx64F32 d a e) (fun s =>
      let i := Instr.fcvtFx64F32 d a e
      let r := fun k => ofIntScaled (s.unitOf i).rmode
        ((s.me.vreg (a.val + 1) k ++ s.me.vreg a k : BitVec 64).toInt) (-e.toInt)
      (s.withV i d (fun k => BitVec.ofNat 32 (r k).1)).withFlags (orFlags (fun k => (r k).2) (s.lanesOf i)))) ∧
    Completes (.fcvtF32Bf16x2 d a b) (fun s =>
      let i := Instr.fcvtF32Bf16x2 d a b
      let lo := fun k => convert f32 bf16 (s.unitOf i).rmode (s.me.vreg a k).toNat
      let hi := fun k => convert f32 bf16 (s.unitOf i).rmode (srcVal b s.me k).toNat
      (s.withV i d (fun k => BitVec.ofNat 32 ((hi k).1 * 65536 + (lo k).1))).withFlags
        (orFlags (fun k => (lo k).2.or (hi k).2) (s.lanesOf i)))) ∧
  ((∀ (rm : RMode) (lo hi k : Int), lo ≤ k → k ≤ hi → toIntSat rm lo hi (.fin (decide (k < 0)) k.natAbs 0) = (k, {})) ∧
  (∀ (rm : RMode) (lo hi : Int) (s : Bool), toIntSat rm lo hi (.nan s) = (0, { iv := true })) ∧
  (∀ (rm : RMode) (lo hi k : Int), k < lo → lo ≤ hi → toIntSat rm lo hi (.fin (decide (k < 0)) k.natAbs 0) = (lo, { iv := true })) ∧
  (∀ (rm : RMode) (lo hi k : Int), hi < k → lo ≤ hi → toIntSat rm lo hi (.fin (decide (k < 0)) k.natAbs 0) = (hi, { iv := true })) ∧
  (∀ (f : B8Fmt) (rm : RMode) (ovf : Bool),
    (∀ sig, f.ofNum rm ovf (.nan sig) = (if f.signed then 0x80 else 0xFF, { iv := sig })) ∧
    (∀ m e, f.signed = false → m ≠ 0 → f.ofNum rm ovf (.fin true m e) = (0, { iv := true })) ∧
    (f.signed = false → f.ofNum rm ovf (.inf true) = (0, { iv := true })) ∧
    (∀ neg e, f.ofNum rm ovf (.fin neg 0 e) = (0, {})) ∧
    (∀ neg, f.infs = true → (neg = true → f.signed = true) →
      f.ofNum rm ovf (.inf neg) = (f.withSign neg f.infCode, {})) ∧
    (∀ neg, f.infs = false → (neg = true → f.signed = true) →
      f.ofNum rm ovf (.inf neg) = (if ovf then f.nanCode else f.withSign neg f.maxCode, {})) ∧
    (∀ neg m e, m ≠ 0 → (neg = true → f.signed = true) →
      (roundGrid f.prec f.emin f.maxCode rm neg ⟨m, e, false⟩).overflow = true →
      f.ofNum rm ovf (.fin neg m e) =
        (if ovf = false then f.withSign neg f.maxCode else if f.infs then f.withSign neg f.infCode else f.nanCode,
          { ovf := true, nx := true })) ∧
    (∀ neg m e, m ≠ 0 → (neg = true → f.signed = true) →
      (roundGrid f.prec f.emin f.maxCode rm neg ⟨m, e, false⟩).overflow = false →
      (roundGrid f.prec f.emin f.maxCode rm neg ⟨m, e, false⟩).code = 0 →
      f.ofNum rm ovf (.fin neg m e) = (0, { uf := true, nx := true }))) ∧
  (∀ x < 2 ^ 32, ∃ k < 10, fclass x = 2 ^ k) ∧
  (fclass 0xFF800000 = 1 ∧ fclass 0x80000000 = 8 ∧ fclass 0 = 16 ∧ fclass 0x7F800000 = 128 ∧ fclass 0x7F800001 = 256 ∧
    fclass 0x7FC00000 = 512 ∧ fclass 0x807FFFFF = 4 ∧ fclass 0x00800000 = 64))

/-- R74, R75, R395, R396: with an entry of the core's queue free, an SFU instruction takes one that holds the results and
flags of its active lanes, and its unit waits; with none free it does not issue. SFU_RESULT writes the results of an entry,
raises its flags and completes the unit.
R74: the special results of the special functions, and the canonical NaN for a NaN operand. -/
def Obligations.SpecialFunctions : Prop :=
  ((∀ (d a : VReg), ∀ x ∈ [(Instr.xrcp d a, SfuOp.rcp), (.xrsq d a, .rsq), (.xsqrt d a, .sqrt), (.xexp d a, .exp), (.xlog d a, .log),
      (.xsin d a, .sin), (.xcos d a, .cos), (.xtanh d a, .tanh)],
    WaitsWhen x.1 (fun s => (s.core s.here).sfu.length < 32)
      (fun s => s.setCore s.here { s.core s.here with sfu := (s.core s.here).sfu ++ [{
        grp := s.cur, unit := s.me.firstWord, dst := d,
        res := (s.lanesOf x.1).map (fun i => (i, (sfuLane x.2 (s.me.vreg a i)).1)),
        flags := orFlags (fun i => (sfuLane x.2 (s.me.vreg a i)).2) (s.lanesOf x.1), at_ := s.cycle }] })
      (fun s => { s.unitOf x.1 with wait := .sfu }) ∧
    ∀ s, s.canIssue x.1 → 32 ≤ (s.core s.here).sfu.length → exec x.1 s = .next s) ∧
  (∀ (core i : Nat) (e : SfuEntry) (s : State), (s.core core).sfu[i]? = some e → ∃ t,
    exec (.sfuResult core i) s = .next t ∧ t.core core = { s.core core with sfu := (s.core core).sfu.eraseIdx i } ∧
    t.grp e.grp = ((s.grp e.grp).takeSfu e).settle e.unit ∧ t.mem = s.mem ∧ t.lm = s.lm ∧
    ∀ k, k ≠ e.grp → t.grp k = s.grp k) ∧
  (∀ (g : Group) (e : SfuEntry) (lane : Nat) (w : Word32), e.dst < 128 → lane < 64 → e.res = [(lane, w)] →
    (g.takeSfu e).vreg e.dst lane = w ∧ (g.takeSfu e).gstat = g.gstat.or e.flags ∧ (g.takeSfu e).s = g.s)) ∧
  ((∀ (op : SfuOp) (x : Word32), (f32.toNum x.toNat).isNan = true →
    sfuLane op x = (0x7FC00000, { iv := (f32.toNum x.toNat).isSnan })) ∧
  sfuLane .rcp 0 = (0x7F800000, { dz := true }) ∧ sfuLane .rcp 0x80000000 = (0xFF800000, { dz := true }) ∧
  sfuLane .rcp 0x7F800000 = (0, {}) ∧ sfuLane .rcp 0xFF800000 = (0x80000000, {}) ∧
  sfuLane .rsq 0 = (0x7F800000, { dz := true }) ∧ sfuLane .rsq 0x80000000 = (0xFF800000, { dz := true }) ∧
  sfuLane .rsq 0x7F800000 = (0, {}) ∧ sfuLane .sqrt 0x80000000 = (0x80000000, {}) ∧
  sfuLane .sqrt 0x7F800000 = (0x7F800000, {}) ∧ sfuLane .exp 0xFF800000 = (0, {}) ∧
  sfuLane .exp 0x7F800000 = (0x7F800000, {}) ∧ sfuLane .exp 0 = (0x3F800000, {}) ∧ sfuLane .log 0 = (0xFF800000, { dz := true }) ∧
  sfuLane .log 0x3F800000 = (0, {}) ∧ sfuLane .log 0x7F800000 = (0x7F800000, {}) ∧
  sfuLane .sin 0x7F800000 = (0x7FC00000, { iv := true }) ∧ sfuLane .sin 0x80000000 = (0x80000000, {}) ∧
  sfuLane .sin 0xBF800000 = (0x80000000, {}) ∧ sfuLane .cos 0x7F800000 = (0x7FC00000, { iv := true }) ∧
  sfuLane .cos 0x3F000000 = (0, {}) ∧ sfuLane .tanh 0x80000000 = (0x80000000, {}) ∧
  sfuLane .tanh 0x7F800000 = (0x3F800000, {}) ∧ sfuLane .tanh 0xFF800000 = (0xBF800000, {}) ∧
  (∀ x : Word32, x.msb = true → (f32.toNum x.toNat).isNan = false → x ≠ 0x80000000 →
    sfuLane .rsq x = (0x7FC00000, { iv := true }) ∧ sfuLane .sqrt x = (0x7FC00000, { iv := true }) ∧
    sfuLane .log x = (0x7FC00000, { iv := true })))

/-! ## Control -/

/-- R314, R315: each branch goes to its own word plus 4 × DISP, or to the next unit, as its predicate says.
R316, R317: CALL and CALLS leave the address of the next unit in s62 and go to their target; RET, BRAS and CALLS go to
the address in a scalar, and a target that is no multiple of 4 is misaligned, nothing changed. -/
def Obligations.Branches : Prop :=
  (∀ (p : PReg) (disp : BitVec 18),
    let goes := fun (i : Instr) (taken : State → Prop) =>
      GoesTo i taken (fun s => s) (fun s => s.me.pc + BitVec.ofInt 64 (4 * (s.unitOf i).imm 18 disp.toNat)) ∧
      GoesTo i (fun s => ¬ taken s) (fun s => s) (fun s => s.me.pc + 4)
    let low := fun (s : State) => ((List.range s.me.width).find? (fun k => s.me.em.getLsbD k)).getD 0
    let on := fun (s : State) (k : Nat) => s.me.em.getLsbD k = true
    GoesTo (.bra disp) (fun _ => True) (fun s => s)
      (fun s => s.me.pc + BitVec.ofInt 64 (4 * (s.unitOf (.bra disp)).imm 18 disp.toNat)) ∧
    goes (.braIf p disp) (fun s => (s.me.preg p).getLsbD (low s) = true) ∧
    goes (.braIfNot p disp) (fun s => (s.me.preg p).getLsbD (low s) = false) ∧
    goes (.brany p disp) (fun s => ∃ k < 64, on s k ∧ (s.me.preg p).getLsbD k = true) ∧
    goes (.branyNot p disp) (fun s => ∃ k < 64, on s k ∧ (s.me.preg p).getLsbD k = false) ∧
    goes (.brall p disp) (fun s => ∀ k < 64, on s k → (s.me.preg p).getLsbD k = true) ∧
    goes (.brallNot p disp) (fun s => ∀ k < 64, on s k → (s.me.preg p).getLsbD k = false)) ∧
  ((∀ disp, GoesTo (.call disp) (fun _ => True)
    (fun s => s.onMe (fun g => { g.setS 62 (s.me.pc + 4) with rstack := ((s.me.pc + 4) :: g.rstack).take 16 }))
    (fun s => s.me.pc + BitVec.ofInt 64 (4 * (s.unitOf (.call disp)).imm 18 disp.toNat))) ∧
  (∀ a, GoesTo (.ret a) (fun s => s.me.sreg a &&& 3 = 0) (fun s => s.onMe (fun g => { g with rstack := g.rstack.tail }))
    (fun s => s.me.sreg a)) ∧
  (∀ a, GoesTo (.bras a) (fun s => s.me.sreg a &&& 3 = 0) (fun s => s.onMe (fun g => g)) (fun s => s.me.sreg a)) ∧
  (∀ a, GoesTo (.calls a) (fun s => s.me.sreg a &&& 3 = 0)
    (fun s => s.onMe (fun g => { g.setS 62 (s.me.pc + 4) with rstack := ((s.me.pc + 4) :: g.rstack).take 16 }))
    (fun s => s.me.sreg a)) ∧
  (∀ a, ∀ i ∈ [Instr.ret a, .bras a, .calls a], TrapsWhen i (fun s => s.me.sreg a &&& 3 ≠ 0)
    (fun s => { code := 4, taddr := s.me.sreg a, tinfo := 0 })))

/-- R30 to R36, R318, R336, R353: the divergence stack. SPLIT pushes (target, the lanes that go the other way, EM) and goes
on with the lanes that take its predicate, or to the target where none does; FLIP runs the other lanes from the entry's
address; BRX pushes the join point and jumps with the lanes that share the lowest lane's target; MERGE pops, or goes on
to the next target of a BRX. A full stack is 0x0B, an empty one or a malformed entry an illegal operand, a misaligned target 0x04.
That TINFO of BRX's is 0 is the model's choice (DESIGN CHOICE, unsafe: assumption log, 13). -/
def Obligations.Divergence : Prop :=
  (∀ (p : PReg) (disp : BitVec 18) (s t : State) (at_ : Nat), ∀ x ∈ [(Instr.split p disp, s.me.preg p), (.splitNot p disp, ~~~(s.me.preg p))],
    s.canIssue x.1 → s.me.depth ≠ s.me.limit → s.stackAccess (s.unitOf x.1) s.me.depth true = .ok (t, at_) →
    let target := s.me.pc + BitVec.ofInt 64 (4 * (s.unitOf x.1).imm 18 disp.toNat)
    let taken := s.me.em &&& x.2
    let other := s.me.em &&& ~~~x.2
    (taken ≠ 0 → exec x.1 s = .next (s.completedAt x.1 ((t.writeEntry at_ target other s.me.em 0).onMe
      (fun g => { g.setDepth (g.depth + 1) with em := taken })) (s.me.pc + 4))) ∧
    (taken = 0 → exec x.1 s = .next (s.completedAt x.1 ((t.writeEntry at_ target other s.me.em 4).onMe
      (fun g => { g.setDepth (g.depth + 1) with em := other })) target))) ∧
  (∀ (disp : BitVec 18) (s t : State) (at_ : Nat), s.canIssue (.flip disp) → s.me.depth ≠ 0 →
    s.stackAccess (s.unitOf (.flip disp)) (s.me.depth - 1) true = .ok (t, at_) →
    let w := t.stackWord at_ 3
    let mask := t.stackWord at_ 1 &&& s.me.lanesMask
    ctlMalformed w = false → ctlKind w = 0 →
    (mask ≠ 0 → ctlTaken w = false → exec (.flip disp) s = .next (s.completedAt (.flip disp)
      ((t.writeEntry at_ (t.stackWord at_ 0) (t.stackWord at_ 1) (t.stackWord at_ 2) (w ||| 4)).onMe
        (fun g => { g with em := mask })) (t.stackWord at_ 0))) ∧
    (mask = 0 ∨ ctlTaken w = true → exec (.flip disp) s = .next (s.completedAt (.flip disp) t
      (s.me.pc + BitVec.ofInt 64 (4 * (s.unitOf (.flip disp)).imm 18 disp.toNat))))) ∧
  (∀ (a : VReg) (disp : BitVec 19) (s t : State) (at_ l : Nat), s.canIssue (.brx a disp) → s.me.depth ≠ s.me.limit →
    s.stackAccess (s.unitOf (.brx a disp)) s.me.depth true = .ok (t, at_) →
    (s.me.lanesOf s.me.em).head? = some l → s.me.em ≠ 0 →
    let join := s.me.pc + BitVec.ofInt 64 (4 * (s.unitOf (.brx a disp)).imm 19 disp.toNat)
    let target := join + (s.me.vreg a l).signExtend 64
    let same := BitVec.ofNat 64 (bitsOf (fun i => s.me.em.getLsbD i && s.me.vreg a i == s.me.vreg a l) s.me.width)
    target &&& 3 = 0 → exec (.brx a disp) s = .next (s.completedAt (.brx a disp)
      ((t.writeEntry at_ join (s.me.em &&& ~~~same) s.me.em (BitVec.ofNat 64 (1 + a.val * 256))).onMe
        (fun g => { g.setDepth (g.depth + 1) with em := same })) target)) ∧
  (∀ (s t : State) (at_ : Nat), s.canIssue .merge → s.me.depth ≠ 0 →
    s.stackAccess (s.unitOf .merge) (s.me.depth - 1) true = .ok (t, at_) →
    ctlMalformed (t.stackWord at_ 3) = false →
    (ctlKind (t.stackWord at_ 3) ≠ 1 ∨ t.stackWord at_ 1 &&& s.me.lanesMask = 0 →
      exec .merge s = .next (s.completedAt .merge (t.onMe (fun g =>
        { g.setDepth (g.depth - 1) with em := t.stackWord at_ 2 &&& s.me.lanesMask })) (s.me.pc + 4)))) ∧
  (∀ (s t : State) (at_ l : Nat), s.canIssue .merge → s.me.depth ≠ 0 →
    s.stackAccess (s.unitOf .merge) (s.me.depth - 1) true = .ok (t, at_) →
    let w := t.stackWord at_ 3
    let mask := t.stackWord at_ 1 &&& s.me.lanesMask
    let a := s.me.vreg (ctlVa w)
    ctlMalformed w = false → ctlKind w = 1 → ctlVa w < s.me.vcount → (s.me.lanesOf mask).head? = some l →
    let target := t.stackWord at_ 0 + (a l).signExtend 64
    let same := BitVec.ofNat 64 (bitsOf (fun i => mask.getLsbD i && a i == a l) s.me.width)
    target &&& 3 = 0 → exec .merge s = .next (s.completedAt .merge
      ((t.writeEntry at_ (t.stackWord at_ 0) (mask &&& ~~~same) (t.stackWord at_ 2) w).onMe
        (fun g => { g with em := same })) target)) ∧
  (∀ (a : VReg) (disp : BitVec 19) (s t : State) (at_ : Nat), s.canIssue (.brx a disp) → s.me.depth ≠ s.me.limit →
    s.stackAccess (s.unitOf (.brx a disp)) s.me.depth true = .ok (t, at_) → s.me.em = 0 →
    let join := s.me.pc + BitVec.ofInt 64 (4 * (s.unitOf (.brx a disp)).imm 19 disp.toNat)
    exec (.brx a disp) s = .next (s.completedAt (.brx a disp)
      ((t.writeEntry at_ join 0 0 (BitVec.ofNat 64 (1 + a.val * 256))).onMe
        (fun g => { g.setDepth (g.depth + 1) with em := 0 })) join)) ∧
  (∀ (p : PReg) (d : BitVec 18), ∀ i ∈ [Instr.split p d, .splitNot p d], TrapsWhen i (fun s => s.me.depth = s.me.limit)
    (fun s => { code := 0x0B, taddr := 0, tinfo := s.me.dsd })) ∧
  (∀ (a : VReg) (d : BitVec 19), TrapsWhen (.brx a d) (fun s => s.me.depth = s.me.limit)
    (fun s => { code := 0x0B, taddr := 0, tinfo := s.me.dsd })) ∧
  (∀ (a : VReg) (d : BitVec 19) (l : Nat),
    let target := fun (s : State) =>
      s.me.pc + BitVec.ofInt 64 (4 * (s.unitOf (.brx a d)).imm 19 d.toNat) + (s.me.vreg a l).signExtend 64
    TrapsWhen (.brx a d) (fun s => s.me.depth ≠ s.me.limit ∧ s.me.em ≠ 0 ∧ (s.me.lanesOf s.me.em).head? = some l ∧
      target s &&& 3 ≠ 0) (fun s => { code := 4, taddr := target s, tinfo := 0 })) ∧
  (∀ (s t : State) (at_ l : Nat), s.canIssue .merge → s.me.depth ≠ 0 →
    s.stackAccess (s.unitOf .merge) (s.me.depth - 1) true = .ok (t, at_) →
    let w := t.stackWord at_ 3
    let mask := t.stackWord at_ 1 &&& s.me.lanesMask
    let target := t.stackWord at_ 0 + (s.me.vreg (ctlVa w) l).signExtend 64
    ctlMalformed w = false → ctlKind w = 1 → ctlVa w < s.me.vcount → (s.me.lanesOf mask).head? = some l → target &&& 3 ≠ 0 →
    exec .merge s = .next (if s.me.flight.isEmpty then s.fault s.cur { code := 4, taddr := target, tinfo := 0 } else s)) ∧
  (∀ (s t : State) (at_ : Nat), s.canIssue .merge → s.me.depth ≠ 0 →
    s.stackAccess (s.unitOf .merge) (s.me.depth - 1) true = .ok (t, at_) →
    ctlMalformed (t.stackWord at_ 3) = true ∨ (ctlKind (t.stackWord at_ 3) = 1 ∧ t.stackWord at_ 1 &&& s.me.lanesMask ≠ 0 ∧
      s.me.vcount ≤ ctlVa (t.stackWord at_ 3)) →
    exec .merge s = .next (if s.me.flight.isEmpty then s.fault s.cur (s.unitOf .merge).operand else s)) ∧
  (∀ d, TrapsWhen (.flip d) (fun s => s.me.depth = 0) (fun s => (s.unitOf (.flip d)).operand)) ∧
  (TrapsWhen .merge (fun s => s.me.depth = 0) (fun s => (s.unitOf .merge).operand)) ∧
  (∀ (s : State) (at_ : Nat) (a m o c : Word64),
    let t := s.writeEntry at_ a m o c
    t.stackWord at_ 0 = a ∧ t.stackWord at_ 1 = m ∧ t.stackWord at_ 2 = o ∧ t.stackWord at_ 3 = c ∧
    (∀ b, b < at_ ∨ at_ + 32 ≤ b → rdByte t.lm b = rdByte s.lm b) ∧ t.mem = s.mem ∧ t.groups = s.groups)

/-- R359, R397, R333 to R335, R173, R321: NOP only moves on; YIELD does not issue in the next cycle; a FENCE that is no acquire waits for
the release of its scope, and an acquire at cluster scope or wider drops the core's L1; a CINV takes no line into the L1, and
CINV.all drops the L1 and the instruction buffer. NOP, YIELD, CINV.all and CINV of a range below 2^64 complete whenever they
can issue, and so does a FENCE of any kind at each of the scopes 0 to 9 where nothing is under way that it could wait for: NOP
and YIELD move on by four bytes and touch nothing else but the time at which YIELD may issue again, and CINV leaves no sector
of a line of its range that the core's one TLB entry maps. That an acquiring FENCE waits for the group's older accesses is the model's
reading of R335 (DEDUCED: assumption log, 27). -/
def Obligations.SystemInstructions : Prop :=
  (Completes .nop (fun s => s)) ∧
  (∀ s, s.canIssue .yield → ∃ t, exec .yield s = .next t ∧
    t.me = { (s.completed .yield s).me with yielded := some (s.cycle + 1) } ∧ t.mem = s.mem ∧ t.lm = s.lm) ∧
  (∀ (k : FenceKind) (sc : Fin 16) (t : State → State), sc.val < 10 →
    CompletesWhen (.fence .acq sc) (fun s => sc.val = 0 ∨
      ∀ o ∈ s.me.older (s.unitOf (.fence .acq sc)), o.done = true ∨ accesses o.instr = false) (fun s => s.acquire s.cur sc) ∧
    WaitsWhen (.fence .acq sc) (fun s => sc.val ≠ 0 ∧
      ∃ o ∈ s.me.older (s.unitOf (.fence .acq sc)), o.done = false ∧ accesses o.instr = true) (fun s => s)
      (fun s => { s.unitOf (.fence .acq sc) with wait := .older }) ∧
    CompletesWhen (.fence .rel sc) (fun s => s.release s.cur (s.unitOf (.fence .rel sc)) sc = some (t s)) t ∧
    CompletesWhen (.fence .both sc) (fun s => s.release s.cur (s.unitOf (.fence .both sc)) sc = some (t s))
      (fun s => (t s).acquire s.cur sc) ∧
    (k ≠ .acq → WaitsWhen (.fence k sc) (fun s => s.release s.cur (s.unitOf (.fence k sc)) sc = none) (fun s => s)
      (fun s => { s.unitOf (.fence k sc) with wait := .older }))) ∧
  (∀ k (sc : Fin 16), 10 ≤ sc.val → TrapsWhen (.fence k sc) (fun _ => True) (fun s => (s.unitOf (.fence k sc)).operand)) ∧
  (∀ (s : State) (k sc : Nat), (5 ≤ sc → (s.acquire k sc).core (coreOf k) = { s.core (coreOf k) with l1 := [] }) ∧
    (sc < 5 → s.acquire k sc = s) ∧ (s.acquire k sc).mem = s.mem ∧ (s.acquire k sc).groups = s.groups) ∧
  (∀ a b, CompletesWhen (.cinv a b) (fun s => s.me.sreg b = 0) (fun s => s)) ∧
  (∀ a b s, s.canIssue (.cinv a b) → (s.me.sreg a).toNat + (s.me.sreg b).toNat ≤ 2 ^ 64 → ∃ t,
    exec (.cinv a b) s = .next (s.completed (.cinv a b) t) ∧ t.groups = s.groups ∧ t.mem = s.mem ∧ t.lm = s.lm ∧
    (∀ c, c ≠ s.here → t.core c = s.core c) ∧
    (∀ x ∈ (t.core s.here).l1, x ∈ (s.core s.here).l1)) ∧
  (∀ a b, TrapsWhen (.cinv a b) (fun s => 2 ^ 64 < (s.me.sreg a).toNat + (s.me.sreg b).toNat)
    (fun s => (s.unitOf (.cinv a b)).operand)) ∧
  (Completes .cinvAll (fun s => s.setCore s.here { s.core s.here with l1 := [], ibuf := [] })) ∧
  (∀ s : State, s.canIssue .nop → exec .nop s = .next (s.completed .nop s) ∧ (s.completed .nop s).me.pc = s.me.pc + 4 ∧
    (s.completed .nop s).mem = s.mem ∧ (s.completed .nop s).lm = s.lm) ∧
  (∀ s : State, s.canIssue .yield → ∃ t, exec .yield s = .next t ∧ t.me.pc = s.me.pc + 4 ∧ t.me.yielded = some (s.cycle + 1) ∧
    (∀ r, t.me.sreg r = s.me.sreg r) ∧ (∀ r l, t.me.vreg r l = s.me.vreg r l) ∧ (∀ k, k ≠ s.cur → t.grp k = s.grp k) ∧
    t.mem = s.mem ∧ t.lm = s.lm ∧ t.full = s.full ∧ t.bstore = s.bstore ∧ t.insts = s.insts) ∧
  (∀ (k : FenceKind) (sc : Fin 16) (s : State), sc.val < 10 → s.canIssue (.fence k sc) → s.quiet →
    ∃ t, exec (.fence k sc) s = .next (s.completed (.fence k sc) t) ∧ s.restOf t ∧
      (k ≠ .rel → 5 ≤ sc.val → (t.core s.here).l1 = []) ∧ (∀ c, c ≠ s.here → t.core c = s.core c)) ∧
  (∀ (a b : SReg) (s : State) (e : TlbEntry) (va : Nat),
    let lo := (s.me.sreg a).toNat
    let hi := lo + (s.me.sreg b).toNat
    s.canIssue (.cinv a b) → hi ≤ 2 ^ 64 → ∃ t, exec (.cinv a b) s = .next (s.completed (.cinv a b) t) ∧
      t.groups = s.groups ∧ t.mem = s.mem ∧ t.lm = s.lm ∧ (∀ c, c ≠ s.here → t.core c = s.core c) ∧
      (∀ x ∈ (t.core s.here).l1, x ∈ (s.core s.here).l1) ∧
      ((s.core s.here).tlb = [e] → e.ctx = s.me.ctx → e.size ∈ [2 ^ 16, 2 ^ 21, 2 ^ 30] → e.va % e.size = 0 →
        e.va + e.size ≤ 2 ^ 48 → pteDil e.leaf = false → ptePa e.leaf + e.size ≤ 2 ^ 52 → s.homes = [] →
        s.leafOk e.ctx e.leaf (levelOf e.size) (ptePa e.leaf) = true → e.va ≤ va → va < e.va + e.size → lo ≤ va → va < hi →
        ∀ x ∈ (t.core s.here).l1, x.1 / 8 ≠ (s.device * 2 ^ 52 + ptePa e.leaf + (va - e.va)) / 128)) ∧
  (∀ s : State, s.canIssue .cinvAll → ∃ t, exec .cinvAll s = .next (s.completed .cinvAll t) ∧ (t.core s.here).l1 = [] ∧
    (t.core s.here).ibuf = [] ∧ (∀ c, c ≠ s.here → t.core c = s.core c) ∧ t.groups = s.groups ∧ t.mem = s.mem ∧ t.lm = s.lm)

/-! ## Memory -/

/-- R237, R244, R245: what every global access meets before it acts, in this order: a misaligned lane (0x04), a lane that
does not translate (0x05), a write to a page that is not writable (0x06), the lowest such lane first; an address at or above
2^48 is 0x05 with reason 2. R258: where the walk waits for an entry that its controller holds back there is no trap yet. -/
def Obligations.AccessFaults : Prop :=
  (∀ (s : State) (core ctx n : Nat) (w : Bool) (ls : List (Nat × Nat)) (x : Nat × Nat),
    ls.find? (fun x => x.2 % n ≠ 0) = some x →
    s.resolve core ctx n w ls = .error { code := 4, taddr := BitVec.ofNat 64 x.2, tinfo := BitVec.ofNat 64 x.1 }) ∧
  (∀ (s : State) (core ctx n : Nat) (w : Bool) (pre : List (Nat × Nat)) (x : Nat × Nat) (post : List (Nat × Nat)) (c : Cause),
    (∀ y ∈ pre ++ x :: post, y.2 % n = 0) → (∀ y ∈ pre, ∃ p, s.translate core ctx y.2 y.1 w false = .ok p) →
    s.translate core ctx x.2 x.1 w false = .error c → s.resolve core ctx n w (pre ++ x :: post) = .error c) ∧
  (∀ (s : State) (core ctx n : Nat) (ls : List (Nat × Nat)) (ps : List GLane) (x : GLane),
    (∀ y ∈ ls, y.2 % n = 0) → s.translateAll core ctx true ls = .ok ps → ps.find? (fun y => !pteW y.at_.leaf) = some x →
    ∃ i, s.resolve core ctx n true ls = .error { code := 6, taddr := BitVec.ofNat 64 x.va, tinfo := i }) ∧
  (∀ (s : State) (core ctx va lane : Nat) (w f : Bool), 2 ^ 48 ≤ va → ∃ i,
    s.translate core ctx va lane w f = .error { code := 5, taddr := BitVec.ofNat 64 va, tinfo := i }) ∧
  (∀ (s : State) (core ctx va lane : Nat) (w f : Bool) (c : Cause), s.translate core ctx va lane w f = .error c →
    c.code = 5 ∨ (c = notYet ∧ s.pchans ≠ [])) ∧
  (∀ (s : State) (k : Nat), s.fault k notYet = s) ∧
  (∀ (s : State) (core ctx n : Nat) (w : Bool) (ls : List (Nat × Nat)) (xs : List GLane), s.resolve core ctx n w ls = .ok xs →
    xs.map (fun x => (x.lane, x.va)) = ls ∧ (∀ y ∈ ls, y.2 % n = 0) ∧ (w = true → ∀ x ∈ xs, pteW x.at_.leaf = true))

/-- R342 to R344, R371: where nothing is under way, LDG, its acquire form and SLD of pages of this module complete
with the bytes of memory at each active lane's address; the registers of a load hold its lane's value, sign-extended for
b8s and b16s; nothing else of the group, and no byte, changes. -/
def Obligations.GlobalLoads : Prop :=
  (∀ (w : Width) (q : Bool) (r : VReg) (b : SReg) (o : VReg) (sc : Bool) (s : State) (xs : List GLane),
    let n := widthBytes w
    let loads := fun (i : Instr) =>
      s.canIssue i → s.quiet → s.resolve s.here s.me.ctx n false (s.laneAddrs i b o (if sc then n else 1)) = .ok xs →
      (∀ x ∈ xs, x.at_.control = false ∧ x.at_.home = s.device) → linesOf xs ≤ 256 →
      ∃ t, exec i s = .next (s.completed i t) ∧ s.restOf t ∧
        t.me = s.me.loadRegs w r (xs.map (fun x => (x.lane, rdLE s.mem x.at_.key n)))
    loads (.ldg w q r b o sc) ∧ ((s.unitOf (.ldgAcq w r b o sc)).modScope < 10 → loads (.ldgAcq w r b o sc))) ∧
  (∀ (d a : SReg) (imm : BitVec 12) (s : State) (x : GLane), s.canIssue (.sld d a imm) → s.quiet →
    s.resolve s.here s.me.ctx 8 false [(0, (s.me.sreg a + (s.unitOf (.sld d a imm)).simm imm).toNat)] = .ok [x] →
    x.at_.control = false → x.at_.home = s.device → x.lane = 0 →
    ∃ t, exec (.sld d a imm) s = .next (s.completed (.sld d a imm) t) ∧ s.restOf t ∧
      t.me = s.me.setS d (BitVec.ofNat 64 (rdLE s.mem x.at_.key 8))) ∧
  (∀ (w : Width) (r : VReg) (b : SReg) (o : VReg) (sc : Bool),
    TrapsWhen (.ldgAcq w r b o sc) (fun s => 10 ≤ (s.unitOf (.ldgAcq w r b o sc)).modScope)
      (fun s => (s.unitOf (.ldgAcq w r b o sc)).operand)) ∧
  (∀ (b : SReg) (o : VReg) (sc : Bool) (s : State) (xs : List GLane), s.canIssue (.ldgTouch b o sc) → s.quiet →
    s.resolve s.here s.me.ctx 1 false (s.laneAddrs (.ldgTouch b o sc) b o 1) = .ok xs →
    (∀ x ∈ xs, x.at_.control = false ∧ x.at_.home = s.device) →
    exec (.ldgTouch b o sc) s = .next (s.completed (.ldgTouch b o sc) s)) ∧
  (∀ (g : Group) (r : VReg) (lane v : Nat), lane < 64 →
    (g.loadRegs .b32 r [(lane, v)]).vreg r lane = BitVec.ofNat 32 v ∧
    (g.loadRegs .b8 r [(lane, v)]).vreg r lane = BitVec.ofNat 32 v ∧
    (g.loadRegs .b16 r [(lane, v)]).vreg r lane = BitVec.ofNat 32 v ∧
    (g.loadRegs .b8s r [(lane, v)]).vreg r lane = (BitVec.ofNat 8 v).signExtend 32 ∧
    (g.loadRegs .b16s r [(lane, v)]).vreg r lane = (BitVec.ofNat 16 v).signExtend 32 ∧
    (∀ j < 2, (g.loadRegs .b64 r [(lane, v)]).vreg (r.val + j) lane = BitVec.ofNat 32 (v / 2 ^ (32 * j))) ∧
    (∀ j < 4, (g.loadRegs .b128 r [(lane, v)]).vreg (r.val + j) lane = BitVec.ofNat 32 (v / 2 ^ (32 * j))) ∧
    (∀ (w : Width) (r' k : Nat), k < 64 → (k ≠ lane ∨ r' < r.val ∨ r.val + w.regs ≤ r') →
      (g.loadRegs w r [(lane, v)]).vreg r' k = g.vreg r' k))

/-- R376, R371, R168: where nothing is under way, STG, its release form and SST put the bytes of each active lane on their
way to its address on a plain page, in the order of the lanes; no register and no byte at home changes; a load of the core
sees each byte as the last of them that covers it gives it, and every other byte as before. -/
def Obligations.GlobalStores : Prop :=
  (∀ (w : Width) (q : Bool) (r : VReg) (b : SReg) (o : VReg) (sc : Bool) (s : State) (xs : List GLane),
    let n := widthBytes w
    let stores := fun (i : Instr) =>
      s.canIssue i → s.quiet → s.resolve s.here s.me.ctx n true (s.laneAddrs i b o (if sc then n else 1)) = .ok xs →
      s.plainHere xs → linesOf xs ≤ 256 →
      ∃ t, exec i s = .next (s.completed i t) ∧ s.restOf t ∧ t.me.v = s.me.v ∧ t.me.s = s.me.s ∧ t.me.p = s.me.p ∧
        t.me.gstat = s.me.gstat ∧
        (t.core s.here).stores = xs.map (fun x => {
          key := x.at_.key, grp := s.cur, marked := false, first := x.at_.pa / 128 % 18, va := x.va, entered := s.cycle, bytes :=
            (cellsLE 0 n (s.me.vwide r x.lane w.regs % 2 ^ (8 * n))).map Prod.snd })
    stores (.stg w q r b o sc) ∧ ((s.unitOf (.stgRel w r b o sc)).modScope < 10 → stores (.stgRel w r b o sc))) ∧
  (∀ (d a : SReg) (imm : BitVec 12) (s : State) (x : GLane), s.canIssue (.sst d a imm) → s.quiet →
    s.resolve s.here s.me.ctx 8 true [(0, (s.me.sreg a + (s.unitOf (.sst d a imm)).simm imm).toNat)] = .ok [x] →
    s.plainHere [x] → x.lane = 0 →
    ∃ t, exec (.sst d a imm) s = .next (s.completed (.sst d a imm) t) ∧ s.restOf t ∧ t.me.s = s.me.s ∧ t.me.v = s.me.v ∧
      (t.core s.here).stores = [{
        key := x.at_.key, grp := s.cur, marked := false, first := x.at_.pa / 128 % 18, va := x.va, entered := s.cycle, bytes :=
          (cellsLE 0 8 (s.me.sreg d).toNat).map Prod.snd }]) ∧
  (∀ (w : Width) (r : VReg) (b : SReg) (o : VReg) (sc : Bool),
    TrapsWhen (.stgRel w r b o sc) (fun s => 10 ≤ (s.unitOf (.stgRel w r b o sc)).modScope)
      (fun s => (s.unitOf (.stgRel w r b o sc)).operand)) ∧
  (∀ (es : List (Nat × List Byte)) (key : Nat) (bs : List Byte) (a : Nat),
    (∀ j, j < bs.length → storedByte (es ++ [(key, bs)]) (key + j) = bs[j]?) ∧
    (a < key ∨ key + bs.length ≤ a → storedByte (es ++ [(key, bs)]) a = storedByte es a))

/-- R100 to R102, R237: local addresses. A SELF address below the instance's local memory lies on the instance's own
core from its first slot on; a malformed one is 0x02, and so is one with SELF = 0 for an access that asks for SELF; where none is,
a misaligned one is 0x04, the lowest lane first; where no window is bound an access that passes acts at once.
R231, R109: an `.fb` form without privilege takes 0x03, whatever its operands. -/
def Obligations.LocalAddresses : Prop :=
  ((∀ (s : State) (core : Nat) (i : Inst) (off : Nat), off < i.spad * 4096 → off < 2 ^ 20 →
    s.localPlace core i (2 ^ 27 + off) = some (core * 2 ^ 20 + i.lmbase * 512 + off)) ∧
  (∀ (s : State) (core : Nat) (i : Inst) (a : Nat), 2 ^ 28 ≤ a → s.localPlace core i a = none) ∧
  (∀ (s : State) (core : Nat) (i : Inst) (off : Nat), i.spad * 4096 ≤ off → off < 2 ^ 20 →
    s.localPlace core i (2 ^ 27 + off) = none) ∧
  (∀ (s : State) (u : Flight) (k n : Nat) (self w : Bool) (ls : List (Nat × Nat)) (x : Nat × Nat),
    let bad := fun (y : Nat × Nat) =>
      (s.localPlace (k / 64) (s.inst (instKey k (s.grp k))) y.2).isNone || (self && decide (y.2 / 2 ^ 27 ≠ 1))
    (ls.find? bad = some x → s.resolveLocal u k n self w ls = .error (u.operand (BitVec.ofNat 64 x.2))) ∧
    (ls.find? bad = none → ls.find? (fun y => y.2 % n ≠ 0) = some x → s.resolveLocal u k n self w ls =
      .error { code := 4, taddr := BitVec.ofNat 64 x.2, tinfo := BitVec.ofNat 64 x.1 })) ∧
  (∀ (s : State) (u : Flight) (k n : Nat) (self w : Bool) (ls : List (Nat × Nat)) (c : Cause),
    s.resolveLocal u k n self w ls = .error c → s.localAccess u k n self w ls = .error (.trap c)) ∧
  (∀ (s : State) (u : Flight) (n : Nat) (self w : Bool) (ls : List (Nat × Nat)),
    (∀ y ∈ ls, 2 ^ 27 ≤ y.2 ∧ y.2 < 2 ^ 27 + s.myInst.spad * 4096 ∧ y.2 < 2 ^ 27 + 2 ^ 20 ∧ y.2 % n = 0) → s.quiet →
    s.localAccess u s.cur n self w ls = .ok (s, ls.map (fun y => ({
      lane := y.1, addr := y.2, at_ := s.here * 2 ^ 20 + s.myInst.lmbase * 512 + (y.2 - 2 ^ 27), self := true } : LLane))))) ∧
  (∀ (r : VReg) (b : SReg) (o : VReg) (sc : Bool) (s : State), ∀ i ∈ [Instr.ldlFb r b o sc, .stlFb r b o sc],
    s.groupRuns → s.me.blocked i = false → s.me.priv = false → s.me.pfx = [] → s.me.flight = [] →
    exec i s = .next (s.fault s.cur { code := 3, taddr := 0, tinfo := BitVec.ofNat 64 (i.code.getD 0) }))

/-- R106, R107, R345, R371: local loads. Where its access may act, LDL writes each lane's bytes of local memory; `.fe` and
`.fec` act only on granules that are all full, and wait else; `.fec` leaves them empty; LDL.fb, privileged, reads the 32
bits of each lane's block; SLD.l loads a scalar. No byte changes. -/
def Obligations.LocalLoads : Prop :=
  (∀ (w : Width) (r : VReg) (b : SReg) (o : VReg) (sc : Bool) (s : State) (t : State) (xs : List LLane),
    let n := widthBytes w
    let vals := fun (g : Group) => g.loadRegs w r (xs.map (fun x => (x.lane, rdLE t.lm x.at_ n)))
    let acts := fun (i : Instr) =>
      s.canIssue i ∧ s.localAccess (s.unitOf i) s.cur n false false (s.laneAddrs i b o (if sc then n else 1)) = .ok (t, xs)
    (acts (.ldl w r b o sc) → exec (.ldl w r b o sc) s = .next (s.completed (.ldl w r b o sc) (t.onMe vals))) ∧
    (acts (.ldlFe w r b o sc) → t.feWaiters = [] → (∀ g ∈ granules xs, t.isFull g = true) →
      exec (.ldlFe w r b o sc) s = .next (s.completed (.ldlFe w r b o sc) ((t.onMe vals).acquire s.cur (feScope xs)))) ∧
    (acts (.ldlFec w r b o sc) → t.feWaiters = [] → (∀ g ∈ granules xs, t.isFull g = true) →
      exec (.ldlFec w r b o sc) s = .next (s.completed (.ldlFec w r b o sc)
        (((t.onMe vals).turnFull (some (s.cur, s.me.firstWord)) false (granules xs)).acquire s.cur (feScope xs)))) ∧
    (∀ i ∈ [Instr.ldlFe w r b o sc, .ldlFec w r b o sc], acts i → (∃ g ∈ granules xs, t.isFull g = false) → ∃ v : Flight,
      v.wait = .fullEmpty ∧ exec i s = .next (s.conclude s.cur (s.unitOf i) (.wait t v)))) ∧
  (∀ (r : VReg) (b : SReg) (o : VReg) (sc : Bool) (s : State) (xs : List LLane), s.canIssue (.ldlFb r b o sc) →
    s.resolveLocal (s.unitOf (.ldlFb r b o sc)) s.cur 512 true false (s.laneAddrs (.ldlFb r b o sc) b o (if sc then 4 else 1))
      = .ok xs →
    exec (.ldlFb r b o sc) s = .next (s.completed (.ldlFb r b o sc) (s.onMe (fun g => xs.foldl (fun g x =>
      g.setV r x.lane (BitVec.ofNat 32 (bitsOf (fun k => s.isFull (x.at_ / 16 + k)) 32))) g)))) ∧
  (∀ (b : SReg) (o : VReg) (sc : Bool) (s : State) (xs : List LLane), s.canIssue (.ldlTouch b o sc) →
    s.resolveLocal (s.unitOf (.ldlTouch b o sc)) s.cur 1 false false (s.laneAddrs (.ldlTouch b o sc) b o 1) = .ok xs →
    exec (.ldlTouch b o sc) s = .next (s.completed (.ldlTouch b o sc) (s.touch (xs.map (fun x => localKey x.at_))))) ∧
  (∀ (d a : SReg) (imm : BitVec 12) (s t : State) (x : LLane), s.canIssue (.sldL d a imm) →
    s.localAccess (s.unitOf (.sldL d a imm)) s.cur 8 false false
      [(0, (s.me.sreg a + (s.unitOf (.sldL d a imm)).simm imm).toNat)] = .ok (t, [x]) →
    exec (.sldL d a imm) s = .next (s.completed (.sldL d a imm) (t.withS d (BitVec.ofNat 64 (rdLE t.lm x.at_ 8))))) ∧
  (∀ (s : State) (b : Bool) (gs : List Nat) (g : Nat), (s.setFull b gs).isFull g = (if g ∈ gs then b else s.isFull g)) ∧
  (∀ (s : State) (me : Option (Nat × Word64)) (b : Bool) (gs : List Nat), s.feWaiters = [] → s.turnFull me b gs = s.setFull b gs)

/-- R106 to R109, R165, R371, R378: local stores. STL writes each active lane's value, the highest lane last; `.full` and `.fw`
release first and leave their granules full, and `.fw` acts only on granules that are all empty; STL.fb, privileged,
writes full-empty bits; SST.l stores a scalar. The bytes outside those stored are unchanged, and so are all registers. -/
def Obligations.LocalStores : Prop :=
  (∀ (w : Width) (r : VReg) (b : SReg) (o : VReg) (sc : Bool) (s t : State) (xs : List LLane),
    let n := widthBytes w
    let acts := fun (i : Instr) =>
      s.canIssue i ∧ s.localAccess (s.unitOf i) s.cur n false true (s.laneAddrs i b o (if sc then n else 1)) = .ok (t, xs)
    let vals := fun (i : Instr) =>
      valueOf ((s.lanesOf i).map (fun k => (k, s.me.vwide r k w.regs % 2 ^ (8 * n))))
    (acts (.stl w r b o sc) →
      exec (.stl w r b o sc) s = .next (s.completed (.stl w r b o sc) (t.localStore n (vals (.stl w r b o sc)) xs))) ∧
    (∀ t', acts (.stlFull w r b o sc) → t.release s.cur (s.unitOf (.stlFull w r b o sc)) (feScope xs) = some t' →
      exec (.stlFull w r b o sc) s = .next (s.completed (.stlFull w r b o sc)
        ((t'.localStore n (vals (.stlFull w r b o sc)) xs).turnFull (some (s.cur, s.me.firstWord)) true (granules xs)))) ∧
    (∀ t', acts (.stlFw w r b o sc) → t.feWaiters = [] → (∀ g ∈ granules xs, t.isFull g = false) →
      t.release s.cur (s.unitOf (.stlFw w r b o sc)) (feScope xs) = some t' →
      exec (.stlFw w r b o sc) s = .next (s.completed (.stlFw w r b o sc)
        ((t'.localStore n (vals (.stlFw w r b o sc)) xs).turnFull (some (s.cur, s.me.firstWord)) true (granules xs))))) ∧
  (∀ (r : VReg) (b : SReg) (o : VReg) (sc : Bool) (s : State) (x : LLane), s.canIssue (.stlFb r b o sc) → s.feWaiters = [] →
    s.resolveLocal (s.unitOf (.stlFb r b o sc)) s.cur 512 true false (s.laneAddrs (.stlFb r b o sc) b o (if sc then 4 else 1))
      = .ok [x] →
    ∃ t, exec (.stlFb r b o sc) s = .next (s.completed (.stlFb r b o sc) t) ∧ t.lm = s.lm ∧ t.mem = s.mem ∧
      t.groups = s.groups ∧ ∀ g, t.isFull g = (if x.at_ / 16 ≤ g ∧ g < x.at_ / 16 + 32 then
        (s.me.vreg r x.lane).getLsbD (g - x.at_ / 16) else s.isFull g)) ∧
  (∀ (d a : SReg) (imm : BitVec 12) (s t : State) (xs : List LLane), s.canIssue (.sstL d a imm) →
    s.localAccess (s.unitOf (.sstL d a imm)) s.cur 8 false true
      [(0, (s.me.sreg a + (s.unitOf (.sstL d a imm)).simm imm).toNat)] = .ok (t, xs) →
    exec (.sstL d a imm) s = .next (s.completed (.sstL d a imm) (t.localStore 8 (fun _ => (s.me.sreg d).toNat) xs))) ∧
  (∀ (s : State) (n : Nat) (f : Nat → Nat) (xs : List LLane) (a : Nat), (∀ x ∈ xs, a < x.at_ ∨ x.at_ + n ≤ a) →
    rdByte (s.localStore n f xs).lm a = rdByte s.lm a ∧ (s.localStore n f xs).mem = s.mem ∧
    (s.localStore n f xs).groups = s.groups) ∧
  (∀ (s : State) (n : Nat) (f : Nat → Nat) (xs : List LLane) (x : LLane),
    rdLE (s.localStore n f (xs ++ [x])).lm x.at_ n = f x.lane % 256 ^ n)

/-- R309 to R312, R288: where nothing is under way, ATOM on plain pages of this module takes each active lane in turn: the
word becomes what the operation makes of it, and the lane's register gets the old value; RED does the same without the
old value; LATOM the same in local memory. Every other byte is unchanged. -/
def Obligations.Atomics : Prop :=
  (∀ (op : AOp) (d : VReg) (b : SReg) (o : VReg) (ty : ATy) (s : State) (xs : List GLane),
    let n64 := fun (i : Instr) => decide ((s.unitOf i).sat = 2)
    let lanes := xs.map (fun x => (x.lane, x.at_.key))
    let acts := fun (i : Instr) (red : Bool) =>
      s.canIssue i ∧ s.quiet ∧ s.atomChecks (s.unitOf i) s.cur red op ty (s.laneAddrs i b o 1) = .ok xs ∧ s.plainHere xs ∧
      linesOf xs ≤ 256
    (acts (.atom op d b o ty) false → ∃ t, exec (.atom op d b o ty) s = .next (s.completed (.atom op d b o ty) t) ∧
      t.mem = (atomLanes op ty (n64 (.atom op d b o ty)) (s.me.atomData ty d) lanes s.mem).1 ∧
      t.me = s.me.atomResults ty d (atomLanes op ty (n64 (.atom op d b o ty)) (s.me.atomData ty d) lanes s.mem).2 ∧
      t.lm = s.lm ∧ ∀ k, k ≠ s.cur → t.grp k = s.grp k) ∧
    (acts (.red op d b o ty) true → ∃ t, exec (.red op d b o ty) s = .next (s.completed (.red op d b o ty) t) ∧
      t.mem = (atomLanes op ty (n64 (.red op d b o ty)) (s.me.atomData ty d) lanes s.mem).1 ∧
      t.me = s.me ∧ t.lm = s.lm ∧ ∀ k, k ≠ s.cur → t.grp k = s.grp k)) ∧
  (∀ (op : AOp) (d : VReg) (b : SReg) (o : VReg) (ty : ATy) (s : State) (xs : List LLane),
    let i := Instr.latom op d b o ty
    let ls := s.laneAddrs i b o 1
    s.canIssue i → s.quiet → s.resolveLocal (s.unitOf i) s.cur (tyBytes ty) false true ls = .ok xs →
    (s.me.det = false ∨ ty ≠ .f32) →
    let r := atomLanes op ty (decide ((s.unitOf i).sat = 2)) (s.me.atomData ty d) (xs.map (fun x => (x.lane, x.at_))) s.lm
    exec i s = .next (s.completed i ({ s with lm := r.1 }.onMe (fun g => g.atomResults ty d r.2)))) ∧
  (∀ (op : AOp) (ty : ATy) (n64 : Bool) (data : Nat → Nat × Nat) (lane a : Nat) (m : Mem),
    atomLanes op ty n64 data [(lane, a)] m =
      (wrLE m a (tyBytes ty) (combineWord op ty n64 (rdLE m a (tyBytes ty)) (data lane).1 (data lane).2),
        [(lane, rdLE m a (tyBytes ty))])) ∧
  (∀ (op : AOp) (ty : ATy) (n64 : Bool) (data : Nat → Nat × Nat) (ls : List (Nat × Nat)) (m : Mem) (c : Nat),
    (∀ x ∈ ls, c < x.2 ∨ x.2 + tyBytes ty ≤ c) → rdByte (atomLanes op ty n64 data ls m).1 c = rdByte m c) ∧
  (∀ (n64 : Bool) (o d n : Nat),
    combineWord .xchg .i32 n64 o d n = d ∧ combineWord .cas .i32 n64 o d n = (if o = d then n else o) ∧
    combineWord .add .i32 n64 o d n = (o + d) % 2 ^ 32 ∧ combineWord .add .i64 n64 o d n = (o + d) % 2 ^ 64 ∧
    combineWord .and .n32 n64 o d n = o &&& d ∧ combineWord .or .n32 n64 o d n = o ||| d ∧
    combineWord .xor .n32 n64 o d n = o ^^^ d ∧ combineWord .min .n32 n64 o d n = min o d ∧
    combineWord .max .n32 n64 o d n = max o d ∧ combineWord .min .i64 true o d n = min o d ∧
    combineWord .add .f32 n64 o d n = (f32.add .rne o d).1)

/-- R141 to R145: on a deferred page RED and STG append a record to the core's log and change no byte: a RED's operation
and value, an STG's SET, each with the word's home, channel and offset in words, this module as OMOD, and the core, the stream and
the generation of that stream as its origin. -/
def Obligations.DeferredAppends : Prop :=
  let header := fun (s : State) (x : GLane) (op : Nat) (wide : Bool) =>
    let io := interleave (pteDil x.at_.leaf) x.at_.pa
    recHeader op wide io.1 (io.2 / 4) s.device
      ((s.here * 8 + s.me.stream) * 2 + (if look false (s.core s.here).gen s.me.stream then 1 else 0))
  (∀ (r : Rec) (op chan woff omod origin : Nat) (wide : Bool), op < 16 → chan < 256 → woff < 2 ^ 29 → omod < 512 → origin < 2 ^ 13 →
    r.header = recHeader op wide chan woff omod origin →
    r.op = op ∧ r.wide = wide ∧ r.chan = chan ∧ r.woff = woff ∧ r.omod = omod ∧ r.origin = origin) ∧
  (∀ (op : AOp) (d : VReg) (b : SReg) (o : VReg) (ty : ATy) (s : State) (x : GLane) (code : Nat) (wide : Bool),
    let i := Instr.red op d b o ty
    s.canIssue i → s.quiet → s.atomChecks (s.unitOf i) s.cur true op ty (s.laneAddrs i b o 1) = .ok [x] →
    x.at_.deferred = true → x.at_.home = s.device → s.device < 512 → s.here < 512 →
    redRecord (pteFxa x.at_.leaf) op ty (decide ((s.unitOf i).sat = 2)) = some (code, wide, false) →
    ∃ t, exec i s = .next (s.completed i t) ∧ s.restOf t ∧ t.me = s.me ∧
      (t.core s.here).log = (s.core s.here).log ++ [LogItem.rcd s.device
        { value := BitVec.ofNat 64 (s.me.atomData ty d x.lane).1, header := header s x code wide, graphs := [s.graphOf s.cur] }
        (s.graphOf s.cur)]) ∧
  (∀ (w : Width) (q : Bool) (r : VReg) (b : SReg) (o : VReg) (sc : Bool) (s : State) (x : GLane),
    let i := Instr.stg w q r b o sc
    let n := widthBytes w
    s.canIssue i → s.quiet → s.resolve s.here s.me.ctx n true (s.laneAddrs i b o (if sc then n else 1)) = .ok [x] →
    x.at_.deferred = true → x.at_.home = s.device → isSteward s.here = false → (n = 8 ∨ n = 4 ∧ pteFxa x.at_.leaf = false) →
    x.at_.reduce = false → s.device < 512 → s.here < 512 →
    ∃ t, exec i s = .next (s.completed i t) ∧ s.restOf t ∧ t.me = s.me ∧
      (t.core s.here).log = (s.core s.here).log ++ [LogItem.rcd s.device
        { value := BitVec.ofNat 64 (s.me.vwide r x.lane w.regs % 2 ^ (8 * n)), header := header s x 0 (n = 8),
          graphs := [s.graphOf s.cur] } (s.graphOf s.cur)]) ∧
  (∀ (op : AOp) (d : VReg) (b : SReg) (o : VReg) (ty : ATy) (s : State) (x : GLane),
    let i := Instr.atom op d b o ty
    s.canIssue i → s.me.flight = [] → s.resolve s.here s.me.ctx (tyBytes ty) true (s.laneAddrs i b o 1) = .ok [x] →
    x.at_.deferred = true → x.at_.reduce = false →
    exec i s = .next (s.fault s.cur { code := 7, taddr := BitVec.ofNat 64 x.va, tinfo := BitVec.ofNat 64 x.lane }))

/-! ## The matrix array and the generators -/

/-- R186, R193, R198, R228, R356, R357: with its checks passed and nothing under way, MMA and MMAS add to each cell of the
rows of the octets that have an active lane the K-blocks from the first, or from the one that MKRES names, to the last, in
order, where no older unit of another group is at the tile (R197); every other cell, every byte and every register but MKRES,
which becomes zero, are unchanged. R192, R194, R195: and they complete, with MKRES zero, no memory and no other register of the
group changed, where every check of R192 passes, with each operand either a scalar's place or a generator, every 2:4 block that
an MMAS reads keeps to two elements a row and a column, and no other group's instruction is at the tile. -/
def Obligations.MatrixMultiply : Prop :=
  (∀ (sparse t : Bool) (k : MKind) (c : TReg) (a b : XSrc) (n : Fin 16) (s : State) (o : Operands) (oa ob : Nat),
    let i := if sparse then Instr.mmas t k c a b n else .mma t k c a b n
    let js := s.me.octets (s.me.active s.me.pfx)
    let first := if s.me.mkres.getLsbD 4 then fld s.me.mkres.toNat 0 4 else 0
    let blocks := (List.range (n.val + 1 - first)).map (fun j => first + j)
    s.canIssue i → s.quiet → s.me.width ≤ 64 → s.matrixChecks (s.unitOf i) sparse t k c a b n js = .ok (o, oa, ob) →
    (∀ q ∈ blocks, s.badBlock o q js = none) →
    (js = [] → exec i s = .next (s.completed i (s.onMe (fun g => { g with mkres := 0 })))) ∧
    (js ≠ [] → s.tileTaken (s.unitOf i) c = false → ∃ t, exec i s = .next (s.completed i t) ∧
      t.mem = s.mem ∧ t.lm = s.lm ∧ t.bstore = s.bstore ∧ t.me = { s.me with mkres := 0 } ∧
      (∀ m q, q < 64 → t.myInst.cell c m q =
        (if m ∈ octetRows js then blocks.foldl (fun x kb => s.accBlock o x m q kb) (s.myInst.cell c m q) else s.myInst.cell c m q)) ∧
      (∀ e : TReg, e ≠ c → ∀ m q, m < 64 → q < 64 → t.myInst.cell e m q = s.myInst.cell e m q))) ∧
  (∀ (t : Bool) (k : MKind) (c : TReg) (a b : XSrc) (n : Fin 16) (s : State) (fa fb oa ob : Nat),
    let g := s.me
    let js := g.octets (g.active g.pfx)
    let sideA : Nat ⊕ Gen := match a with
      | .sca _ => .inl (s.myInst.localStart s.here + oa % 2 ^ 20)
      | .gen r => .inr (g.gen r)
    let sideB : Nat ⊕ Gen := match b with
      | .sca _ => .inl (s.here * 2 ^ 22 + ob)
      | .gen r => .inr (g.gen r)
    let o := fun (sparse : Bool) => ({
      k := k, fa := fa, fb := fb, a := sideA, b := sideB, stride := fld g.mstride.toNat 0 20, sparse := sparse, t := t } : Operands)
    let inside := fun (sparse : Bool) => ∀ q, q ≤ n.val → ∀ r ∈ (o sparse).ranges s.here oa ob q js, r.2.1 < bstoreBase →
      s.myInst.selfRange r.1 r.2.2 = true
    s.quiet → g.width ≤ 64 → c.val < s.myInst.acc → kindFmt k (fld g.mfmt.toNat 0 8) = some fa →
    kindFmt k (fld g.mfmt.toNat 8 8) = some fb →
    (∀ r, a = .sca r → oa = (g.sreg r).toNat ∧ oa / 2 ^ 20 = 128) →
    (∀ r, a = .gen r → oa = 0 ∧ k ≠ .e8bs ∧ (g.gen r).outfmt.toNat = fa) →
    (∀ r, b = .sca r → ob = (g.sreg r).toNat ∧ ob % 128 = 0 ∧ ob + (n.val + 1) * 64 * kindRow k ≤ 2 ^ 22) →
    (∀ r, b = .gen r → ob = 0 ∧ k ≠ .e8bs ∧ (g.gen r).outfmt.toNat = fb) →
    (g.mkres.getLsbD 4 = true → fld g.mkres.toNat 0 4 ≤ n.val) →
    (s.canIssue (.mma t k c a b n) → oa % 16 = 0 → inside false → s.tileTaken (s.unitOf (.mma t k c a b n)) c = false →
      ∃ u, exec (.mma t k c a b n) s = .next (s.completed (.mma t k c a b n) u) ∧ u.me = { g with mkres := 0 } ∧ u.mem = s.mem ∧
        u.lm = s.lm ∧ u.bstore = s.bstore) ∧
    (s.canIssue (.mmas t k c a b n) → oa % 2 = 0 → inside true → s.tileTaken (s.unitOf (.mmas t k c a b n)) c = false →
      (∀ q, q ≤ n.val → s.badBlock (o true) q js = none) →
      ∃ u, exec (.mmas t k c a b n) s = .next (s.completed (.mmas t k c a b n) u) ∧ u.me = { g with mkres := 0 } ∧ u.mem = s.mem ∧
        u.lm = s.lm ∧ u.bstore = s.bstore))

/-- R186, R199, R200, R350 to R352: MZERO clears, MSTA stores and MLDA loads the rows of the octets with an active lane, and
MDRAIN writes the converted rows, and with T their transpose, to local memory or, with G, as stores to plain pages; a tile that
the instance does not hold is an illegal operand. R228 in kind i8, R200: integer accumulation modulo 2^32 in four groups of 32; MDRAIN's conversions of a cell. -/
def Obligations.TileMoves : Prop :=
  ((∀ c, CompletesWhen (.mzero c) (fun s => c.val < s.myInst.acc ∧ s.tileTaken (s.unitOf (.mzero c)) c = false) (fun s =>
    s.setInst s.myInstKey (s.myInst.setCells c (s.me.activeRows.flatMap (fun m => (List.range 64).map (fun n => (m, n, 0))))))) ∧
  (∀ (c : TReg) (a : SReg) (s : State), s.canIssue (.msta c a) → s.quiet → c.val < s.myInst.acc →
    s.myInst.selfRange (s.me.sreg a).toNat (s.me.width * 256) = true → (s.me.sreg a).toNat % 16 = 0 →
    let at_ := s.myInst.localStart s.here + (s.me.sreg a).toNat % 2 ^ 20
    ∃ t, exec (.msta c a) s = .next (s.completed (.msta c a) t) ∧ t.mem = s.mem ∧ t.groups = s.groups ∧ t.insts = s.insts ∧
      (∀ m ∈ s.me.activeRows, ∀ n < 64, rdLE t.lm (at_ + 256 * m + 4 * n) 4 = (s.myInst.cell c m n).toNat) ∧
      (∀ x, (∀ m ∈ s.me.activeRows, x < at_ + 256 * m ∨ at_ + 256 * m + 256 ≤ x) → rdByte t.lm x = rdByte s.lm x)) ∧
  (∀ (c : TReg) (a : SReg) (s : State), s.canIssue (.mlda c a) → s.quiet → s.me.width ≤ 64 → c.val < s.myInst.acc →
    s.tileTaken (s.unitOf (.mlda c a)) c = false →
    s.myInst.selfRange (s.me.sreg a).toNat (s.me.width * 256) = true → (s.me.sreg a).toNat % 16 = 0 →
    let at_ := s.myInst.localStart s.here + (s.me.sreg a).toNat % 2 ^ 20
    ∃ t, exec (.mlda c a) s = .next (s.completed (.mlda c a) t) ∧ t.mem = s.mem ∧ t.lm = s.lm ∧ t.groups = s.groups ∧
      (∀ m, m < 64 → ∀ n < 64, t.myInst.cell c m n =
        (if m ∈ s.me.activeRows then BitVec.ofNat 32 (rdLE s.lm (at_ + 256 * m + 4 * n) 4) else s.myInst.cell c m n)) ∧
      (∀ e : TReg, e ≠ c → ∀ m q, m < 64 → q < 64 → t.myInst.cell e m q = s.myInst.cell e m q)) ∧
  (∀ (c : TReg) (a b : SReg) (two gl o : Bool) (s : State) (es ts : Nat),
    let i := Instr.mdrain c a b two gl o
    let ofmt := fld s.me.dfmt.toNat 0 8
    let tfmt := fld s.me.dfmt.toNat 8 8
    let oa := (s.me.sreg a).toNat
    let ta := (s.me.sreg b).toNat
    let main := s.drainOut c ofmt es oa false o
    let tr := if two = true then s.drainOut c tfmt ts ta true o else ([], [])
    let pieces := main.2 ++ tr.2
    s.canIssue i → s.quiet → c.val < s.myInst.acc → drainSize ofmt = some es → (two = true → drainSize tfmt = some ts) →
    oa % 16 = 0 → (two = true → ta % 16 = 0) →
    (gl = false → (∀ r ∈ main.1 ++ tr.1, s.myInst.selfRange r.2.1 r.2.2 = true) →
      ∃ t, exec i s = .next (s.completed i t) ∧ t.mem = s.mem ∧ t.groups = s.groups ∧ t.insts = s.insts ∧
        t.lm = pieces.foldl (fun m p => wrBytes m (p.2.mapIdx (fun j x =>
          (s.myInst.localStart s.here + p.1 % 2 ^ 20 + j, x)))) s.lm) ∧
    (∀ xs, gl = true → s.resolve s.here s.me.ctx 16 true (granulesOf (main.1 ++ tr.1)) = .ok xs → s.plainHere xs →
      ∃ t, exec i s = .next (s.completed i t) ∧ s.restOf t ∧ t.me.s = s.me.s ∧ t.me.v = s.me.v ∧ t.me.p = s.me.p ∧
        (t.core s.here).stores = (joinPieces pieces).filterMap (fun p =>
          match s.translate s.here s.me.ctx (p.1 % 2 ^ 64) 0 true false with
          | .ok pl => some {
              key := pl.key, grp := s.cur, marked := false, first := pl.pa / 128 % 18, va := p.1, entered := s.cycle, bytes := p.2 }
          | .error _ => none))) ∧
  (∀ (c : TReg) (a : SReg), ∀ i ∈ [Instr.mzero c, .msta c a, .mlda c a],
    TrapsWhen i (fun s => s.myInst.acc ≤ c.val) (fun s => (s.unitOf i).operand))) ∧
  ((∀ (cell : Word32) (ps : List (Machine.Num × Machine.Num)) (sa sb : Nat),
    accGroup .i8 cell ps sa sb = cell + BitVec.ofInt 32 ((ps.map (fun p => intOf p.1 * intOf p.2)).sum)) ∧
  (∀ (k : MKind), k ≠ .i8 → ∀ (cell : Word32) (ps : List (Machine.Num × Machine.Num)) (sa sb : Nat) (p : Machine.Num × Machine.Num), p ∈ ps →
    p.1.isNan = true → accGroup k cell ps sa sb = 0x7FC00000) ∧
  (∀ (c : Word32) (scale : Nat) (ovf : Bool), drainCell 0 scale ovf c = c.toNat ∧ drainCell 5 scale ovf c = c.toNat ∧
    drainCell 3 scale ovf c = (BitVec.ofInt 8 (max (-128) (min 127 c.toInt))).toNat ∧
    drainCell 4 scale ovf c = (max 0 (min 255 c.toInt)).toNat ∧
    drainCell 1 scale ovf c = (bf16.ofNum .rne (f32.toNum c.toNat)).1))

/-- R202 to R206, R208 to R212, R337 to R339: GSET checks and loads a generator, its seed under the salt of its scope; GGET reads it
back, the salt removed; GSEED mixes a scalar in; GEVAL writes the generator's value at each active lane's coordinates, row
and column exchanged under T. An ill-formed generator, or four scalars that pass s63, are illegal operands. The value at (r, c) is
that of the kind at R and C, times the scale, rounded once to the output format, and widened to f32; the hash is the formula of
R206, and gives its worked example (DEDUCED, unsafe: assumption log, 12). -/
def Obligations.Generators : Prop :=
  (∀ (r : GReg) (a : SReg),
    CompletesWhen (.gset r a) (fun s => a.val ≤ 60 ∧
        (genOf (s.me.sreg a) (s.me.sreg (a.val + 1)) (s.me.sreg (a.val + 2)) (s.me.sreg (a.val + 3))).good = true)
      (fun s =>
        let x := genOf (s.me.sreg a) (s.me.sreg (a.val + 1)) (s.me.sreg (a.val + 2)) (s.me.sreg (a.val + 3))
        s.onMe (fun g => g.setGen r { x with seed := s.me.sreg (a.val + 1) ^^^ s.salt s.cur x.scope.toNat })) ∧
    TrapsWhen (.gset r a) (fun s => 60 < a.val ∨
        (genOf (s.me.sreg a) (s.me.sreg (a.val + 1)) (s.me.sreg (a.val + 2)) (s.me.sreg (a.val + 3))).good = false)
      (fun s => (s.unitOf (.gset r a)).operand)) ∧
  (∀ (r : GReg) (d : SReg),
    (∀ s, s.canIssue (.gget r d) → d.val ≤ 60 → ∃ t, exec (.gget r d) s = .next (s.completed (.gget r d) t) ∧
      t.me.sreg d = BitVec.ofNat 64 ((s.me.gen r).kind.toNat + 2 ^ 4 * (s.me.gen r).outfmt.toNat
        + 2 ^ 12 * (s.me.gen r).scope.toNat + 2 ^ 16 * (s.me.gen r).param0.toNat + 2 ^ 32 * (s.me.gen r).scale.toNat) ∧
      t.me.sreg (d.val + 1) = (s.me.gen r).seed ^^^ s.salt s.cur (s.me.gen r).scope.toNat ∧
      t.me.sreg (d.val + 2) = BitVec.ofNat 64 ((s.me.gen r).row0.toNat + 2 ^ 32 * (s.me.gen r).col0.toNat) ∧
      t.me.sreg (d.val + 3) = BitVec.ofNat 64 ((s.me.gen r).param1.toNat + 2 ^ 32 * (s.me.gen r).param2.toNat) ∧
      (∀ q, q < d.val ∨ d.val + 4 ≤ q → t.me.sreg q = s.me.sreg q) ∧ t.me.v = s.me.v ∧ t.me.g = s.me.g ∧ t.mem = s.mem) ∧
    TrapsWhen (.gget r d) (fun _ => 60 < d.val) (fun s => (s.unitOf (.gget r d)).operand)) ∧
  (∀ (r : GReg) (a : SReg), Completes (.gseed r a) (fun s =>
    let x := s.me.gen r
    let salt := s.salt s.cur x.scope.toNat
    s.onMe (fun g => g.setGen r { x with seed := x.seed ^^^ salt ^^^ saltMix salt (s.me.sreg a) }))) ∧
  (∀ (g : GReg) (d a b : VReg),
    Completes (.geval g d a b false) (fun s => s.withV (.geval g d a b false) d (fun i =>
      (s.me.gen g).wide (s.me.vreg a i) (s.me.vreg b i))) ∧
    Completes (.geval g d a b true) (fun s => s.withV (.geval g d a b true) d (fun i =>
      (s.me.gen g).wide (s.me.vreg b i) (s.me.vreg a i)))) ∧
  (coordHash 1 0 0 = 0x6D523710 ∧ ∀ (r c : Word32) (seed : Word64),
    let h1 := (r * 0x9E3779B1) ^^^ (c * 0x85EBCA77) ^^^ seed.extractLsb' 0 32
    let h3 := (h1 ^^^ (h1 >>> 16)) * 0x7FEB352D
    let h5 := (h3 ^^^ (h3 >>> 15)) * 0x846CA68B
    coordHash r c seed = h5 ^^^ (h5 >>> 16) ^^^ seed.extractLsb' 32 32) ∧
  (∀ (g : Gen) (r c : Word32),
    let rr := r + g.row0
    let cc := c + g.col0
    let h := coordHash rr cc g.seed
    let sum : Int := (h.extractLsb' 0 8).toNat + (h.extractLsb' 8 8).toNat + (h.extractLsb' 16 8).toNat + (h.extractLsb' 24 8).toNat
    let on : Prop :=
      (g.param0 = 0 ∧ (cc.toNat : Int) ≤ rr.toNat + g.param2.toInt) ∨
      (g.param0 = 1 ∧ (rr.toNat : Int) ≤ cc.toNat + g.param1.toNat ∧ (cc.toNat : Int) ≤ rr.toNat + g.param2.toInt) ∨
      (g.param0 = 2 ∧ rr.toNat / g.param1.toNat = cc.toNat / g.param1.toNat) ∨ (g.param0 = 3 ∧ h.toNat < g.param1.toNat)
    let x := ((g.exact r c).mul (f32.toNum g.scale.toNat)).1
    (g.kind = 0 → g.exact r c = .fin (h.getLsbD 31) 1 0) ∧
    (g.kind = 1 → g.exact r c = .fin (decide (sum < 510)) (sum - 510).natAbs 0) ∧
    (g.kind = 2 → g.exact r c = ropeValue g.param0.toNat g.param1.toNat rr cc) ∧
    (g.kind = 3 → g.param0.toNat ≤ 3 → (on → g.exact r c = .fin false 1 0) ∧ (¬ on → g.exact r c = .fin false 0 0)) ∧
    (g.wide r c = BitVec.ofNat 32 (f32.ofNum .rne (codeNum g.outfmt.toNat (g.code r c))).1) ∧
    (∀ f : FFmt, (g.outfmt = 0 ∧ f = f32) ∨ (g.outfmt = 1 ∧ f = bf16) ∨ (g.outfmt = 2 ∧ f = f16) →
      let y := (f.ofNum .rne x).1
      (x.isNan = true → g.code r c = f.nanCode) ∧ (∀ n, x = .inf n → g.code r c = f.signed n f.maxCode) ∧
      (∀ n m e, x = .fin n m e → g.code r c = (if y % f.signBit = f.infCode then f.signed n f.maxCode
        else if y % f.signBit = 0 then f.signed (g.scale.getLsbD 31) 0 else y))) ∧
    (g.outfmt = 3 → (g.code r c) = (BitVec.ofInt 8 (toIntSat .rne (-128) 127 x).1).toNat) ∧
    (g.outfmt = 4 → (g.code r c) = (BitVec.ofInt 8 (toIntSat .rne 0 255 x).1).toNat) ∧
    (∀ f, 4 < g.outfmt.toNat → b8Of g.outfmt.toNat = some f → g.code r c = (f.ofNum .rne false x).1)) ∧
  (∀ (d base : Nat) (r c : Word32),
    let sfu := fun (op : SfuOp) (w : Nat) => (sfuLane op (BitVec.ofNat 32 w)).1.toNat
    let q := f32Quotient (2 * (c.toNat / 2)) d
    let f := sfu .exp (f32.mul .rne (q ^^^ 0x80000000) (sfu .log base)).1
    let y := twiceFraction (f32.toNum (f32.ofNum .rne ((Machine.Num.fin false r.toNat 0).mul (f32.toNum f)).1).1)
    ropeValue d base r c = f32.toNum (sfu (if c.getLsbD 0 then .sin else .cos) (f32.ofNum .rne y).1)) ∧
  (∀ (m k : Nat), twiceFraction (.fin false m (-(k : Int))) = (if k = 0 then .fin false 0 0 else .fin false (m % 2 ^ k) (1 - (k : Int))))

/-! ## Windows, crews, queues, claims and tasks -/

/-- R131 to R134, R114, R121, R392, R393, R394: where nothing else is bound and an engine is free, WSET and WSET.g bind a
window to the record that they read: ARMED, or LANDED where START covers it, the mark at START × 16. WDROP releases, and a WWAIT
that waits on the window completes; WSTAT and WMARK read; WWAIT starts an ARMED window and passes once the mark has reached what it
names, else waits. That TADDR is 0 where a WWAIT meets a STRANDED window, and that one which names a mark above the last TOTAL of an
EMPTY window completes, are the model's choices (DESIGN CHOICE, unsafe: assumption log, 13 and 47). -/
def Obligations.Windows : Prop :=
  (∀ (w : WReg) (a : SReg) (gl : Bool) (s : State) (r : WinRec),
    let i := if gl then Instr.wsetG w a else .wset w a
    let addr := (s.me.sreg a).toNat
    s.canIssue i → s.quiet → s.here < 512 → (s.core s.here).engineQueue = [] →
    (∀ x ∈ s.coreGroups s.here, x.2.flight = []) →
    (gl = false → 2 ^ 27 ≤ addr ∧ addr + 64 ≤ 2 ^ 27 + s.myInst.spad * 4096 ∧ addr + 64 ≤ 2 ^ 27 + 2 ^ 20 ∧ addr % 64 = 0 ∧
      r = winRec (rdLE s.lm (s.here * 2 ^ 20 + s.myInst.lmbase * 512 + (addr - 2 ^ 27)) 64)) →
    (gl = true → addr % 64 = 0 ∧ ∃ xs, s.resolve s.here s.me.ctx 16 false (sixteens addr 4) = .ok xs ∧
      (∀ x ∈ xs, x.at_.control = false ∧ x.at_.home = s.device) ∧
      r = winRec (joined (xs.map (fun x => (x.lane, rdLE s.mem x.at_.key 16))))) →
    r.noBstore s.here = false → s.recordCause s.here s.myInst addr (s.unitOf i).word r = none →
    ∃ t, exec i s = .next (s.completed i t) ∧
      look {} t.myInst.wins w = {
        state := if r.start * 16 = r.total then .landed else .armed, raddr := s.me.sreg a, rg := gl, mark := r.start * 16,
        total := r.total, rcd := r, freeze := none, strand := 0, bound := s.cycle, issued := s.cycle, slot := s.cur % 64, order := s.nextWin,
        lines := if r.start * 16 = r.total ∨ r.dkind ≠ 2 then [] else s.windowLines s.here s.myInst.ctx r } ∧
      (∀ v : Nat, v ≠ w.val → look {} t.myInst.wins v = look {} s.myInst.wins v) ∧
      t.mem = s.mem ∧ t.lm = s.lm ∧ t.bstore = s.bstore ∧ t.me.s = s.me.s ∧ t.me.v = s.me.v ∧ t.me.p = s.me.p) ∧
  (∀ (w : WReg) (d a : SReg),
    let win := fun (s : State) => look {} s.myInst.wins w
    CompletesWhen (.wdrop w) (fun s => (win s).state = .empty) (fun s => s) ∧
    CompletesWhen (.wdrop w) (fun s => (win s).state ≠ .empty ∧ s.windowInUse s.myInstKey w = false)
      (fun s => s.releaseWindow s.myInstKey w) ∧
    Completes (.wstat w d) (fun s => s.withS d (s.special s.cur (0x50 + w.val))) ∧
    Completes (.wmark w d) (fun s => s.withS d (s.special s.cur (0x40 + w.val))) ∧
    (∀ s : State, s.special s.cur (0x40 + w.val) = BitVec.ofNat 64 (win s).mark) ∧
    CompletesWhen (.wwait w) (fun s => (win s).state ∈ [WState.empty, .landed]) (fun s => s) ∧
    WaitsWhen (.wwait w) (fun s => (win s).state ∈ [WState.landing, .frozen]) (fun s => s)
      (fun s => { s.unitOf (.wwait w) with wait := .mark ((win s).state = .frozen) }) ∧
    WaitsWhen (.wwait w) (fun s => (win s).state = .armed)
      (fun s => s.onWin s.myInstKey w (fun x => { x with state := .landing }))
      (fun s => { s.unitOf (.wwait w) with wait := .mark false }) ∧
    TrapsWhen (.wwait w) (fun s => (win s).state = .stranded ∧ (win s).mark < (win s).total)
      (fun s => { code := 8, taddr := 0, tinfo := BitVec.ofNat 64 (w.val + 256 * (win s).strand) }) ∧
    CompletesWhen (.wwaitMark w a) (fun s => (win s).state = .empty ∨
        (win s).state ∈ [WState.landing, .frozen, .stranded, .landed] ∧ (s.me.sreg a).toNat ≤ (win s).mark ∧
        (win s).mark ≤ (win s).total) (fun s => s) ∧
    WaitsWhen (.wwaitMark w a) (fun s => (win s).state ∈ [WState.landing, .frozen] ∧ (win s).mark < (s.me.sreg a).toNat ∧
        (s.me.sreg a).toNat ≤ (win s).total) (fun s => s)
      (fun s => { s.unitOf (.wwaitMark w a) with wait := .mark ((win s).state = .frozen) }) ∧
    CompletesWhen (.wwaitMark w a) (fun s => (win s).state = .armed ∧ (s.me.sreg a).toNat ≤ (win s).mark ∧
        (win s).mark ≤ (win s).total) (fun s => s.onWin s.myInstKey w (fun x => { x with state := .landing })) ∧
    WaitsWhen (.wwaitMark w a) (fun s => (win s).state = .armed ∧ (win s).mark < (s.me.sreg a).toNat ∧
        (s.me.sreg a).toNat ≤ (win s).total) (fun s => s.onWin s.myInstKey w (fun x => { x with state := .landing }))
      (fun s => { s.unitOf (.wwaitMark w a) with wait := .mark false }) ∧
    TrapsWhen (.wwaitMark w a) (fun s => (win s).state = .stranded ∧ (win s).mark < (s.me.sreg a).toNat ∧
        (s.me.sreg a).toNat ≤ (win s).total)
      (fun s => { code := 8, taddr := 0, tinfo := BitVec.ofNat 64 (w.val + 256 * (win s).strand) }) ∧
    TrapsWhen (.wwaitMark w a) (fun s => (win s).state ≠ .empty ∧ (win s).total < (s.me.sreg a).toNat)
      (fun s => (s.unitOf (.wwaitMark w a)).operand)) ∧
  (∀ (ik n k : Nat) (s : State) (u : Flight),
    let here := fun (x : Nat × Group) => x.2.live && decide (instKey x.1 x.2 = ik)
    let t := s.onWin ik n (fun x => { x with state := .empty, lines := [], freeze := none })
    (∀ (a : SReg) (w : WReg), (u.instr = .wwait w ∨ u.instr = .wwaitMark w a) → (u.awaits n = true ↔ u.done = false ∧ w.val = n)) ∧
    ((∀ x ∈ s.groups, here x = true → ∀ v ∈ x.2.flight, v.awaits n = false) → s.releaseWindow ik n = t) ∧
    (s.groups.filter here = [(k, s.grp k)] → (s.grp k).flight = [u] → u.awaits n = true →
      s.releaseWindow ik n = t.finishes k u ∧ ((s.releaseWindow ik n).grp k).flight = []))

/-- R135, R136, R380, R381: the TX instructions on a barrier of the instance: TXINIT starts phase 0 with its
count, and on a well-formed one TXARRIVE takes one arrival off, TXEXPECT adds sectors, each a release; a phase whose arrivals and sectors are both
gone closes, and the next has the initial count. TXWAIT passes when the phase is not the one it names. That TXINIT completes over a
barrier whose reserved bits are set is the model's reading (DEDUCED, unsafe: assumption log, 28). -/
def Obligations.TransactionBarriers : Prop :=
  (∀ (a b : SReg) (s t : State) (x : LLane) (i : Instr),
    let v := rdLE t.lm x.at_ 16
    let n := (s.me.sreg b).toNat
    s.canIssue i → s.myInst.holdsLocal (s.me.sreg a).toNat 16 = true →
    s.localAccess (s.unitOf i) s.cur 16 true true [(0, (s.me.sreg a).toNat)] = .ok (t, [x]) →
    (i = .txinit a b → 0 < n → n < 2 ^ 16 →
      exec i s = .next (s.completed i (t.setBarrier x.at_ (n * 2 ^ 16 + n * 2 ^ 32)))) ∧
    (∀ t', i = .txarrive a → barBad v = false → 0 < barArrv v → t.release s.cur (s.unitOf i) 4 = some t' →
      exec i s = .next (s.completed i (t'.setBarrier x.at_ (barrierWord (barPhase v) (barInit v) (barArrv v - 1) (barSect v))))) ∧
    (∀ t', i = .txexpect a b → barBad v = false → 0 < n → n < 2 ^ 31 → t.release s.cur (s.unitOf i) 4 = some t' →
      exec i s = .next (s.completed i (t'.setBarrier x.at_ (barrierWord (barPhase v) (barInit v) (barArrv v) (barSect v + n)))))) ∧
  (∀ (a b : SReg) (s t : State) (x : LLane),
    let i := Instr.txwait a b
    s.canIssue i → s.myInst.holdsLocal (s.me.sreg a).toNat 16 = true →
    s.localAccess (s.unitOf i) s.cur 16 true true [(0, (s.me.sreg a).toNat)] = .ok (t, [x]) →
    barBad (rdLE t.lm x.at_ 16) = false →
    (barPhase (rdLE t.lm x.at_ 16) ≠ (s.me.sreg b).toNat % 16 → exec i s = .next (s.completed i t)) ∧
    (barPhase (rdLE t.lm x.at_ 16) = (s.me.sreg b).toNat % 16 → ∃ v : Flight, v.wait = .tx ∧
      exec i s = .next (s.conclude s.cur (s.unitOf i) (.wait t v)))) ∧
  (∀ (p i n k : Nat), p < 16 → i < 2 ^ 16 → n < 2 ^ 16 → k < 2 ^ 32 → ¬(n = 0 ∧ k = 0) →
    let v := barrierWord p i n k
    barPhase v = p ∧ barInit v = i ∧ barArrv v = n ∧ barSect v = k ∧ barBad v = false) ∧
  (∀ (p i : Nat), p < 16 → i < 2 ^ 16 →
    let v := barrierWord p i 0 0
    barPhase v = (p + 1) % 16 ∧ barInit v = i ∧ barArrv v = i ∧ barSect v = 0 ∧ barBad v = false) ∧
  (∀ (s : State) (at_ v : Nat), (s.setBarrier at_ v).lm = wrLE s.lm at_ 16 v ∧ (s.setBarrier at_ v).mem = s.mem ∧
    (s.setBarrier at_ v).insts = s.insts) ∧
  (∀ (a b : SReg), TrapsWhen (.txinit a b) (fun s => s.me.sreg b = 0 ∨ 2 ^ 16 ≤ (s.me.sreg b).toNat)
    (fun s => (s.unitOf (.txinit a b)).operand)) ∧
  (∀ (a b : SReg), ∀ i ∈ [Instr.txarrive a, .txwait a b],
    TrapsWhen i (fun s => s.myInst.holdsLocal (s.me.sreg a).toNat 16 = false) (fun s => (s.unitOf i).operand (s.me.sreg a))) ∧
  (∀ (i : Inst) (a : Nat), i.holdsLocal a 16 = true ↔ 2 ^ 27 ≤ a ∧ a < 2 ^ 27 + 2 ^ 20 ∧ a - 2 ^ 27 + 16 ≤ i.spad * 4096)

/-- R37 to R40, R319, R320, R340, R347: JOIN makes a crew in a free slot or enters the crew of its tag, a member already in a crew
is an illegal operand; CBAR records its arrival and waits, and CBARA records it and goes on; the arrival that is the last of the
party closes the phase at the end of its cycle; LEAVE leaves. That a new crew takes the lowest free slot is the model's choice
(DESIGN CHOICE, unsafe: assumption log, 7). -/
def Obligations.Crews : Prop :=
  (∀ (a : SReg) (p : Fin 8) (nb : Bool) (s : State),
    let i := if nb then Instr.joinNb a p else .join a
    let tag := (s.me.sreg a).toNat % 2 ^ 16
    s.canIssue i →
    (∀ slot, s.me.inCrew = false → (s.core s.here).crewOf tag = none → (s.core s.here).freeSlot = some slot →
      (s.core s.here).crews.length + s.joinsAhead s.cur (s.unitOf i) < 16 →
      ∃ t, exec i s = .next (s.completed i t) ∧ t.me.crew = crewWord slot 0 tag ∧
        find? (t.core s.here).crews slot =
          some { tag := tag, born := s.cycle, phase := 0, members := [s.cur], party := [s.cur], arrived := [] } ∧
        (∀ q, q ≠ slot → find? (t.core s.here).crews q = find? (s.core s.here).crews q) ∧
        (nb = true → t.me.preg p = s.me.lanesMask) ∧ t.mem = s.mem ∧ t.lm = s.lm ∧ t.me.s = s.me.s ∧ t.me.v = s.me.v) ∧
    (∀ slot c, s.me.inCrew = false → (s.core s.here).crewOf tag = some (slot, c) → c.born < s.cycle →
      ∃ t, exec i s = .next (s.completed i t) ∧
        (if c.closed = some (s.cycle, c.phase - 1) then t.me.crew = crewWord slot c.phase tag ∧
          find? (t.core s.here).crews slot = some { c with members := c.members ++ [s.cur], party := c.party ++ [s.cur] }
        else t.me.crew = crewWord slot (c.phase + 1) tag ∧
          find? (t.core s.here).crews slot = some { c with members := c.members ++ [s.cur] }) ∧
        (nb = true → t.me.preg p = s.me.lanesMask) ∧ t.mem = s.mem ∧ t.lm = s.lm ∧ t.me.s = s.me.s ∧ t.me.v = s.me.v) ∧
    (s.me.inCrew = false → (s.core s.here).crewOf tag = none → (s.core s.here).freeSlot = none →
      (nb = true → exec i s = .next (s.completed i (s.onMe (fun g => g.setP p 0)))) ∧
      (nb = false → exec i s = .next (s.conclude s.cur (s.unitOf i) (.wait s { s.unitOf i with wait := .join }))))) ∧
  (∀ (a : SReg) (p : Fin 8), ∀ i ∈ [Instr.join a, .joinNb a p],
    TrapsWhen i (fun s => s.me.inCrew = true) (fun s => (s.unitOf i).operand)) ∧
  (∀ (s t : State), s.canIssue .leave → s.release s.cur (s.unitOf .leave) s.me.crewScope = some t →
    ∃ t', exec .leave s = .next (s.completed .leave t') ∧ (s.me.inCrew = true → t'.me.crew = 0) ∧
      (s.me.inCrew = false → t' = t) ∧ t'.mem = s.mem ∧ t'.lm = s.lm ∧ t'.me.s = s.me.s ∧ t'.me.v = s.me.v) ∧
  (∀ (s t : State) (c : Crew), ∀ i ∈ [Instr.cbar, .cbara], s.canIssue i → s.me.inCrew = true → s.me.heldCbar = none →
    find? (s.core s.here).crews s.me.crewSlot = some c → c.arrivalPhase s.me = c.phase → c.phase ≠ c.openIn s.cycle + 2 → s.cur ∈ c.party → c.members ≠ [] →
    s.release s.cur (s.unitOf i) s.me.crewScope = some t →
    let d := { c with arrived := c.arrived ++ [(s.cur, c.phase)] }
    (∃ t', exec i s = .next (if i = .cbara then s.completed i t'
        else s.conclude s.cur (s.unitOf i) (.wait t' { s.unitOf i with wait := .crew, arrived := some c.phase })) ∧
      t'.me.crew = crewWord s.me.crewSlot (c.phase + 1) s.me.crewTag ∧
      find? (t'.core s.here).crews s.me.crewSlot = some d ∧ t'.mem = s.mem ∧ t'.lm = s.lm ∧ t'.me.s = s.me.s) ∧
    (c.phase < (d.settleIn s.cycle).phase ↔ ∀ k ∈ c.party, k ≠ s.cur → (k, c.phase) ∈ c.arrived)) ∧
  (∀ (s : State) (core slot dt : Nat) (c : Crew), 0 < dt → find? (s.core core).crews slot = some c →
    find? ((s.tick dt).core core).crews slot = some (c.settleIn s.cycle)) ∧
  (∀ (s t : State), ∀ i ∈ [Instr.cbar, .cbara], s.canIssue i → s.me.inCrew = false → s.release s.cur (s.unitOf i) 1 = some t →
    exec i s = .next (s.completed i t))

/-- R55 to R57, R364, R365: QPUSH appends its scalar to the ring and raises the tail, a release; QPOP takes the oldest item
and raises the head, an acquire; a full or an empty queue makes them wait, and their non-blocking forms answer false. An older
waiter on the queue that can act acts first. -/
def Obligations.Queues : Prop :=
  ∀ (q : Fin 64) (p : Fin 8) (r : SReg) (nb : Bool) (s : State) (base : Nat),
    let cfg := look 0 (s.core s.here).qcfg q
    let push := if nb then Instr.qpushNb r q p else .qpush r q
    let pop := if nb then Instr.qpopNb r q p else .qpop r q
    let told := fun (t : State) (b : Bool) => if nb then t.onMe (fun g => g.setPAll p b) else t
    (∀ t t', s.canIssue push → s.ring365 s.here q (s.unitOf push) = .ok base → s.release s.cur (s.unitOf push) 4 = some t →
      s.queueAhead s.cur q (s.unitOf push) = [] → s.sramBad = [] → qCount cfg < 2 ^ qLog cfg →
      t.itemAccess (base + 8 * (qTail cfg % 2 ^ qLog cfg)) = .ok t' →
      exec push s = .next (s.completed push (told (({ t' with
          lm := wrLE t'.lm (base + 8 * (qTail cfg % 2 ^ qLog cfg)) 8 (s.me.sreg r).toNat } : State).setCore s.here
        { t'.core s.here with qcfg := Sys2Proof.Machine.put (t'.core s.here).qcfg q (qWord cfg (qTail cfg + 1) (qHead cfg)) }) true))) ∧
    (∀ t', s.canIssue pop → s.ring365 s.here q (s.unitOf pop) = .ok base → s.queueAhead s.cur q (s.unitOf pop) = [] →
      s.sramBad = [] → 0 < qCount cfg → s.itemAccess (base + 8 * (qHead cfg % 2 ^ qLog cfg)) = .ok t' →
      exec pop s = .next (s.completed pop (told ((t'.setCore s.here
        { t'.core s.here with qcfg := Sys2Proof.Machine.put (t'.core s.here).qcfg q (qWord cfg (qTail cfg) (qHead cfg + 1)) }).withS r
          (BitVec.ofNat 64 (rdLE t'.lm (base + 8 * (qHead cfg % 2 ^ qLog cfg)) 8))) true))) ∧
    (∀ t, s.canIssue push → s.ring365 s.here q (s.unitOf push) = .ok base → s.release s.cur (s.unitOf push) 4 = some t →
      s.queueAhead s.cur q (s.unitOf push) = [] → 2 ^ qLog cfg ≤ qCount cfg → exec push s = .next (if nb then s.completed push (t.onMe (fun g => g.setPAll p false))
        else s.conclude s.cur (s.unitOf push) (.wait t { s.unitOf push with wait := .queue }))) ∧
    (s.canIssue pop → s.ring365 s.here q (s.unitOf pop) = .ok base → s.queueAhead s.cur q (s.unitOf pop) = [] → qCount cfg = 0 →
      exec pop s = .next (if nb then s.completed pop (s.onMe (fun g => g.setPAll p false))
        else s.conclude s.cur (s.unitOf pop) (.wait s { s.unitOf pop with wait := .queue }))) ∧
    (∀ i ∈ [push, pop], 16 ≤ q.val ∨ qLog cfg = 0 → s.canIssue i → s.queueAhead s.cur q (s.unitOf i) = [] →
      exec i s = .next (if s.me.flight.isEmpty then s.fault s.cur (s.unitOf i).operand else s)) ∧
    (∀ (k : Nat) (v : Flight), s.canIssue pop → s.queueAhead s.cur q (s.unitOf pop) = [(k, v)] →
      exec pop s = .next (s.conclude s.cur (s.unitOf pop) (
        let t := s.queueTurn q (k, v)
        if t.me.live && t.me.status = .running && t.me.priv = s.me.priv
        then queueOnce q none (some r) (if nb then some p else none) (s.unitOf pop) t else .left t))) ∧
    (∀ (k : Nat) (v : Flight) (d : SReg) (t' : State), v.instr = .qpop d q → coreOf k = s.here → k ≠ s.cur →
      (s.grp k).incomplete.find? (fun x => x.first = v.first) = some v → ({ s with cur := k } : State).ring365 s.here q v = .ok base →
      s.sramBad = [] → 0 < qCount cfg →
      ({ s with cur := k } : State).itemAccess (base + 8 * (qHead cfg % 2 ^ qLog cfg)) = .ok t' →
      let t := s.queueTurn q (k, v)
      look 0 (t.core s.here).qcfg q = qWord cfg (qTail cfg) (qHead cfg + 1) ∧
      (t.grp k).sreg d = BitVec.ofNat 64 (rdLE s.lm (base + 8 * (qHead cfg % 2 ^ qLog cfg)) 8) ∧ t.me = s.me ∧ t.cur = s.cur) ∧
    (∀ (w : Word64) (tail head : Nat), tail < 2 ^ 16 → head < 2 ^ 16 →
      qTail (qWord w tail head) = tail ∧ qHead (qWord w tail head) = head ∧ qLog (qWord w tail head) = qLog w ∧
      qBase (qWord w tail head) = qBase w ∧ qCount (qWord w tail tail) = 0)

/-- R52 to R54, R97, R387: a claim that fits, with none ahead of it, takes its blocks, which read zero, and the courses
they need; one that does not fit waits in the core's queue, or answers false. VGIVE gives blocks back, and waiting claims
that then fit are granted, oldest first. -/
def Obligations.RegisterClaims : Prop :=
  (∀ (n : Fin 64) (p : Fin 8) (nb : Bool) (s : State),
    let i := if nb then Instr.vclaimNb n p else .vclaim n
    let need := n.val * s.me.width / 16
    s.canIssue i → 0 < n.val → n.val ≤ 15 → s.me.blocks + n.val ≤ 16 → (s.core s.here).claims = [] →
    (need ≤ (s.core s.here).free → ∃ t, exec i s = .next (s.completed i t) ∧ t.me.blocks = s.me.blocks + n.val ∧
      (∀ r lane, lane < 64 → t.me.vreg r lane =
        (if 8 * s.me.blocks ≤ r ∧ r < 8 * (s.me.blocks + n.val) then 0 else s.me.vreg r lane)) ∧
      (t.core s.here).used = (s.core s.here).used + need ∧ (s.inst s.myInstKey).held + need = (t.inst s.myInstKey).held ∧
      (nb = true → t.me.preg p = s.me.lanesMask) ∧ t.me.s = s.me.s ∧ t.mem = s.mem ∧ t.lm = s.lm) ∧
    ((s.core s.here).free < need → (nb = true → exec i s = .next (s.completed i (s.onMe (fun g => g.setP p 0)))) ∧
      (nb = false → exec i s = .next (s.conclude s.cur (s.unitOf i) (.wait
        (s.setCore s.here { s.core s.here with claims := [{ grp := s.cur, n := n }] }) { s.unitOf i with wait := .claim }))))) ∧
  (∀ (n : Fin 64) (s : State), s.canIssue (.vgive n) → 0 < n.val → n.val ≤ 15 → n.val < s.me.blocks → (s.core s.here).claims = [] →
    let freed := n.val * s.me.width / 16
    ∃ t, exec (.vgive n) s = .next (s.completed (.vgive n) t) ∧ t.me.blocks = s.me.blocks - n.val ∧
      (∀ r lane, lane < 64 → t.me.vreg r lane =
        (if 8 * (s.me.blocks - n.val) ≤ r ∧ r < 8 * s.me.blocks then 0 else s.me.vreg r lane)) ∧
      (t.core s.here).used = (s.core s.here).used - freed ∧ (t.inst s.myInstKey).held = (s.inst s.myInstKey).held - freed ∧
      t.me.s = s.me.s ∧ t.mem = s.mem ∧ t.lm = s.lm) ∧
  (∀ (n : Fin 64) (p : Fin 8), ∀ i ∈ [Instr.vclaim n, .vclaimNb n p],
    TrapsWhen i (fun s => n.val = 0 ∨ 15 < n.val ∨ 16 < s.me.blocks + n.val) (fun s => (s.unitOf i).operand)) ∧
  (∀ (n : Fin 64), TrapsWhen (.vgive n) (fun s => n.val = 0 ∨ 15 < n.val ∨ s.me.blocks ≤ n.val)
    (fun s => (s.unitOf (.vgive n)).operand)) ∧
  (∀ (core : Nat) (c : Claim) (s : State), (s.core core).claims = [c] → coreOf c.grp = core →
    let need := c.n * (s.grp c.grp).width / 16
    (need ≤ (s.core core).free → ∃ t, exec (.claimGrant core) s = .next t ∧ (t.core core).claims = [] ∧
      (t.core core).used = (s.core core).used + need ∧ (t.grp c.grp).blocks = (s.grp c.grp).blocks + c.n ∧
      (∀ u, (s.grp c.grp).flight = [u] → u.wait = .claim → u.done = false → (t.grp c.grp).flight = []) ∧
      (∀ k, k ≠ c.grp → t.grp k = s.grp k) ∧ t.mem = s.mem ∧ t.lm = s.lm) ∧
    ((s.core core).free < need → exec (.claimGrant core) s = .next s))

/-- R47, R48, R81, R372: where nothing is under way and a pool entry is free, SPAWN makes a set from the template that it
reads, writes the set's handle and changes no other register; a set with DEP = 0 is ready at once. R49, R50, R325, R326:
EXIT of a group that is not its instance's last frees its slot; the last one frees the instance and counts its end; with a
handle, one count of the named set goes, and a set that comes to zero is ready. That sets are numbered in the order of their
creation, and that the handle is handleOf of the number, are the model's choice (DESIGN CHOICE, unsafe: assumption log, 7). An EXIT
with a handle of an instance's last group, and inheritance (R51), are not stated here. -/
def Obligations.Tasks : Prop :=
  (∀ (d a b : SReg) (s : State) (xs : List GLane),
    let i := Instr.spawn d a b
    let addr := (s.me.sreg a).toNat
    let v := joined (xs.map (fun x => (x.lane, rdLE s.mem x.at_.key 16)))
    s.canIssue i → s.quiet → addr % 128 = 0 → s.resolve s.here s.me.ctx 16 false (sixteens addr 8) = .ok xs →
    (∀ x ∈ xs, x.at_.control = false ∧ x.at_.home = s.device) → templateBad v (isSteward s.here) = false →
    0 < s.poolSpace (poolOf s.here) →
    ∃ t x, exec i s = .next (s.completed i t) ∧ t.me.sreg d = handleOf s.nextSet ∧ find? t.sets s.nextSet = some x ∧
      x.entry = (templateSet v).entry ∧ x.part = (templateSet v).part ∧ x.flags = (templateSet v).flags ∧
      x.count = (templateSet v).count ∧ x.counter = (templateSet v).counter ∧ x.winp = (templateSet v).winp ∧
      x.argp = s.me.sreg b ∧ x.ctx = s.me.ctx ∧ x.graph = s.graphOf s.cur ∧ x.parent = some s.here ∧
      x.pool = poolOf s.here ∧ x.spilled = false ∧ x.ready = (if x.counter = 0 then some s.cycle else none) ∧
      t.nextSet = s.nextSet + 1 ∧ (∀ h, h ≠ s.nextSet → find? t.sets h = find? s.sets h) ∧
      (∀ r : SReg, r ≠ d → t.me.sreg r = s.me.sreg r) ∧ t.me.v = s.me.v ∧ t.mem = s.mem ∧ t.lm = s.lm ∧ t.insts = s.insts) ∧
  (∀ (d a b : SReg), TrapsWhen (.spawn d a b) (fun s => (s.me.sreg a).toNat % 128 ≠ 0)
    (fun s => { code := 4, taddr := s.me.sreg a, tinfo := 0 })) ∧
  (∀ (a : SReg) (hand : Bool) (s : State) (n : Nat) (x : TaskSet),
    let i := if hand then Instr.exitH a else .exit
    let inst := s.myInst
    s.canIssue i → s.quiet → s.me.inCrew = false → s.me.reserved = none → s.me.susp = false → (s.core s.here).claims = [] →
    inst.exited.length + 1 < inst.groups →
    (hand = true → s.setOf (s.me.sreg a) = some (n, x) ∧ x.graph = s.graphOf s.cur ∧ x.reserved < x.counter) →
    ∃ t, exec i s = .next t ∧ find? t.groups s.cur = none ∧ (t.inst s.myInstKey).exited = inst.exited ++ [s.me.gidx] ∧
      (t.inst s.myInstKey).live = inst.live ∧ (t.core s.here).used = (s.core s.here).used - s.me.blocks * s.me.width / 16 ∧
      t.mem = s.mem ∧ t.lm = s.lm ∧ (hand = false → t.sets = s.sets) ∧
      (hand = true → ∃ y, find? t.sets n = some y ∧ y.counter = x.counter - 1 ∧ y.reserved = x.reserved ∧
        (x.counter = 1 → y.ready = some s.cycle) ∧ (1 < x.counter → y.ready = x.ready))) ∧
  (∀ (s : State) (x : TaskSet),
    let inst := s.myInst
    s.canIssue .exit → s.quiet → s.me.inCrew = false → s.me.reserved = none → s.me.susp = false → (s.core s.here).claims = [] →
    inst.exited.length + 1 = inst.groups → inst.suspended = [] → find? s.sets inst.set = some x →
    s.me.blocks * s.me.width / 16 ≤ inst.held → inst.held ≤ (s.core s.here).used →
    ∃ t, exec .exit s = .next t ∧ find? t.groups s.cur = none ∧ find? t.insts s.myInstKey = none ∧
      find? t.sets inst.set = some { x with ended := x.ended + 1 } ∧
      (t.core s.here).used = (s.core s.here).used - inst.held ∧ t.mem = s.mem ∧ t.lm = s.lm) ∧
  (∀ (a : SReg), TrapsWhen (.exitH a) (fun s => s.me.susp = true ∨ s.setOf (s.me.sreg a) = none ∧ s.me.reserved = none)
    (fun s => (s.unitOf (.exitH a)).operand))

/-- R150 to R152, R322, R145: a COMMIT whose streams hold no record completes at once, a release at its scope, and gives each
stream that it covers, and no other, a new generation; one whose stream has a record in the core's log places its marker behind it
and waits; on a steward core COMMIT is the release alone. R94, R95, R391: WAITX completes with the word that
it reads where that differs from its scalar; where it does not, the group waits with a watch entry. -/
def Obligations.CommitAndWaitx : Prop :=
  (∀ (sc : Fin 16) (s : State), s.canIssue (.commit sc) → s.quiet → s.noRecords → 0 < sc.val → sc.val < 10 →
    isSteward s.here = false →
    ∃ t, exec (.commit sc) s = .next (s.completed (.commit sc) t) ∧ t.mem = s.mem ∧ t.lm = s.lm ∧ t.me.s = s.me.s ∧
      t.me.v = s.me.v ∧ t.commits = [] ∧ ∀ c i, i < 8 → look false (t.core c).gen i =
        (if c * 8 + i ∈ s.streamsOf s.cur sc then !(look false (s.core c).gen i) else look false (s.core c).gen i)) ∧
  (∀ (s : State) (k st : Nat),
    (∀ sc ∈ [1, 2, 3], (st ∈ s.streamsOf k sc ↔ st = coreOf k * 8 + (s.grp k).stream)) ∧
    (st ∈ s.streamsOf k 4 ↔ st / 8 = coreOf k) ∧ (st ∈ s.streamsOf k 5 ↔ st / 8 / 128 = coreOf k / 128) ∧
    (∀ sc ∈ [6, 8, 9], (st ∈ s.streamsOf k sc ↔ st < 2048)) ∧
    ((∀ c, (s.core c).prevGraphs = [] ∧ (s.core c).prevOverflow = []) → (st ∈ s.streamsOf k 7 ↔
      st < 2048 ∧ (look false (s.core (st / 8)).streamOverflow (st % 8) = true ∨
        s.graphOf k ∈ look [] (s.core (st / 8)).streamGraphs (st % 8))))) ∧
  (∀ (sc : Fin 16) (s : State) (r : Rec) (g : Nat),
    let st := s.here * 8 + s.me.stream
    s.canIssue (.commit sc) → 0 < sc.val → sc.val < 4 → isSteward s.here = false → s.commits = [] →
    s.farCommits = [] → s.units = [] → (s.core s.here).log = [.rcd s.device r g] → r.omod = s.device → r.origin / 2 = st →
    ∃ t v c, exec (.commit sc) s = .next (s.conclude s.cur (s.unitOf (.commit sc)) (.wait t v)) ∧ v.wait = .commit ∧
      v.commit = some s.nextCommit ∧ t.commits = [(s.nextCommit, c)] ∧ c.scope = sc ∧ c.pending = [st] ∧ c.todo = [] ∧
      r.origin ∈ c.origins ∧ (t.core s.here).log = [.rcd s.device r g, .marker s.me.stream s.nextCommit] ∧
      look false (t.core s.here).gen s.me.stream = !(look false (s.core s.here).gen s.me.stream) ∧ t.mem = s.mem ∧ t.lm = s.lm ∧
      t.me = s.me) ∧
  (∀ (sc : Fin 16) (s t : State), s.canIssue (.commit sc) → 0 < sc.val → sc.val < 10 → isSteward s.here = true →
    s.release s.cur (s.unitOf (.commit sc)) sc = some t → exec (.commit sc) s = .next (s.completed (.commit sc) t)) ∧
  (∀ (sc : Fin 16), TrapsWhen (.commit sc) (fun _ => sc.val = 0 ∨ 10 ≤ sc.val) (fun s => (s.unitOf (.commit sc)).operand)) ∧
  (∀ (d a b : SReg) (s : State) (x : GLane),
    let i := Instr.waitx d a b
    let v := BitVec.ofNat 64 (rdLE s.mem x.at_.key 8)
    s.canIssue i → s.quiet → 6 ≤ (s.unitOf i).modScope → (s.unitOf i).modScope ≤ 9 →
    s.resolve s.here s.me.ctx 8 false [(0, (s.me.sreg a).toNat)] = .ok [x] → x.at_.control = false → x.at_.home = s.device →
    x.lane = 0 →
    (v ≠ s.me.sreg b → ∃ t, exec i s = .next (s.completed i t) ∧ s.restOf t ∧ t.me = s.me.setS d v) ∧
    (v = s.me.sreg b → (s.core s.here).watch = [] → ∃ t w, exec i s = .next (s.conclude s.cur (s.unitOf i) (.wait t w)) ∧
      w.wait = .waitx ∧ s.restOf t ∧ t.me = s.me ∧ (t.core s.here).watch = [{ grp := s.cur, line := x.at_.key / 128 }])) ∧
  (∀ (d a b : SReg), TrapsWhen (.waitx d a b)
    (fun s => (s.unitOf (.waitx d a b)).modScope < 6 ∨ 9 < (s.unitOf (.waitx d a b)).modScope)
    (fun s => (s.unitOf (.waitx d a b)).operand))

/-- R27, R44, R101, R201: what a group and its instance's tiles hold at placement: every register zero, p0 to p14 zero, each
generator in its placement state, every tile zero, GSTAT zero, EM all width lanes, the divergence stack empty. INSTANCE_PLACEMENT
of a set without window records makes such groups, running at the entry of the template; the instance has its demand of courses,
and its local memory reads zero. That it takes the lowest free slots and the lowest run of local memory is the model's choice
(DESIGN CHOICE, unsafe: assumption log, 7). -/
def Obligations.PlacedState : Prop :=
  (∀ (s : State) (t : TaskSet) (tslot gidx : Nat), fld t.part.toNat 4 2 ≠ 3 →
    let g := s.newGroup t tslot gidx
    (∀ r, g.sreg r = 0) ∧ (∀ r lane, g.vreg r lane = 0) ∧ (∀ p, p ≠ 15 → g.preg p = 0) ∧
    (∀ r, g.gen r = {
      param2 := 0, param1 := 0, col0 := 0, row0 := 0, seed := 0, scale := 0, param0 := 0, scope := 9, outfmt := 0, kind := 0 }) ∧
    g.gstat = { iv := false, dz := false, ovf := false, uf := false, nx := false } ∧
    (∀ k, g.em.getLsbD k = decide (k < g.width)) ∧ g.depth = 0) ∧
  (∀ (t : TaskSet) (set idx serial base : Nat) (c : TReg) (m n : Nat), (t.newInst set idx serial base).cell c m n = 0) ∧
  (∀ (s : State) (core set idx slot base j : Nat) (x : TaskSet),
    (s.core core).answer = some (set, idx) → find? s.sets set = some x → s.fits core x = true → s.resv = [] →
    flagNwin x.flags = 0 → s.freeTslot core = some slot → s.freeRun core (8 * partSpad x.part) = some base →
    (s.freeSlots core).head? = some j →
    ∃ t, exec (.instancePlacement core set idx) s = .next t ∧
      t.grp (core * 64 + j) = { s.newGroup x slot 0 with status := .running } ∧
      (t.inst (core * 16 + slot)).live = true ∧ (t.inst (core * 16 + slot)).taskix = idx ∧
      (t.inst (core * 16 + slot)).argp = x.argp ∧ (t.core core).used = (s.core core).used + demand x.part ∧
      (t.core core).answer = none ∧ t.mem = s.mem ∧
      (∀ a, core * 2 ^ 20 + base * 512 ≤ a → a < core * 2 ^ 20 + base * 512 + partSpad x.part * 4096 → rdByte t.lm a = 0) ∧
      (∀ a, a < core * 2 ^ 20 + base * 512 ∨ core * 2 ^ 20 + base * 512 + partSpad x.part * 4096 ≤ a →
        rdByte t.lm a = rdByte s.lm a))

/-! ## Events of the other agents -/

/-- R54, R85, R95, R96, R107, R120, R311, R320, R340, R343, R364: the events that end waits test again the units that wait
for them: with none waiting they change nothing, and one whose wait is over completes. A phase's end is that of a cycle. R95: the
notice that WAITX's watch has been given up frees its entry, and one for a WAITX that waits has its word read again. R174, R179: a
load or an atomic of another module acts at its home here once, and its answer is what it read. What another module's request
carries is the model's choice (DESIGN CHOICE, unsafe: assumption log, 3). R132: a WSET that waits for an engine goes on with the
record that it has read. -/
def Obligations.WaitEvents : Prop :=
  (∀ (s : State) (k : Nat) (u : Flight) (core g q : Nat),
    let again := fun (ev : Instr) (p : Nat → Flight → Bool) =>
      (s.waiters p = [] → exec ev s = .next s) ∧ (s.onlyWaiter p k u → exec ev s = .next (s.retry k u))
    again (.fullEmptyWake core) (fun _ v => v.wait = .fullEmpty && v.granules.any (fun a => a / 2 ^ 16 = core)) ∧
    again (.markWaitRelease g) (fun j v => j = g && (v.wait = .mark true || v.wait = .mark false)) ∧
    again (.loadDataReturn (.own g)) (fun j v => j = g && v.wait = .home) ∧
    again (.queueWake core q) (fun j v => coreOf j = core && v.wait = .queue && (queueOf v.instr).map Prod.fst = some q) ∧
    again (.atomicAccept (.own g)) (fun j v => j = g && v.wait = .accept) ∧
    again (.crewSlotFree core) (fun j v => coreOf j = core && v.wait = .join) ∧
    (s.watches g = true → (∀ w ∈ (s.core (coreOf g)).watch, w.grp = g → w.leaving = false) → let t : State := { s with cur := g }
      (s.waiters (fun j v => j = g && v.wait = .waitx) = [] → exec (.watchNotice g) s = .next s) ∧
      (∀ d a b, (s.grp g).status = .running → (s.grp g).incomplete.find? (fun v => v.wait = .waitx) = some u → u.instr = .waitx d a b →
        exec (.watchNotice g) s = .next (t.reconclude g u (runWaitx d a b u t)))) ∧
    (s.watches g = false → again (.waitxPoll g) (fun j v => j = g && v.wait = .waitx))) ∧
  (∀ (g : Nat) (w : WatchEntry) (rest : List WatchEntry) (s : State), (s.core (coreOf g)).watch = w :: rest → w.grp = g →
    w.leaving = true → (∀ x ∈ rest, x.grp ≠ g) → ∃ t, exec (.watchNotice g) s = .next t ∧ (t.core (coreOf g)).watch = rest ∧
      t.groups = s.groups ∧ t.mem = s.mem ∧ t.lm = s.lm) ∧
  (∀ (r : FarReq) (s : State), r.module ≠ s.device → r.pa < 2 ^ 52 → s.farSeen.find? (sameReq r) = none →
    (∀ x ∈ s.farQueue, (farReqOf x).module ≠ r.module ∨ (farReqOf x).core ≠ r.core) → s.pins = [] → s.refusals = [] → s.bad = [] → s.held = [] → s.aholds = [] →
    let key := s.device * 2 ^ 52 + r.pa
    (∀ n, 0 < n → r.pa % 128 + n ≤ 128 → s.stranded ((s.farKeys r n).map (fun a => (0, a))) = none →
      (∀ a ∈ s.farKeys r n, s.homeBlocked (a / 16 * 16) = false) →
      let reply := 0 :: (List.range n).map (fun i => rdByte s.mem (key + i))
      ∃ t, exec (.loadDataReturn (.other r n)) s = .next t ∧ { module := r.module, core := r.core, seq := r.seq, reply := reply } ∈ t.farSeen ∧
        (∃ x : State, t = x.respond (r.pa / 128 % 18) r.module r.seq reply) ∧ t.mem = s.mem ∧ t.groups = s.groups ∧ t.lm = s.lm) ∧
    (∀ (op : AOp) (ty : ATy) (n64 : Bool) (d n since : Nat), r.pa % tyBytes ty = 0 →
      s.stranded ((s.farKeys r (tyBytes ty)).map (fun a => (0, a))) = none → s.homeBlocked key = false →
      let old := (List.range (tyBytes ty)).map (fun i => rdByte s.mem (key + i))
      ∃ t, exec (.atomicAccept (.other r op ty n64 d n since)) s = .next t ∧
        t.mem = wrLE s.mem key (tyBytes ty) (combineWord op ty n64 (rdLE s.mem key (tyBytes ty)) d n) ∧
        { module := r.module, core := r.core, seq := r.seq, reply := 0 :: old } ∈ t.farSeen ∧
        (∃ v, exec (.atomicAccept (.other r op ty n64 d n since)) t = .next v ∧ v.mem = t.mem ∧ v.farSeen = t.farSeen) ∧
        t.groups = s.groups ∧ t.lm = s.lm)) ∧
  (∀ (w : Width) (r : VReg) (b : SReg) (o : VReg) (sc : Bool) (s t : State) (k : Nat) (u : Flight) (xs : List LLane),
    let n := widthBytes w
    let s' := { s with cur := k }
    u.instr = .ldlFe w r b o sc → s'.localAccess u k n false false (u.addresses s'.me b o (if sc then n else 1)) = .ok (t, xs) →
    t.feWaiters = [(u.since, k, u)] → (∀ x ∈ granules xs, t.isFull x = true) →
    s.retry k u = ((t.onMe (fun g => g.loadRegs w r (xs.map (fun x => (x.lane, rdLE t.lm x.at_ n))))).acquire k (feScope xs)).finishes k u) ∧
  (∀ (w : Width) (q : Bool) (r : VReg) (b : SReg) (o : VReg) (sc : Bool) (s t : State) (k : Nat) (u : Flight) (vs : List (Nat × Nat)),
    let n := widthBytes w
    let s' := { s with cur := k }
    u.instr = .ldg w q r b o sc → s'.gLoad u k n false (u.addresses s'.me b o (if sc then n else 1)) = .vals t vs →
    s.retry k u = (t.onMe (fun g => g.loadRegs w r vs)).finishes k u) ∧
  (∀ (a : SReg) (s t : State) (k : Nat) (u : Flight), u.instr = .join a → (s.grp k).inCrew = false →
    ({ s with cur := k } : State).joinCrew k (((s.grp k).sreg a).toNat % 2 ^ 16) (({ s with cur := k } : State).joinsAhead k u) = some t →
    s.retry k u = t.finishes k u) ∧
  (∀ (core : Nat) (s : State) (k n : Nat) (rest : List (Nat × Nat)), (s.core core).rejected = (k, n) :: rest →
    ((s.core core).missUsed + n ≤ 256 → ∃ t, exec (.missEntryGrant core) s = .next t ∧
      t.core core = { s.core core with
        rejected := rest, granted := (s.core core).granted ++ [(k, n)], missUsed := (s.core core).missUsed + n, missKept := 0 } ∧
      t.groups = s.groups ∧ t.mem = s.mem ∧ t.lm = s.lm) ∧
    (256 < (s.core core).missUsed + n → exec (.missEntryGrant core) s = .next s)) ∧
  (∀ (core slot : Nat) (s : State) (c : Crew), find? (s.core core).crews slot = some c → c.members.Nodup → c.members ≠ [] →
    ∃ t, exec (.crewPhaseComplete core slot) s = .next t ∧ find? (t.core core).crews slot = some (c.settleIn s.cycle) ∧
      (∀ k ∈ c.members, ∀ u, (s.grp k).flight.find? (c.settleIn s.cycle).passes = some u →
        t.grp k = (s.grp k).dropHeld.settle u.first) ∧
      (∀ k, k ∉ c.members ∨ (s.grp k).flight.find? (c.settleIn s.cycle).passes = none → t.grp k = s.grp k) ∧
      t.mem = s.mem ∧ t.lm = s.lm) ∧
  (∀ (c : Crew) (cycle : Nat) (u : Flight), (c.settleIn cycle).phase = c.settle.phase ∧
    (c.passes u = true ↔ u.done = false ∧ u.wait = .crew ∧ ∃ n, u.arrived = some n ∧ n < c.phase)) ∧
  (∀ (core : Nat) (s : State), (s.core core).engineQueue = [] → (∀ i < 16, (s.inst (core * 16 + i)).tobind = []) →
    exec (.engineGrant core) s = .next s) ∧
  (∀ (core k : Nat) (w : WReg) (a : SReg) (s : State) (u : Flight) (r : WinRec),
    s.onlyWaiter (fun j v => (s.core core).engineQueue.head? = some j && v.wait = .engine) k u → u.instr = .wset w a →
    u.wait = .engine → u.prog = 1 → coreOf k = core → (s.core core).engineQueue = [k] → s.enginesUsed core < 16 →
    (s.grp k).incomplete = [u] → (∀ i < 16, (s.inst (core * 16 + i)).tobind = []) →
    u.rcd = some r → r.dkind ≠ 2 → r.start * 16 < r.total →
    ∃ t, exec (.engineGrant core) s = .next t ∧ (t.core core).engineQueue = [] ∧ (t.grp k).incomplete = [] ∧
      (look {} (t.inst (instKey k (s.grp k))).wins w).state = .armed ∧
      (look {} (t.inst (instKey k (s.grp k))).wins w).mark = r.start * 16 ∧ t.mem = s.mem ∧ t.lm = s.lm)

/-- R118, R119, R128, R129: a LANDING window takes its next granule, element by element, and its mark rises by 16 bytes; at
its total it is LANDED. A source fault sets its freeze point, and at the mark it is FROZEN, or STRANDED under TRAP; a granule
that reads no source, or none that a fault of the fabric could meet, sets none. The
steward resumes a window whose fault it can service and strands another. -/
def Obligations.WindowEvents : Prop :=
  (∀ (core slot n : Nat) (s : State) (ps : List GLane),
    let ik := core * 16 + slot
    let i := s.inst ik
    let w := look {} i.wins n
    let es := w.rcd.elements (w.mark / 16)
    slot < 16 → i.live = true → w.state = .landing → w.mark < w.total → w.freeze = none → w.rcd.red = 0 → w.rcd.setfull = false →
    w.rcd.txbOn = false → s.earlier core i w (w.mark / 16) = [] → s.sources core i.ctx es = .ok ps →
    s.pins = [] → s.refusals = [] → s.aholds = [] → s.destWaits (w.keyOf core i w.mark) = false →
    (∀ p ∈ ps, p.at_.control = false ∧ s.homeHolds (.engine ik n) p.at_ = false ∧ s.covers p.at_.key = []) →
    let moved := (es.zip ps).foldl (fun t x => t.writeKey (w.keyOf core i x.1.1) (elemSize w.rcd.dfmt)
      (elemConvert w.rcd.sfmt w.rcd.dfmt (s.homeBytes x.2.at_.key (elemSize w.rcd.sfmt)))) s
    ∃ t, exec (.granuleLanding core slot n) s = .next t ∧ t.mem = moved.mem ∧ t.lm = moved.lm ∧ t.bstore = moved.bstore ∧
      (look {} (t.inst ik).wins n).mark = w.mark + 16 ∧
      (look {} (t.inst ik).wins n).state = (if w.mark + 16 = w.total then .landed else .landing) ∧ t.groups = s.groups) ∧
  (∀ (core slot n k cause : Nat) (s : State),
    let ik := core * 16 + slot
    let w := look {} (s.inst ik).wins n
    let found := s.sources core (s.inst ik).ctx (w.rcd.elements k)
    let freezes : Prop := ∃ t, exec (.sourceFault core slot n k cause) s = .next t ∧
      (∃ c, (look {} (t.inst ik).wins n).freeze = some (16 * k, c) ∧ c.code = cause) ∧
      (look {} (t.inst ik).wins n).mark = w.mark ∧
      (look {} (t.inst ik).wins n).state = (if w.mark < 16 * k then .landing
        else if s.trapPolicy (s.inst ik).ctx then .stranded else .frozen) ∧
      t.mem = s.mem ∧ t.lm = s.lm ∧ t.groups = s.groups
    slot < 16 → (s.inst ik).live = true → w.state = .landing → w.freeze = none → w.mark ≤ 16 * k → 16 * k < w.total →
    (∀ c, found = .error c → c.code = cause → cause ≠ 0 → freezes) ∧
    (∀ ps, found = .ok ps → ps ≠ [] → cause = 9 ∨ cause = 10 ∧ (∃ x ∈ ps, x.at_.home ≠ s.device) → freezes) ∧
    (∀ ps, found = .ok ps → ps = [] ∨ cause ∉ [9, 10] ∨ (cause = 10 ∧ ∀ x ∈ ps, x.at_.home = s.device) →
      exec (.sourceFault core slot n k cause) s = .next s)) ∧
  (∀ (core slot n p : Nat) (c : Cause) (s : State),
    let ik := core * 16 + slot
    let w := look {} (s.inst ik).wins n
    (s.inst ik).live = true → w.state = .frozen → w.freeze = some (p, c) →
    (∀ l, s.serviceable (s.inst ik).ctx (s.trapPolicy (s.inst ik).ctx) c = some l →
      s.tablesHeld (s.inst ik).ctx c.taddr.toNat (c.taddr.toNat + 1) = false →
      ∃ t, exec (.windowResume core slot n) s = .next t ∧ (look {} (t.inst ik).wins n).state = .landing ∧
        (look {} (t.inst ik).wins n).freeze = none ∧ (look {} (t.inst ik).wins n).mark = w.mark ∧
        t.mem = (s.servicePage (s.inst ik).ctx c.taddr.toNat l).mem ∧ t.lm = s.lm ∧ t.groups = s.groups) ∧
    (s.serviceable (s.inst ik).ctx (s.trapPolicy (s.inst ik).ctx) c = none →
      ∃ t, exec (.windowStrand core slot n) s = .next t ∧ (look {} (t.inst ik).wins n).state = .stranded ∧
        (look {} (t.inst ik).wins n).mark = w.mark ∧ t.mem = s.mem ∧ t.lm = s.lm ∧ t.groups = s.groups))

/-- R18, R19, R146 to R149, R151, R154, R155, R158, R252: a record goes from its core's log to the bin of its channel, with a full
bin to the polder, and, under a grant and a commit's notice, to its word, which takes what its operation gives; the slot
is then free and the channel acknowledges; what is lost, here or on another module, is charged to its commit. The unit that takes
another module's record is the model's reading where a plane has changed (DEDUCED, unsafe: assumption log, 42); the tag of a far bin, and what
a commit's notice and acknowledgement of another module carry and do, are its choice (DESIGN CHOICE, unsafe: assumption log, 3). -/
def Obligations.RecordEvents : Prop :=
  (∀ (core home g : Nat) (r : Rec) (rest : List LogItem) (s : State),
    let bin := if home = s.device then r.chan else 256 + home
    let b := binRecord r ((s.bunit (unitOf core)).bin bin)
    (s.core core).log = .rcd home r g :: rest → b.length ≤ 256 → s.commits = [] → s.farCommits = [] →
    ∃ t, exec (.binDrain ⟨core, false⟩) s = .next t ∧ (t.core core).log = rest ∧ (t.bunit (unitOf core)).bin bin = b ∧
      (∀ c, c ≠ bin → (t.bunit (unitOf core)).bin c = (s.bunit (unitOf core)).bin c) ∧ t.groups = s.groups ∧ t.mem = s.mem ∧ t.lm = s.lm) ∧
  (∀ (core home g : Nat) (r : Rec) (rest : List LogItem) (s : State), (s.core core).log = .rcd home r g :: rest →
    s.commits = [] → s.farCommits = [] → r.omod = s.device → home = s.device → s.lostOrigins = [] →
    ∃ t, exec (.binDrain ⟨core, true⟩) s = .next t ∧ (t.core core).log = rest ∧ t.units = s.units ∧
      t.lostOrigins = [(r.origin, false)] ∧ (t.chan r.chan).lostN = min ((s.chan r.chan).lostN + 1) (2 ^ 32 - 1) ∧
      t.groups = s.groups ∧ t.mem = s.mem) ∧
  (∀ (unit bin : Nat) (s : State), bin < 256 → ((s.bunit unit).bin bin).length = 256 → (s.bunit unit).staging = [] →
    s.polderRoom bin false = true → s.commits = [] → s.farCommits = [] →
    ∃ t, exec (.binShip unit bin) s = .next t ∧ (t.bunit unit).bin bin = [] ∧
      (∃ p, t.transit = s.transit ++ [p] ∧ p.chan = bin ∧ p.recs = (s.bunit unit).bin bin) ∧ t.mem = s.mem ∧ t.groups = s.groups) ∧
  (∀ (unit m p : Nat) (s : State), ((s.bunit unit).bin (256 + m)).length = 256 → s.commits = [] → s.farCommits = [] →
    s.planeFor m ((m + unit) % 18) = some p → (s.port p).noCredit = [] → (s.port p).waiting = [] →
    (∀ o ∈ s.binsOut, o.unit = unit → o.module = m → o.plane = p ∧ o.failed = false) →
    ∃ t o, exec (.binShip unit (256 + m)) s = .next t ∧ (t.bunit unit).bin (256 + m) = [] ∧ t.binsOut = s.binsOut ++ [o] ∧
      o.unit = unit ∧ o.module = m ∧ o.plane = p ∧ o.failed = false ∧
      t.abroad = s.abroad ++ ((s.bunit unit).bin (256 + m)).map (fun r => { module := m, rcd := r, commits := [] }) ∧
      (t.port p).txSeq = ((s.port p).txSeq + 36) % 2 ^ 16 ∧ t.mem = s.mem ∧ t.groups = s.groups) ∧
  (∀ (src tag plane : Nat) (v h : Word64) (s : State),
    let r : Rec := { header := h, value := v }
    let unit := s.ingressUnit plane r
    let b := binRecord r ((s.bunit unit).bin r.chan)
    let from_ : FarBin := { module := src, tag := tag, plane := plane }
    src ≠ s.device → plane < 18 →
    ((s.bunit unit).staging = [] → b.length ≤ 256 → (∀ x ∈ s.farBins, x.module = src → x.tag ≠ tag) →
      ∃ t, exec (.moduleBinIngress from_ [(h, v)]) s = .next t ∧ (t.bunit unit).bin r.chan = b ∧
        (t.bunit unit).staging = [] ∧ from_ ∈ t.farBins ∧ t.mem = s.mem ∧ t.groups = s.groups) ∧
    (from_ ∈ s.farBins → ∃ t, exec (.moduleBinIngress from_ [(h, v)]) s = .next t ∧ t.units = s.units ∧ t.farBins = s.farBins ∧
      t.mem = s.mem ∧ t.groups = s.groups)) ∧
  (∀ (j : Nat) (p : Packet) (s : State), s.transit[j]? = some p → s.commits = [] → s.farCommits = [] →
    (∀ q ∈ s.transit.take j, p.ordered q = false) → s.parkHeld p.chan = false →
    ∃ t x, exec (.polderPark j) s = .next t ∧ t.transit = s.transit.eraseIdx j ∧
      (t.chan p.chan).slots = (s.chan p.chan).slots ++ [x] ∧ x.recs = p.recs ∧ x.from_ = p.from_ ∧ x.live = p.recs.length ∧
      x.seq = (s.chan p.chan).nextSeq ∧ t.mem = s.mem ∧ t.groups = s.groups) ∧
  (∀ (j : Nat) (q p : Packet) (s : State), s.transit[j]? = some p →
    (q ∈ s.transit.take j ∧ q.from_.unit = p.from_.unit ∧ q.chan = p.chan) ∨ s.parkHeld p.chan = true →
    exec (.polderPark j) s = .next s) ∧
  (∀ (n : Notice) (s : State), n ∈ s.noticesOut →
    ∃ t, exec (.commitNotice n) s = .next t ∧ (t.chan n.chan).notices = (s.chan n.chan).notices ++ [n] ∧
      t.noticesOut = s.noticesOut.erase n ∧ t.mem = s.mem ∧ t.groups = s.groups) ∧
  (∀ (n : Notice) (s : State), n ∉ s.noticesOut → n.module ≠ s.device → s.commits = [] → s.farCommits = [] →
    ∃ t, exec (.commitNotice n) s = .next t ∧
      (s.onTheWay n.module n.origins [] = true →
        t.farCommits = [{ notice := n, sent := false, chans := [], lost := false }] ∧ t.noticesOut = s.noticesOut) ∧
      (∀ ch, s.onTheWay n.module n.origins [] = false → s.noticeChans n.module n.origins = [ch] →
        t.farCommits = [{ notice := n, sent := true, chans := [ch], lost := false }] ∧
        t.noticesOut = s.noticesOut ++ [{ n with chan := ch }]) ∧ t.mem = s.mem ∧ t.groups = s.groups) ∧
  (∀ (ch : Nat) (p2 : Bool) (s : State), (s.chan ch).notices ≠ [] → (s.chan ch).batch = [] → (s.chan ch).grant = false →
    (s.pchan (2 * ch)).own = false → (s.pchan (2 * ch + 1)).own = false →
    (p2 = false ∨ (s.chan ch).lastGrant = none ∨ (∃ c, (s.chan ch).lastGrant = some c ∧ c + 14400 ≤ s.cycle) →
      ∃ t, exec (.applyGrant ⟨ch, p2⟩) s = .next t ∧ t.chan ch = { s.chan ch with grant := true, lastGrant := some s.cycle } ∧
        t.mem = s.mem ∧ t.groups = s.groups) ∧
    (∀ c, p2 = true → (s.chan ch).lastGrant = some c → s.cycle < c + 14400 → exec (.applyGrant ⟨ch, p2⟩) s = .next s)) ∧
  (∀ (ch rows k : Nat) (n : Notice) (x : Slot) (r : Rec) (s : State),
    let key := s.recKey r
    (s.chan ch).notices = [n] → (s.chan ch).grant = true → (s.chan ch).slots = [x] → x.recs = [r] → x.meets n = true →
    coversRec n.module n.origins r = true → s.bad = [] → n.module = s.device → 0 < rows →
    ∃ t, exec (.apply ⟨ch, rows, [], k, []⟩) s = .next t ∧ (t.chan ch).corr = min ((s.chan ch).corr + k) (2 ^ 32 - 1) ∧
      t.mem = wrLE s.mem key r.bytes (recApply r.op r.bytes (rdLE s.mem key r.bytes) (r.value.toNat % 2 ^ (8 * r.bytes))).1 ∧
      (t.chan ch).grant = false ∧ (t.chan ch).notices = [] ∧ (t.chan ch).slots = [] ∧
      t.acks = s.acks ++ [(n.commit, ch, (s.chan ch).applyLost)] ∧ t.groups = s.groups ∧ t.lm = s.lm) ∧
  (∀ (ch rows : Nat) (n : Notice) (x : Slot) (r : Rec) (s : State),
    (s.chan ch).notices = [n] → (s.chan ch).grant = true → (s.chan ch).slots = [x] → x.recs = [r] → x.meets n = true →
    coversRec n.module n.origins r = true → s.bad.contains (s.recKey r / 64) = true → n.module = s.device → 0 < rows →
    ∃ t, exec (.apply ⟨ch, rows, [], 0, []⟩) s = .next t ∧ t.mem = s.mem ∧ (t.chan ch).slots = [] ∧
      t.acks = s.acks ++ [(n.commit, ch, true)] ∧ (t.chan ch).lostN = min ((s.chan ch).lostN + 1) (2 ^ 32 - 1) ∧
      t.groups = s.groups) ∧
  (∀ (commit ch : Nat) (lost : Bool) (c : Commit) (s : State), s.commits = [(commit, c)] → s.commitHeld commit = true →
    c.noticed = true → s.farCommits = [] → (commit, ch, lost) ∈ s.acks →
    ∃ t, exec (.commitAck commit (.chan ch) lost) s = .next t ∧
      find? t.commits commit = some { c with chans := c.chans.erase ch, lost := c.lost || lost } ∧
      t.acks = s.acks.erase (commit, ch, lost) ∧ t.mem = s.mem ∧ t.groups = s.groups) ∧
  (∀ (commit m : Nat) (lost : Bool) (c : Commit) (s : State), s.commits = [(commit, c)] → s.commitHeld commit = true →
    c.noticed = true → s.farCommits = [] →
    (∃ t, exec (.commitAck commit (.receipt m) lost) s = .next t ∧
      find? t.commits commit = some (if c.scope < 8 then { c with mods := c.mods.erase m } else c) ∧
      t.mem = s.mem ∧ t.groups = s.groups) ∧
    (∀ r : Rec, s.abroad = [{ module := m, rcd := r, commits := [commit] }] →
      ∃ t, exec (.commitAck commit (.applied m [(0, true)]) lost) s = .next t ∧ t.mem = s.mem ∧ t.abroad = [] ∧
        find? t.commits commit = some { c with
          mods := c.mods.erase m, lost := c.lost || lost, losses := (c.losses ++ [(r.origin, true)]).eraseDups } ∧ t.groups = s.groups) ∧
    (∀ r : Rec, s.abroad = [{ module := m, rcd := r, commits := [commit] }] → s.bad = [] →
      let key := m * 2 ^ 52 + chanAddr r.chan (4 * r.woff)
      ∃ t, exec (.commitAck commit (.applied m []) lost) s = .next t ∧
        find? t.commits commit = some { c with mods := c.mods.erase m, lost := c.lost || lost } ∧ t.abroad = [] ∧
        t.mem = wrLE s.mem key r.bytes
          (recApply r.op r.bytes (rdLE s.mem key r.bytes) (r.value.toNat % 2 ^ (8 * r.bytes))).1 ∧ t.groups = s.groups)) ∧
  (∀ (ch since : Nat) (s : State), (s.chan ch).fullSince = some since → since + 16777216 ≤ s.cycle → (s.chan ch).grant = false →
    s.freeSlotsOf ch = 0 → (s.chan ch).polder < 16 → ∃ t, exec (.polderOverflow ch true) s = .next t ∧ (t.chan ch).polder = (s.chan ch).polder + 1 ∧
      (t.chan ch).fullSince = none ∧ t.mem = s.mem ∧ t.groups = s.groups) ∧
  (∀ n old v : Nat, recApply 0 n old v = (v, false) ∧ recApply 1 4 old v = ((old + v) % 2 ^ 32, false))

/-- R168, R174 to R176, R178, R179, R244, R266: a store moves from its core's buffer to its home, or on its way there, and applies
at the end of its merge window, in the order of module and core, and another module's is then acknowledged to it; a marked store's
line is pinned as it arrives, and a pin that has refused for 65,536 cycles goes, which the line's own module counts; a page walk
fills the TLB; a request that goes unanswered is sent again on the plane that its line takes now. What an acknowledgement carries
is the model's choice (DESIGN CHOICE, unsafe: assumption log, 3). -/
def Obligations.StoreEvents : Prop :=
  (∀ (core : Nat) (e : StoreEntry) (rest : List StoreEntry) (s : State), (s.core core).stores = e :: rest → s.pins = [] →
    s.refusals = [] → s.siblingWaits core 0 e = false → e.key / 2 ^ 52 = s.device → s.stranded [(e.va, e.key)] = none → s.storeBlocked e.key e.bytes.length = false →
    ∃ t, exec (.plainStoreArrival (.own core 0)) s = .next t ∧ (t.core core).stores = rest ∧
      t.held = s.held ++ [{
        module := s.device, core := core, key := e.key, bytes := e.bytes, grp := e.grp, marked := e.marked,
        window := s.cycle / 64, seq := none, first := 0, entered := some e.entered }] ∧ t.mem = s.mem ∧ t.lm = s.lm ∧ t.remote = s.remote ∧
      (e.marked = true → e.grp ≠ noGroup → coreOf e.grp = core → find? s.groups e.grp ≠ none →
        ∃ p, find? t.pins (e.key / 128) = some p ∧ p.core = core ∧ p.scope = 4 ∧ e.grp ∈ p.groups)) ∧
  (∀ (core p : Nat) (e : StoreEntry) (rest : List StoreEntry) (s : State), (s.core core).stores = e :: rest → s.pins = [] →
    s.refusals = [] → s.siblingWaits core 0 e = false → e.key / 2 ^ 52 ≠ s.device → s.remote = [] → s.planeFor (e.key / 2 ^ 52) e.first = some p →
    ∃ t, exec (.plainStoreArrival (.own core 0)) s = .next t ∧ (t.core core).stores = rest ∧ t.held = s.held ∧
      (∃ r, t.remote = [r] ∧ r.key = e.key ∧ r.bytes = e.bytes ∧ r.plane = p ∧ r.core = core) ∧ t.mem = s.mem) ∧
  (∀ (core : Nat) (e : StoreEntry) (rest : List StoreEntry) (c : Cause) (s : State), (s.core core).stores = e :: rest → s.pins = [] →
    s.refusals = [] → e.key / 2 ^ 52 = s.device → s.stranded [(e.va, e.key)] = some c → e.grp ≠ noGroup →
    s.takesRefusal e.grp = true → (s.grp e.grp).skip.head? ≠ some true →
    ∃ t, exec (.plainStoreArrival (.own core 0)) s = .next t ∧ (∀ x ∈ (t.core core).stores, x ∈ rest ∧ ¬(x.grp = e.grp ∧ x.entered = e.entered)) ∧
      (∀ x ∈ rest, ¬(x.grp = e.grp ∧ x.entered = e.entered) → x ∈ (t.core core).stores) ∧
      (∀ h ∈ t.held, h ∈ s.held ∧ ¬(h.module = s.device ∧ h.core = core ∧ h.grp = e.grp ∧ h.entered = some e.entered)) ∧
      (t.grp e.grp).tcause = 8 ∧ (t.grp e.grp).taddr = c.taddr ∧ (t.grp e.grp).tinfo = c.tinfo ∧ (t.grp e.grp).priv = true ∧
      t.mem = s.mem ∧ t.lm = s.lm) ∧
  (∀ (home pa : Nat) (bs : List Byte) (s : State), home ≠ s.device → home < 288 → pa < 2 ^ 52 → pa % 16 + bs.length ≤ 16 →
    exec (.plainStoreArrival (.away home pa bs)) s = .next { s with
      mem := wrBytes s.mem (bs.mapIdx (fun i b => (home * 2 ^ 52 + pa + i, b))) }) ∧
  (∀ (r : FarReq) (bs : List Byte) (m : Option Nat) (s : State), s.pins = [] → s.refusals = [] → r.module ≠ s.device →
    (∀ x ∈ s.farQueue, (farReqOf x).module ≠ r.module ∨ (farReqOf x).core ≠ r.core) → r.pa < 2 ^ 52 → bs ≠ [] → r.pa % 16 + bs.length ≤ 16 → s.storeBlocked (s.device * 2 ^ 52 + r.pa) bs.length = false →
    s.stranded ((s.farKeys r bs.length).map (fun a => (0, a))) = none → s.farSeen.find? (sameReq r) = none →
    ∃ t, exec (.plainStoreArrival (.other r bs m)) s = .next t ∧
      (∃ h, t.held = s.held ++ [h] ∧ h.module = r.module ∧ h.core = r.core ∧ h.key = s.device * 2 ^ 52 + r.pa ∧ h.bytes = bs) ∧
      t.pins = (match m with
        | none => []
        | some g => [((s.device * 2 ^ 52 + r.pa) / 128, { core := r.core, scope := 4, groups := [g], module := some r.module })]) ∧
      { module := r.module, core := r.core, seq := r.seq, reply := [0] } ∈ t.farSeen ∧
      exec (.plainStoreArrival (.other r bs m)) t = .next t ∧
      t.mem = s.mem ∧ t.groups = s.groups) ∧
  (∀ (s : State), (∀ h ∈ s.held, h.window < s.cycle / 64 ∧ h.seq = none) → s.xfers = [] → s.conns = [] →
    exec .mergeWindowEnd s = .next { s with
      held := [], mem := (applyOrder s.held).foldl (fun m h => wrBytes m (h.bytes.mapIdx (fun i b => (h.key + i, b)))) s.mem }) ∧
  (∀ (h : HeldStore) (q : Nat) (s : State), s.held = [h] → h.window < s.cycle / 64 → h.seq = some q → s.xfers = [] → s.conns = [] →
    exec .mergeWindowEnd s = .next (({ s with
      held := [], mem := wrBytes s.mem (h.bytes.mapIdx (fun i b => (h.key + i, b))) } : State).respond
        (h.key % 2 ^ 52 / 128 % 18) h.module q [0])) ∧
  (∀ (a b : HeldStore), a.window = b.window → a.module < b.module ∨ (a.module = b.module ∧ a.core ≤ b.core) →
    applyOrder [a, b] = [a, b] ∧ (a.module ≠ b.module ∨ a.core ≠ b.core → applyOrder [b, a] = [a, b])) ∧
  (∀ (core line k : Nat) (s : State), ((s.coreGroups core).filter (fun x => x.2.marked.contains line)).map Prod.fst = [k] →
    s.pins = [] → ∃ t, exec (.pinLine core (.own line)) s = .next t ∧
      find? t.pins line = some { core := core, scope := 4, groups := [k] } ∧
      (t.grp k).marked = (s.grp k).marked.filter (fun l => l ≠ line) ∧ t.mem = s.mem ∧ t.lm = s.lm) ∧
  (∀ (core m g line : Nat) (s : State), s.pins = [] → m ≠ s.device → line * 128 / 2 ^ 52 = s.device →
    ∃ t, exec (.pinLine core (.marked m g line)) s = .next t ∧
      find? t.pins line = some { core := core, scope := 4, groups := [g], module := some m } ∧ t.groups = s.groups ∧ t.mem = s.mem ∧
      t.lm = s.lm) ∧
  (∀ (line core since : Nat) (p : Pin) (e : StoreEntry) (s : State), find? s.pins line = some p →
    p.admits s.device s.device core = false → e ∈ (s.core core).stores → e.key / 128 = line →
    { line := line, req := .store core, since := since } ∈ s.refusals →
    (since + 65536 ≤ s.cycle → ∃ t, exec (.pinForcedWidening line) s = .next t ∧
      t.pins = Sys2Proof.Machine.del s.pins line ∧ (line * 128 / 2 ^ 52 ≠ s.device → t.forced = s.forced) ∧ t.mem = s.mem ∧
      t.groups = s.groups) ∧
    ((∀ x ∈ s.refusals, s.cycle < x.since + 65536) → exec (.pinForcedWidening line) s = .next s)) ∧
  (∀ (core ctx l : Nat) (va w : Word64) (x : Ctx) (s : State), va.toNat < 2 ^ 48 → find? s.ctxs ctx = some x →
    s.walkFrom va.toNat 3 x.root = .leaf w l → s.leafOk ctx w l (ptePa w + va.toNat % pageSize l) = true →
    (s.core core).tlb = [] → ∃ t, exec (.pageWalk core ctx va) s = .next t ∧
      (t.core core).tlb = [{ ctx := ctx, va := va.toNat / pageSize l * pageSize l, size := pageSize l, leaf := w }] ∧
      t.mem = s.mem ∧ t.groups = s.groups) ∧
  (∀ (j p : Nat) (r : RemoteReq) (s : State), s.remote[j]? = some r → s.planeFor (r.key / 2 ^ 52) r.first = some p →
    r.failed = true → r.cause = none → r.since + 36000 ≤ s.cycle → ∃ t, exec (.pathReplay j) s = .next t ∧
      t.remote = s.remote.set j { r with plane := p, since := s.cycle } ∧ t.mem = s.mem ∧ t.groups = s.groups)

/-- R92, R93, R233, R246: an expired watchdog traps every group of its context on the core with 0x0D, a claim deadlock every
group of the core with 0x0C, each counter cleared; a cause that another agent finds in a running group is taken; and a
group in fault service runs again once its page is there, or takes the cause. -/
def Obligations.Detectors : Prop :=
  (∀ (core ctx n k : Nat) (s : State), s.watchdogLimit core ctx = some n → n ≤ look 0 (s.core core).watchdog ctx →
    (s.core core).deadlock < 65536 →
    (s.groups.filter (fun x => coreOf x.1 = core && x.2.live && x.2.ctx = ctx)) = [(k, s.grp k)] → (s.grp k).priv = false →
    ∃ t, exec (.watchdogExpiry core ctx) s = .next t ∧ (t.grp k).tcause = 0x0D ∧ (t.grp k).taddr = 0 ∧
      (t.grp k).tinfo = (s.grp k).wdlim ∧ (t.grp k).priv = true ∧
      (t.grp k).pc = ((s.grp k).tvec &&& 0xFFFFFFFFFFFFF000) + 0x340 ∧ look 0 (t.core core).watchdog ctx = 0 ∧
      t.mem = s.mem ∧ t.lm = s.lm) ∧
  (∀ (core k : Nat) (s : State), 65536 ≤ (s.core core).deadlock →
    (s.groups.filter (fun x => coreOf x.1 = core && x.2.live)) = [(k, s.grp k)] → (s.grp k).priv = false →
    ∃ t, exec (.claimDeadlock core) s = .next t ∧ (t.grp k).tcause = 0x0C ∧ (t.grp k).tinfo = (s.grp k).deadlockInfo ∧
      (t.grp k).priv = true ∧ (t.grp k).pc = ((s.grp k).tvec &&& 0xFFFFFFFFFFFFF000) + 0x300 ∧ (t.core core).deadlock = 0 ∧
      (t.core core).watchdog = [] ∧ (t.core core).claims = (s.core core).claims.filter (fun c => c.grp ≠ k) ∧
      t.mem = s.mem ∧ t.lm = s.lm) ∧
  (∀ (s : State) (core : Nat), (s.core core).deadlock < 65536 → exec (.claimDeadlock core) s = .next s) ∧
  (∀ (k cause : Nat) (ta ti : Word64) (s : State), (s.grp k).live = true → (s.grp k).status = .running → cause ≠ 0 → cause ≤ 0x12 →
    (cause ≠ 0x0E →
      s.serviceable (s.grp k).ctx (s.grp k).pol ((s.grp k).atPage { code := cause, taddr := ta, tinfo := ti }) = none →
      exec (.trapEntry k cause ta ti) s = .next ((s.noteSram k { code := cause, taddr := ta, tinfo := ti }).takeTrap k
        { code := cause, taddr := ta, tinfo := ti })) ∧
    (cause = 0x0E → ti ≠ 0 → exec (.trapEntry k cause ta ti) s =
      .next (s.takeTrap k { code := 0x0E, taddr := 0, tinfo := ti })) ∧
    (cause = 0x0E → ti = 0 → let ik := instKey k (s.grp k)
      exec (.trapEntry k cause ta ti) s = .next ((s.setInst ik { s.inst ik with pre := some s.cycle }).takeTrap k
        { code := 0x0E, taddr := 0, tinfo := 0 }))) ∧
  (∀ (k : Nat) (c : Cause) (s : State), (c.code ≠ 9 → s.noteSram k c = s) ∧ (s.noteSram k c).groups = s.groups ∧
    (s.noteSram k c).mem = s.mem ∧ (s.noteSram k c).lm = s.lm ∧ ∀ w ∈ s.sramBad, w ∈ (s.noteSram k c).sramBad) ∧
  (∀ (k : Nat) (c : Cause) (s : State), (s.grp k).live = true → (s.grp k).status = .service c →
    (∀ l, s.serviceable (s.grp k).ctx (s.grp k).pol ((s.grp k).atPage c) = some l →
      s.tablesHeld (s.grp k).ctx ((s.grp k).atPage c).taddr.toNat (((s.grp k).atPage c).taddr.toNat + 1) = false →
      ∃ t, exec (.faultService k) s = .next t ∧
      t.grp k = { s.grp k with status := .running } ∧ (∀ j, j ≠ k → t.grp j = s.grp j) ∧
      t.mem = (s.servicePage (s.grp k).ctx ((s.grp k).atPage c).taddr.toNat l).mem ∧ t.lm = s.lm) ∧
    (s.serviceable (s.grp k).ctx (s.grp k).pol ((s.grp k).atPage c) = none → exec (.faultService k) s =
      .next ((s.setGrp k { s.grp k with status := .running }).takeTrap k c)))

/-- R12, R76, R77, R79 to R81, R398, R46: a core's request is answered with the eligible set that comes first in the
order of R77 and fits; a set that nothing fits reserves the core of its pool with most courses free; limits change at once;
spilled sets come back; and a graph whose sets have all ended is committed and answered, once its output ranges can be read and the
records of its launches written, which change (R276; DESIGN CHOICE, unsafe: assumption log, 46). That a spilled set comes back to a steward
pool as soon as one entry is free is the model's choice (DESIGN CHOICE, unsafe: assumption log, 2). -/
def Obligations.PoolEvents : Prop :=
  (∀ (core h j : Nat) (x : TaskSet) (s : State), s.mayAsk core = true → find? s.sets h = some x →
    (∀ ev p, (ev = Instr.poolRequest core ∧ isSteward core = false ∧ p = poolOf core) ∨
        (ev = Instr.stealRequest core ∧ isSteward core = false ∧ s.maySteal core = true ∧ p = otherPool (poolOf core)) ∨
        (ev = Instr.stewardPoolRequest core ∧ isSteward core = true ∧
          p = if s.maySteal core then otherPool (poolOf core) else poolOf core) →
      s.answerFor core p = some (h, j) →
      ∃ t, exec ev s = .next t ∧ (t.core core).answer = some (h, j) ∧ find? t.sets h = some (x.take j) ∧
        (∀ g, g ≠ h → find? t.sets g = find? s.sets g) ∧ t.mem = s.mem ∧ t.groups = s.groups)) ∧
  (∀ (core p h j : Nat) (s : State), s.answerFor core p = some (h, j) →
    ∃ x, (h, x) ∈ s.eligible core p ∧ s.fits core x = true ∧ x.lowest = some j ∧
      ∀ y ∈ s.eligible core p, s.fits core y.2 = true → lexLess (rankOf y) (rankOf (h, x)) = false) ∧
  (∀ (pool h : Nat) (x : TaskSet) (s : State), s.resv = [] → s.starving pool = some (h, x) → find? s.sets h = some x →
    (∀ c ∈ poolCores pool, (s.core c).couldHold x = true) → (∃ c ∈ poolCores pool, x.allows c = true) →
    ∃ t c, exec (.setReservation pool) s = .next t ∧ find? t.resv pool = some (h, c) ∧ c ∈ poolCores pool ∧ x.allows c = true ∧
      (∀ d ∈ poolCores pool, x.allows d = true → (s.core d).free ≤ (s.core c).free) ∧ t.mem = s.mem ∧ t.groups = s.groups) ∧
  (∀ (core a b c : Nat) (s : State), core < 260 → a ≤ (if isSteward core then 768 else 2048) →
    b ≤ (if isSteward core then 4 else 16) → c ≤ (if isSteward core then 16 else 64) → (s.core core).claims = [] → s.resv = [] →
    ∃ t, exec (.placementLimitChange core a b c) s = .next t ∧
      t.core core = { s.core core with limCourses := a, limTslots := b, limGslots := c } ∧
      (∀ d, d ≠ core → t.core d = s.core d) ∧ t.groups = s.groups ∧ t.mem = s.mem) ∧
  (∀ (pool h : Nat) (x : TaskSet) (s : State), s.spill = [h] → find? s.sets h = some x → x.pool = pool →
    (if pool < 2 then 512 else 1) ≤ s.poolSpace pool → ∃ t, exec (.spillRefill pool) s = .next t ∧ t.spill = [] ∧
      find? t.sets h = some { x with spilled := false } ∧ t.mem = s.mem ∧ t.groups = s.groups) ∧
  (∀ (gr : Nat) (g : Graph) (s : State), s.graphOver gr = true → find? s.graphs gr = some g →
    (g.commit = none → ∃ t c, exec (.graphComplete gr) s = .next t ∧ find? t.commits s.nextCommit = some c ∧ c.scope = 6 ∧
      find? t.graphs gr = some { g with commit := some s.nextCommit } ∧ t.mem = s.mem) ∧
    (∀ n, g.commit = some n → find? s.commits n = none → s.bad = [] →
      (s.commitsStep.serviceReads (s.commitsStep.outPlaces gr)).endWaits gr = false → ∃ t, exec (.graphComplete gr) s = .next t ∧
      find? t.graphs gr = some { g with done := true, commit := none } ∧ (∀ y ∈ t.sets, y.2.graph ≠ gr) ∧
      (∀ y ∈ s.ring, y.2.graph = gr → y.2.ending = none → ∃ r ∈ t.replies, r.conn = y.2.conn ∧ r.tag = y.2.tag ∧ r.opc = 1 ∧
        r.flags = 5 ∧ r.status = 0 ∧ r.cause = 0) ∧ (∀ a, ¬ s.ringByte a → rdByte t.mem a = rdByte s.mem a) ∧
      t.groups = s.groups))

/-- R78: a set that has waited 1,800,000 cycles at one level moves up one level and keeps its age; level 0 is the ceiling;
a set placed in part ages until its last instance is placed. -/
def Obligations.SetAgeing : Prop :=
  ∀ (h : Nat) (x : TaskSet) (s : State), find? s.sets h = some x → x.ready.isSome = true →
    (0 < x.level → x.since + 1800000 ≤ s.cycle → s.hasEntry h x = true →
      ∃ t, exec (.setAgeing h) s = .next t ∧
        find? t.sets h = some { x with level := x.level - 1, since := x.since + 1800000 } ∧
        (∀ g, g ≠ h → find? t.sets g = find? s.sets g) ∧ t.groups = s.groups ∧ t.mem = s.mem) ∧
    (x.level = 0 ∨ s.cycle < x.since + 1800000 ∨ s.hasEntry h x = false → exec (.setAgeing h) s = .next s) ∧
    (x.lowest.isSome = true → s.hasEntry h x = true)

/-! ## Service, module and fabric -/

/-- R46, R240, R246, R268 to R275, R278, R279: the requests of the service. A malformed one is refused with 0x02, one outside
its endpoint's rights is not authorised, one behind another of its connection waits, and the 65th and one whose context is
being pre-empted are answered busy; each of the others has its effect and its reply once what it must wait for is over; a reply is
a header of 32 bytes and its body. The model's choices: that a request waits by standing first in its connection's queue, and what
is answered during a pre-emption (DESIGN CHOICE, unsafe: assumption log, 15); what HEALTH with CLEAR leaves, and that the health
record comes whole (DEDUCED, unsafe: assumption log, 26); the numbers that launches, graphs and contexts get (DESIGN CHOICE,
unsafe: assumption log, 7); that a GET over an uncorrectable codeword is refused with 9 (DEDUCED, unsafe: assumption log, 46); and
that the launch records in memory are brought up to date before a GET reads (DESIGN CHOICE, safe: assumption log, 41). -/
def Obligations.ServiceRequests : Prop :=
  (∀ (s : State) (opc : Nat) (i : Instr) (h : ReqHdr) (body : List Byte) (need : Nat) (allowed : Bool) (run : State → State),
    s.booted = true → h.opc = opc → 1 ≤ opc → opc ≤ 9 →
    (s.outstanding h.conn = 0 → hdrBad h body need = true → ∃ t, s.request opc i h body need allowed run = .next t ∧
      t.replies = s.replies ++ [replyTo h 1 2 h.ctx []] ∧ t.groups = s.groups ∧ t.mem = s.mem ∧ t.sets = s.sets) ∧
    (s.outstanding h.conn = 0 → hdrBad h body need = false → allowed = false → ∃ t, s.request opc i h body need allowed run = .next t ∧
      t.replies = s.replies ++ [replyTo h 3 0 h.ctx []] ∧ t.groups = s.groups ∧ t.mem = s.mem ∧ t.sets = s.sets) ∧
    (s.outstanding h.conn ≠ 0 → s.outstanding h.conn < 64 → ∃ t c, s.request opc i h body need allowed run = .next t ∧
      find? t.conns h.conn = some c ∧ c.queue = (look ({} : Conn) s.conns h.conn).queue ++ [i] ∧ t.replies = s.replies ∧
      t.groups = s.groups ∧ t.mem = s.mem) ∧
    (64 ≤ s.outstanding h.conn → ∃ t, s.request opc i h body need allowed run = .next t ∧
      t.replies = s.replies ++ [replyTo h 2 0 h.ctx []] ∧ t.groups = s.groups ∧ t.mem = s.mem) ∧
    (s.outstanding h.conn = 0 → hdrBad h body need = false → allowed = true → h.ctx ≠ 0 → s.preempting h.ctx = true →
      ∃ t, s.request opc i h body need allowed run = .next t ∧ t.replies = s.replies ++ [replyTo h 2 0 h.ctx []] ∧
      t.groups = s.groups ∧ t.mem = s.mem) ∧
    (s.outstanding h.conn = 0 → hdrBad h body need = false → allowed = true → (h.ctx = 0 ∨ s.preempting h.ctx = false) →
      ∃ t c, s.requestWhen false opc i h body need allowed run = .next t ∧ find? t.conns h.conn = some c ∧ c.queue = [i] ∧
      t.replies = s.replies ∧ t.groups = s.groups ∧ t.mem = s.mem)) ∧
  (∀ (h : ReqHdr) (body : List Byte) (pool : Nat) (s : State) (c : Ctx),
    let stw : Bool := field body 0x20 4 / 4 % 2 = 1
    let p := if stw then 2 + pool % 2 else pool % 2
    let r := s.serviceReads (s.rangePlaces h.ctx (field body 0 8) 128)
    s.takes 1 0x30 h body → s.ownCtx h = true → (s.rights h.conn).operate = true → (stw = true → (s.rights h.conn).steward = true) →
    r.launchCause h body = none → r.launchWaits h body = false → s.ringBusy = false → s.preempting h.ctx = false → find? s.ctxs h.ctx = some c → 0 < s.poolSpace p →
    ∃ t x l, exec (.launch h body pool) s = .next t ∧ find? t.sets s.nextSet = some x ∧ x.graph = s.nextGraph ∧ x.ctx = h.ctx ∧
      x.pool = p ∧ x.spilled = false ∧ find? t.ring (s.nextSeq % 4096) = some l ∧ l.seq = s.nextSeq ∧ l.graph = s.nextGraph ∧
      l.ending = none ∧ l.seed = BitVec.ofNat 64 (field body 0x10 8) ∧
      t.replies = s.replies ++ [replyTo h 0 0 h.ctx (bytesLE 8 s.nextSeq ++ bytesLE 8 s.nextGraph)] ∧ t.groups = s.groups ∧ t.mem = s.mem) ∧
  (∀ (h : ReqHdr) (body : List Byte) (frames tables home : Nat) (members : List Nat) (s : State),
    let m := mapReq body frames
    s.takes 2 0x20 h body → h.ctx = 0 → (s.rights h.conn).operate = true → (m.control = true → (s.rights h.conn).steward = true) →
    tables % 4096 = 0 → members.length ≤ 288 → s.mapBad 0 body m = false → s.bothMaps 0 home m = false →
    s.mapmemWaits h body = false →
    ∃ t c, exec (.mapmem h body frames tables home members) s = .next t ∧ find? t.ctxs s.nextCtx = some c ∧
      c.endpoint = endpointOf h.conn ∧ c.root = tables ∧ c.ended = false ∧ t.nextCtx = s.nextCtx + 1 ∧
      t.replies = s.replies ++ [replyTo h 0 0 s.nextCtx (bytesLE 8 m.pa)] ∧ t.groups = s.groups ∧ t.lm = s.lm) ∧
  (∀ (h : ReqHdr) (body : List Byte) (s : State),
    let va := field body 0 8
    let len := field body 8 8
    s.takes 3 0x10 h body → s.ownCtx h = true → (s.rights h.conn).operate = true → va + len ≤ 2 ^ 48 → s.preempting h.ctx = false →
    s.unmapWaits h body = false →
    ∃ t, exec (.unmap h body) s = .next t ∧ t.replies = s.replies ++ [replyTo h 0 0 h.ctx []] ∧
      (∀ c, ∀ e ∈ (t.core c).tlb, e.ctx = h.ctx → va + len ≤ e.va ∨ e.va + e.size ≤ va) ∧ t.groups = s.groups ∧ t.lm = s.lm) ∧
  (∀ (h : ReqHdr) (body : List Byte) (s : State),
    let va := field body 0 8
    let len := field body 8 8
    let key := xferKey h.conn (field body 0x10 4)
    let ps := s.rangePlaces h.ctx va len
    let r := s.serviceReads ps
    s.ownCtx h = true → (s.rights h.conn).operate = true → s.preempting h.ctx = false →
    (s.takes 4 0x14 h body → s.rangeCause h.ctx va len true = none → 0 < len → s.xfers = [] →
      (look ({} : Conn) s.conns h.conn).early = [] →
      ∃ t, exec (.put h body) s = .next t ∧ t.xfers = [(key, { opc := 4, hdr := h, ctx := h.ctx, va := va, len := len, got := [] })] ∧
        t.replies = s.replies ∧ t.mem = s.mem ∧ t.groups = s.groups) ∧
    (s.takes 5 0x14 h body → s.rangeCause h.ctx va len false = none → (r.stranded (ps.map (fun p => (0, p.key)))).isSome = false →
      (r.rangeHeld ps = false → s.badCodewords (ps.map Place.key) ≠ [] → ∃ t, exec (.get h body) s = .next t ∧ t.bulk = s.bulk ∧
        t.replies = s.replies ++ [replyTo h 1 9 h.ctx []] ∧ t.mem = s.mem ∧ t.groups = s.groups) ∧
      (r.rangeHeld ps = false → s.badCodewords (ps.map Place.key) = [] → ∃ t, exec (.get h body) s = .next t ∧
        t.bulk = s.bulk ++ [{ conn := h.conn, msg := bytesLE 4 (field body 0x10 4) ++ bytesLE 4 0 ++ bytesLE 8 0
          ++ r.flushRing.svcBytes h.ctx va len }] ∧
        t.replies = s.replies ++ [replyTo h 0 0 h.ctx []] ∧ t.mem = s.flushRing.mem ∧ t.groups = s.groups) ∧
      (r.rangeHeld ps = true → ∃ t c, exec (.get h body) s = .next t ∧ find? t.conns h.conn = some c ∧ c.queue = [.get h body] ∧
        t.bulk = s.bulk ∧ t.replies = s.replies ∧ t.mem = s.mem ∧ t.groups = s.groups)) ∧
    (s.takes 5 0x14 h body → s.rangeCause h.ctx va len false = none → (r.stranded (ps.map (fun p => (0, p.key)))).isSome = true →
      ∃ t, exec (.get h body) s = .next t ∧ t.bulk = s.bulk ∧ t.replies = s.replies ++ [replyTo h 1 8 h.ctx []] ∧ t.mem = s.mem ∧
        t.groups = s.groups)) ∧
  (∀ (h : ReqHdr) (body : List Byte) (s : State) (k : Nat),
    ∀ x ∈ [(Instr.preemptSuspend h body, 0), (.preemptEnd h body, 1), (.preemptHalt h body, 2)],
    s.takes 6 8 h body → s.ownCtx h = true → (s.rights h.conn).operate = true → field body 0 4 = x.2 → field body 4 4 = 2 ^ 32 - 1 →
    s.preempting h.ctx = false → s.groupsOf h.ctx (2 ^ 32 - 1) = [k] → (s.grp k).priv = false → (s.grp k).status ≠ .starting →
    (s.grp k).flight.any Flight.leaving = false → (s.grp k).skip.head? ≠ some true →
    ∃ t, exec x.1 s = .next t ∧ (t.grp k).tcause = 0x0E ∧ (t.grp k).tinfo = BitVec.ofNat 64 x.2 ∧ (t.grp k).taddr = 0 ∧
      (t.grp k).priv = true ∧ (t.grp k).pc = ((s.grp k).tvec &&& 0xFFFFFFFFFFFFF000) + 0x380 ∧
      t.replies = s.replies ++ [replyTo h 0 0 h.ctx []] ∧ t.mem = s.mem ∧ t.lm = s.lm) ∧
  (∀ (h : ReqHdr) (body : List Byte) (s : State), h.ctx = 0 →
    (s.takes 7 32 h body → ∃ t, exec (.attest h body) s = .next t ∧
      t.replies = s.replies ++ [replyTo h 0 0 0 (s.quote (body.take 32))] ∧ t.groups = s.groups ∧ t.mem = s.mem) ∧
    (s.takes 8 4 h body → field body 0 4 = 0 → ∃ t, exec (.healthRead h body) s = .next t ∧
      t.replies = s.replies ++ [replyTo h 0 0 0 s.healthRecord] ∧ t.chans = s.chans ∧ t.ports = s.ports ∧ t.groups = s.groups ∧ t.mem = s.mem) ∧
    (s.takes 8 4 h body → field body 0 4 = 1 → (s.rights h.conn).maintain = true → ∃ t, exec (.healthClear h body) s = .next t ∧
      t.replies = s.replies ++ [replyTo h 0 0 0 s.healthRecord] ∧ t.throttles = 0 ∧ t.ueDrop0 = 0 ∧ t.ueDrop1 = 0 ∧ t.forced = [] ∧
      (∀ ch, (t.chan ch).corr = 0 ∧ (t.chan ch).uncorr = 0 ∧ (t.chan ch).fxasat = 0 ∧ (t.chan ch).events = 0 ∧
        (t.chan ch).parity = 0 ∧ (t.chan ch).lostN = 0 ∧ (t.chan ch).lastBad = (s.chan ch).lastBad ∧
        (t.chan ch).polder = (s.chan ch).polder ∧ (t.chan ch).slots = (s.chan ch).slots) ∧ t.groups = s.groups ∧ t.mem = s.mem) ∧
    (s.takes 9 12 h body → (s.rights h.conn).maintain = true → (look ({} : Conn) s.conns h.conn).early = [] →
      ∃ t, exec (.update h body) s = .next t ∧ t.flash = s.flash ∧ t.groups = s.groups ∧ t.mem = s.mem ∧
      (0 < field body 0 8 → find? t.xfers (xferKey h.conn (field body 8 4)) =
        some { opc := 9, hdr := h, ctx := 0, va := 0, len := field body 0 8, got := [] } ∧ t.replies = s.replies) ∧
      (field body 0 8 = 0 → Config.sm2Verifies [] = false → t.replies = s.replies ++ [replyTo h 1 2 0 []]))) ∧
  (∀ (conn : Nat) (xfer : Word32) (off : Word64) (bytes : List Byte) (s : State),
    find? s.xfers (xferKey conn xfer.toNat) = none →
    let c := look ({} : Conn) s.conns conn
    let msg := Instr.dataMessage conn (xfer.setWidth 64) off bytes
    (c.names xfer.toNat = false → exec msg s = .next { s with dropped := s.dropped + 1 }) ∧
    (c.names xfer.toNat = true → ∃ t d, exec msg s = .next t ∧ find? t.conns conn = some d ∧
      d.queue = c.queue ∧ d.early = c.early ++ bytes.mapIdx (fun i b => (xfer.toNat, off.toNat + i, b)) ∧ t.dropped = s.dropped ∧
      t.mem = s.mem ∧ t.groups = s.groups)) ∧
  (∀ (conn : Nat) (xfer off : Word64) (bytes : List Byte) (s : State), 2 ^ 32 ≤ xfer.toNat →
    exec (.dataMessage conn xfer off bytes) s = .next { s with dropped := s.dropped + 1 }) ∧
  (∀ (conn : Nat) (xfer : Word32) (b : Byte) (x : Xfer) (q : Place) (s : State),
    s.xfers = [(xferKey conn xfer.toNat, x)] → x.got = [] → x.late = [] →
    let msg := Instr.dataMessage conn (xfer.setWidth 64) 0 [b]
    (x.opc = 4 → 1 < x.len → s.svcPlace x.ctx x.va = .error 0 → ∃ t, exec msg s = .next t ∧
      t.xfers = [(xferKey conn xfer.toNat, { x with got := [(0, b)], late := [(0, b)] })] ∧ t.svcStores = s.svcStores ∧ t.mem = s.mem ∧
      t.replies = s.replies ∧ t.groups = s.groups) ∧
    (x.opc = 4 → 1 < x.len → s.svcPlace x.ctx x.va = .ok q → ∃ t h, exec msg s = .next t ∧
      t.svcStores = s.svcStores ++ [h] ∧ h.module = serviceModule ∧ h.key = q.key ∧ h.bytes = [b] ∧ t.mem = s.mem ∧
      t.replies = s.replies ∧ t.groups = s.groups) ∧
    (x.opc = 9 → x.len = 1 → ∃ t, exec msg s = .next t ∧ t.flash = s.flash ∧
      (if Config.sm2Verifies [b] then t.replies = s.replies ∧
          (s.writing = none → t.writing = some (xferKey conn xfer.toNat, [b]) ∧ t.toWrite = s.toWrite) ∧
          (s.writing ≠ none → t.writing = s.writing ∧ t.toWrite = s.toWrite ++ [(xferKey conn xfer.toNat, [b])])
        else t.xfers = [] ∧ t.writing = s.writing ∧ t.replies = s.replies ++ [replyTo x.hdr 1 2 x.hdr.ctx []]) ∧
      t.mem = s.mem ∧ t.groups = s.groups)) ∧
  (∀ (key : Nat) (image : List Byte) (x : Xfer) (s : State), s.booted = true → s.writing = some (key, image) →
    find? s.xfers key = some x → s.written.flash = image ∧ s.written.writing = s.toWrite.head? ∧ s.written.toWrite = s.toWrite.tail ∧
      s.written.replies = s.replies ++ [replyTo x.hdr 0 0 x.hdr.ctx []] ∧ s.written.mem = s.mem ∧ s.written.groups = s.groups) ∧
  (∀ r : Reply, r.opc < 2 ^ 16 → r.flags < 2 ^ 16 → r.tag < 2 ^ 32 → r.ctx < 2 ^ 64 → r.body.length < 2 ^ 32 → r.status < 256 →
    r.cause < 2 ^ 24 → let m := r.message
    field m 0 2 = r.opc ∧ field m 2 2 = r.flags ∧ field m 4 4 = r.tag ∧ field m 8 8 = r.ctx ∧ field m 16 4 = r.body.length ∧
    field m 20 4 = r.status + (if r.status = 1 then 256 * r.cause else 0) ∧ field m 24 8 = 0 ∧ m.drop 32 = r.body)

/-- R10, R25, R241, R277, R278: a throttle change reaches every core of its die and no other; a core mapped out stays so; a
boot with an image that verifies starts the module from reset; and a suspended instance that fits a core is there again,
its groups at the restore entry with the address of their save area. That a boot clears the memory, and what of the module's record
it keeps, are the model's choice (DESIGN CHOICE, unsafe: assumption log, 4), and so is that a restored instance takes the lowest
free slots (DESIGN CHOICE, unsafe: assumption log, 7). -/
def Obligations.ModuleEvents : Prop :=
  (∀ (die n : Nat) (s : State), die < 2 →
    (n ≤ 16 → s.throttleOf die < n → ∃ t, exec (.throttleSet die n) s = .next t ∧
      (∀ c < 260, (t.core c).throttle = (if dieOf c = die then n else (s.core c).throttle)) ∧
      t.throttles = min (s.throttles + 1) (2 ^ 32 - 1) ∧ t.groups = s.groups ∧ t.mem = s.mem ∧ t.lm = s.lm) ∧
    (n < s.throttleOf die → ∃ t, exec (.throttleLift die n) s = .next t ∧
      (∀ c < 260, (t.core c).throttle = (if dieOf c = die then n else (s.core c).throttle)) ∧
      t.throttles = min (s.throttles + 1) (2 ^ 32 - 1) ∧ t.groups = s.groups ∧ t.mem = s.mem ∧ t.lm = s.lm)) ∧
  (∀ (core : Nat) (s : State), core < 260 → (s.core core).mappedOut = false → s.resv = [] →
    ∃ t, exec (.coreMappedOut core) s = .next t ∧ t.core core = { s.core core with mappedOut := true } ∧
      (∀ c, c ≠ core → t.core c = s.core c) ∧ t.groups = s.groups ∧ t.mem = s.mem ∧ t.lm = s.lm) ∧
  (∀ (recovery : List Byte) (s : State),
    let own := s.writing.isNone && Config.sm2Verifies s.flash
    let got := Config.sm2Verifies recovery
    let left := match s.writing with
      | some w => Config.halfWritten s.flash w.2
      | none => s.flash
    ∃ t, exec (.boot recovery) s = .next t ∧ t.booted = (own || got) ∧
      t.image = (if own then s.flash else if got then recovery else []) ∧
      t.flash = (if own then s.flash else if got then recovery else left) ∧
      t.groups = [] ∧ t.insts = [] ∧ t.sets = [] ∧ t.ctxs = [] ∧ t.mem = State.reset.mem ∧ t.lm = State.reset.lm ∧
      t.device = s.device ∧ (∀ c < 260, (t.core c).mappedOut = (s.core c).mappedOut)) ∧
  (∀ (core inst slot base j : Nat) (x : SuspInst) (t0 : TaskSet) (a : Word64) (s : State), find? s.suspd inst = some x →
    x.images = [] → x.queues = [] → s.suspBatch x inst = [inst] → s.saving x = false → find? s.sets x.set = some t0 →
    partGroups t0.part = 1 → s.freeTslot core = some slot → s.freeRun core (8 * partSpad t0.part) = some base →
    s.fits core t0 = true → t0.allows core = true → isSteward core = s.isStewardCtx t0.ctx →
    s.enginesUsed core ≤ 16 → demand t0.part ≤ (s.core core).free → (s.freeSlots core).head? = some j →
    ∃ t, exec (.suspendedRestore core [inst] [[a]]) s = .next t ∧ find? t.suspd inst = none ∧
      (t.inst (core * 16 + slot)).live = true ∧ (t.inst (core * 16 + slot)).serial = inst ∧
      (t.inst (core * 16 + slot)).taskix = x.taskix ∧
      (let g := t.grp (core * 64 + j)
       g.live = true ∧ g.priv = true ∧ g.pc = g.tvec ∧ g.tcause = 0 ∧ g.taddr = (if 0 ∈ x.suspended then a else 0) ∧
       g.status = .running ∧ g.gidx = 0) ∧ t.mem = s.mem)

/-- R250 to R254, R257 to R263: batches with the order of their requests, refreshes, scrubs, training, lane checks and bank tests
of a channel; a bank test parks its bank row by row, tests it, and restores it or retires it. The model's choices: that parking and
restoring go row by row (DESIGN CHOICE, unsafe: assumption log, 21); that an idle bank pays at once all the refreshes that it owes,
and what a batch comes to (DESIGN CHOICE, unsafe: assumption log, 5); that a row stands open from one batch to the next (DEDUCED,
unsafe: assumption log, 43). -/
def Obligations.HbmEvents : Prop :=
  (∀ (ch : Nat) (reqs : List MemReq) (s : State), ch < 256 → (s.chan ch).grant = false → reqs.length ≤ 768 →
    (∀ r ∈ reqs, (reqs.filter (fun x => x.core = r.core)).length ≤ 8 ∧ r.core.isSome = true ∧ r.cls < 6 ∧ r.acts ≠ [] ∧ r.bad = []) →
    (∀ r ∈ reqs, ∀ a ∈ r.acts, a.pch / 2 = ch ∧ a.bank < 64 ∧ a.row < 12288 ∧ (s.pchan a.pch).own = false) →
    (s.chan ch).batch = [] → (s.chan ch).opens = [] →
    let c := (s.boundary ch).chan ch
    ∃ t, exec (.batchForm ch reqs) s = .next t ∧ (t.chan ch).batch = reqs.flatMap MemReq.acts ∧
      (t.chan ch).opens = (serveReqs reqs.length c.openRows c.frame reqs).1 ∧
      (t.chan ch).frame = (serveReqs reqs.length c.openRows c.frame reqs).2 ∧
      (t.chan ch).corr = min ((s.chan ch).corr + (reqs.map MemReq.corrected).sum) (2 ^ 32 - 1) ∧
      (∀ p ∈ [2 * ch, 2 * ch + 1], ∀ o ∈ (t.pchan p).owed, (t.chan ch).busyBank p o.1 = true ∨ (s.pchan p).holdsRefresh o.1 = true) ∧
      t.mem = s.mem ∧ t.groups = s.groups) ∧
  (∀ (open_ : SMap Nat) (frame : Nat × Nat × Nat) (rs : List MemReq),
    (∀ r, rs.find? (hitsRow open_) = some r → nextReq open_ frame rs = some r) ∧
    (∀ r, (∀ x ∈ rs, hitsRow open_ x = false) → nextReq open_ frame rs = some r →
      r ∈ rs ∧ ((∃ x ∈ rs, x.cls = 0) → r.cls = 0) ∧ ((∀ x ∈ rs, x.cls ≠ 0) → (∃ x ∈ rs, x.cls = 1) → r.cls = 1) ∧
      rs.find? (fun x => x.cls = r.cls) = some r) ∧
    (∀ n, ∀ a ∈ (serveReqs n open_ frame rs).1, ∃ r ∈ rs, a ∈ r.acts)) ∧
  (∀ (pch bank : Nat) (s : State), pch < 512 → bank < 64 → (s.pchan pch).holdsRefresh bank = false →
    ∃ t, exec (.refreshDue pch bank) s = .next t ∧
      look 0 (t.pchan pch).owed bank = (if (s.chan (pch / 2)).busyBank pch bank then look 0 (s.pchan pch).owed bank + 1 else 0) ∧
      ((s.chan (pch / 2)).busyBank pch bank = false → find? (t.chan (pch / 2)).openRows (pch * 64 + bank) = none) ∧
      (t.chan (pch / 2)).batch = (s.chan (pch / 2)).batch ∧ (∀ c, c ≠ pch / 2 → t.chan c = s.chan c) ∧
      t.mem = s.mem ∧ t.groups = s.groups) ∧
  (∀ (ch : Nat) (s : State), ch < 256 → (s.chan ch).grant = false → (s.chan ch).batch = [] →
    (∃ p ∈ [2 * ch, 2 * ch + 1], ∃ o ∈ (s.pchan p).owed, 8 ≤ o.2) →
    ∃ t, exec (.allBankRefresh ch) s = .next t ∧ (t.pchan (2 * ch)).owed = [] ∧ (t.pchan (2 * ch + 1)).owed = [] ∧
      (∀ k, k / 64 = 2 * ch ∨ k / 64 = 2 * ch + 1 → find? (t.chan ch).openRows k = none) ∧ t.mem = s.mem ∧ t.groups = s.groups) ∧
  (∀ (a : RowAct) (n : Nat) (bad : List Nat) (s : State), a.pch < 512 → a.bank < 64 → a.row < 12288 → a.parityFails = false →
    (s.chan (a.pch / 2)).grant = false → (s.pchan a.pch).own = false →
    (∀ b ∈ (s.chan (a.pch / 2)).batch, ¬(b.pch = a.pch ∧ b.bank = a.bank ∧ b.row = a.row)) →
    bad.all (inRow a) = true → (s.pchan a.pch).hasScrubbed a = false → ∃ t, exec (.scrubRow a n bad) s = .next t ∧
      (t.chan (a.pch / 2)).corr = min ((s.chan (a.pch / 2)).corr + n) (2 ^ 32 - 1) ∧
      (t.chan (a.pch / 2)).uncorr = min ((s.chan (a.pch / 2)).uncorr + bad.length) (2 ^ 32 - 1) ∧
      (∀ w ∈ bad, s.device * 2 ^ 46 + w ∈ t.bad) ∧ (∀ w ∈ s.bad, w ∈ t.bad) ∧ t.mem = s.mem ∧ t.groups = s.groups) ∧
  (∀ (pch : Nat) (s : State), pch < 512 → (s.pchan pch).check = none →
    (∃ t, exec (.trainRelease pch) s = .next t ∧ t.pchan pch = { s.pchan pch with own := false } ∧ t.mem = s.mem ∧ t.groups = s.groups) ∧
    ((s.chan (pch / 2)).grant = false → (s.chan (pch / 2)).batch = [] →
      ∃ t, exec (.trainOwn pch) s = .next t ∧ t.pchan pch = { s.pchan pch with own := true } ∧ t.mem = s.mem ∧ t.groups = s.groups) ∧
    ((s.pchan pch).own = true → ∀ x ∈ [(Instr.readCheck pch, 1, 1440), (.writeCheck pch, 2, 1440), (.readWriteCheck pch, 3, 2880)],
      ∃ t, exec x.1 s = .next t ∧ t.pchan pch = { s.pchan pch with
        trcmd := x.2.1, check := some { op := x.2.1, ends := s.cycle + x.2.2 } } ∧ t.mem = s.mem ∧ t.groups = s.groups) ∧
    (∀ v : Word64, (s.pchan pch).ctlGood 0x18 v.toNat = true → ∃ t, exec (.laneRepair pch v) s = .next t ∧
      t.pchan pch = { s.pchan pch with lrep := v } ∧ t.mem = s.mem ∧ t.groups = s.groups) ∧
    (∀ v : Word64, 256 ≤ v.toNat → v.toNat < 2 ^ 16 → ∃ t, exec (.controlRegisterWrite pch 0x20 8 v) s = .next t ∧
      t.pchan pch = { s.pchan pch with rcth := v } ∧ t.mem = s.mem ∧ t.groups = s.groups) ∧
    (∀ (i : Nat) (v : Word64), i < 34 → v.toNat < 64 → (s.pchan pch).own = true →
      ∃ t, exec (.controlRegisterWrite pch (0x40 + i) 1 v) s = .next t ∧ (t.pchan pch).tap false i = v.toNat ∧
        (∀ j, j ≠ i → (t.pchan pch).tap false j = (s.pchan pch).tap false j) ∧ t.mem = s.mem ∧ t.groups = s.groups)) ∧
  (∀ (pch : Nat) (c : Check) (s : State), (s.pchan pch).check = some c → c.ends ≤ s.cycle →
    ∃ t, exec (.checkDone pch) s = .next t ∧
    (t.pchan pch).check = none ∧ (t.pchan pch).trres = BitVec.ofNat 64 ((s.pchan pch).result pch c.op s.free) ∧
    t.mem = s.mem ∧ t.groups = s.groups ∧
    ((fld (s.pchan pch).lrep.toNat 7 1 = 0 ∨ fld (s.pchan pch).lrep.toNat 15 1 = 0) → t.replace = s.replace)) ∧
  (∀ (pch bank : Nat) (s : State), pch < 512 → bank < 64 → (s.pchan pch).bistctl.getLsbD 0 = false →
    ∀ x ∈ [(Instr.bistMarch pch bank, 0), (.bistCheckerboard pch bank, 1), (.bistRetention pch bank, 2)],
    (3072 ≤ s.freeSlotsOf (pch / 2) → ∃ t, exec x.1 s = .next t ∧
      (t.pchan pch).bistctl = BitVec.ofNat 64 (bank * 2 ^ 16 + x.2 * 2 + 1) ∧ (t.pchan pch).bistState = 1 ∧ (t.pchan pch).copyRow = 0 ∧
      (t.chan (pch / 2)).parked = (s.chan (pch / 2)).parked + 3072 ∧ t.mem = s.mem ∧ t.groups = s.groups) ∧
    (s.freeSlotsOf (pch / 2) < 3072 → ∃ t, exec x.1 s = .next t ∧ (t.pchan pch).bistctl.getLsbD 0 = false ∧
      (t.pchan pch).bistres.getLsbD 61 = true ∧ t.chans = s.chans ∧ t.mem = s.mem ∧ t.groups = s.groups)) ∧
  (∀ (pch : Nat) (s : State), (s.pchan pch).bistState = 2 →
    let bank := fld (s.pchan pch).bistctl.toNat 16 6
    let fails := min (Config.bistFails pch bank (fld (s.pchan pch).bistctl.toNat 1 2) s.free) 12288
    ∃ t, exec (.bistTestDone pch) s = .next t ∧
      (fails ≤ look 4 (s.pchan pch).spares bank → look 4 (t.pchan pch).spares bank = look 4 (s.pchan pch).spares bank - fails ∧
        (t.pchan pch).retired = (s.pchan pch).retired ∧ (t.pchan pch).bistState = 3 ∧ (t.pchan pch).copyRow = 0) ∧
      (look 4 (s.pchan pch).spares bank < fails → bank ∈ (t.pchan pch).retired ∧ (t.pchan pch).bistctl.getLsbD 0 = false) ∧
      t.mem = s.mem ∧ t.groups = s.groups) ∧
  (∀ (pch : Nat) (s : State),
    let p := s.pchan pch
    let t := s.copyStep pch
    let own := p.own || (s.pchan (s.copyAct pch p.bistBank p.copyRow).pch).own
    (own = true → t = s) ∧ (own = false → p.bistState = 1 ∨ p.bistState = 3 → (s.chan (pch / 2)).grant = false →
    (p.copyRow + 1 < 12288 → (t.pchan pch).copyRow = p.copyRow + 1 ∧ (t.pchan pch).bistState = p.bistState) ∧
    (12288 ≤ p.copyRow + 1 → p.bistState = 1 → (t.pchan pch).bistState = 2 ∧ (t.chan (pch / 2)).parked = (s.chan (pch / 2)).parked) ∧
    (12288 ≤ p.copyRow + 1 → p.bistState = 3 → (t.pchan pch).bistState = 0 ∧ (t.pchan pch).bistctl.getLsbD 0 = false ∧
      (t.chan (pch / 2)).parked = (s.chan (pch / 2)).parked - 3072) ∧ t.mem = s.mem ∧ t.groups = s.groups)) ∧
  (∀ (a : RowAct) (s : State), ((s.pchan a.pch).inCopy a.bank a.row = false → s.landAct a = a) ∧
    ((s.pchan a.pch).inCopy a.bank a.row = true → s.landAct a = s.copyAct a.pch a.bank a.row)) ∧
  (∀ (p : PChan) (bank row : Nat), bank ∉ p.retired → p.bistBank = bank → (p.bistState = 0 → p.inCopy bank row = false) ∧
    (p.bistState = 1 → (p.inCopy bank row = true ↔ row < p.copyRow)) ∧ (p.bistState = 2 → p.inCopy bank row = true) ∧
    (p.bistState = 3 → (p.inCopy bank row = true ↔ p.copyRow ≤ row)))

/-- R180, R264 to R268, R275: a flit whose CRC matches and that is next is taken, one whose CRC fails counts; once the eighth
replay of a flit in a row has failed too the port retrains at half its lanes; planes go down and come up; a round closes with the
sum of its members' contributions in the order of their ranks, and after 100 µs with the NaN; a dropped packet counts at its port.
That the failures of one flit are in a row whatever other flits do between them is the model's reading (DEDUCED, unsafe: assumption
log, 44), and that a round's value is written at once its choice (DESIGN CHOICE, unsafe: assumption log, 40). -/
def Obligations.FabricEvents : Prop :=
  (∀ (port : Nat) (flit : List Byte) (s : State), port < 18 → (s.port port).step ≠ 3 → flit.length = 128 →
    (flitGood flit = true → flitSeq flit = (s.port port).rxSeq → flitVc flit ≠ 1 → ∃ t, exec (.flitReceive port flit) s = .next t ∧
      (t.port port).rxSeq = ((s.port port).rxSeq + 1) % 2 ^ 16 ∧ (t.port port).crcfail = (s.port port).crcfail ∧ t.mem = s.mem ∧
      t.groups = s.groups) ∧
    (flitGood flit = true → flitSeq flit = (s.port port).rxSeq → flitVc flit = 3 → flitDest flit = s.device → field flit 10 1 = 0 →
      (s.port port).kept.any (fun k => k.1 = field flit 8 2) = true →
      exec (.flitReceive port flit) s = exec (.flitReplay port (field flit 8 2)) s) ∧
    (flitGood flit = false → ∃ t, exec (.flitReceive port flit) s = .next t ∧ (t.port port).rxSeq = (s.port port).rxSeq ∧
      (t.port port).crcfail = min ((s.port port).crcfail + 1) (2 ^ 32 - 1) ∧ t.mem = s.mem ∧ t.groups = s.groups)) ∧
  (∀ (port seq : Nat) (s : State), port < 18 → (s.port port).step ≠ 3 → (s.port port).kept.any (fun k => k.1 = seq) = true →
    let n := look 0 (s.port port).failed seq + 1
    ∃ t, exec (.flitReplay port seq) s = .next t ∧ (t.port port).rxSeq = ((s.port port).rxSeq + 1) % 2 ^ 16 ∧ (t.port port).replay = min ((s.port port).replay + 1) (2 ^ 32 - 1) ∧
      (n ≤ 8 → (t.port port).step = (s.port port).step ∧ look 0 (t.port port).failed seq = n ∧
        ∀ q, q ≠ seq → look 0 (t.port port).failed q = look 0 (s.port port).failed q) ∧
      (8 < n → (t.port port).step = (s.port port).step + 1 ∧ (t.port port).retrain = min ((s.port port).retrain + 1) (2 ^ 32 - 1) ∧
        ((s.port port).step = 2 → s.device * 18 + port ∈ t.down)) ∧ t.mem = s.mem ∧ t.groups = s.groups) ∧
  (∀ (module plane : Nat) (s : State), plane < 18 →
    (∃ t, exec (.planeDown module plane) s = .next t ∧ (∀ x, x ∈ t.down ↔ x ∈ s.down ∨ x = module * 18 + plane) ∧ t.mem = s.mem ∧
      t.groups = s.groups) ∧
    (module ≠ s.device ∨ (s.port plane).step ≠ 3 → ∃ t, exec (.planeUp module plane) s = .next t ∧
      (∀ x, x ∈ t.down ↔ x ∈ s.down ∧ x ≠ module * 18 + plane) ∧ t.mem = s.mem ∧ t.groups = s.groups)) ∧
  (∀ (n : Nat) (r : Round) (s : State) (other : Nat) (v a : Word32), s.rounds = [(n, r)] → s.keyHeld r.key = false →
    (look [] s.msets r.mset = [s.device, other] → other ≠ s.device → r.parts = [(s.device, a)] →
      ∃ t, exec (.multicastRoundClose { key := r.key, mset := r.mset } [(other, v)]) s = .next t ∧ t.rounds = [] ∧
        t.mem = wrLE s.mem r.key 4 (BitVec.ofNat 32 (if s.device < other then f32.add .rne a.toNat v.toNat
          else f32.add .rne v.toNat a.toNat).1).toNat ∧ t.groups = s.groups ∧ t.lm = s.lm) ∧
    (look [] s.msets r.mset = [s.device, other] → other ≠ s.device → r.parts = [] →
      ∃ t, exec (.multicastRoundClose { key := r.key, mset := r.mset } [(other, v)]) s = .next t ∧
        t.rounds = [(n, { r with parts := [(other, v)] })] ∧ t.mem = s.mem ∧ t.groups = s.groups ∧ t.lm = s.lm) ∧
    (r.start + 180000 ≤ s.cycle → ∃ t, exec (.multicastTimeout n) s = .next t ∧ find? t.rounds n = none ∧
      t.mem = wrLE s.mem r.key 4 0x7FC00000 ∧ t.groups = s.groups ∧ t.lm = s.lm) ∧
    (s.cycle < r.start + 180000 → exec (.multicastTimeout n) s = .next s)) ∧
  (∀ s : State, exec (.uePacketDrop 0) s = .next { s with ueDrop0 := min (s.ueDrop0 + 1) (2 ^ 32 - 1) } ∧
    exec (.uePacketDrop 1) s = .next { s with ueDrop1 := min (s.ueDrop1 + 1) (2 ^ 32 - 1) })
end

