-- ==== Sys2Proof/Laws/Store.lean ====
section
/-! SUPPORT. Sparse data: what a read after a write gives, and that every memory operation keeps the canonical form. -/

namespace Sys2Proof.Machine
open Sys2Proof

variable {α : Type}

/-! ## Maps -/

@[simp] theorem find?_put_same (m : SMap α) (k : Nat) (v : α) : find? (put m k v) k = some v := by
  induction m with
  | nil => simp [put, find?]
  | cons c t ih =>
    obtain ⟨k', v'⟩ := c
    simp only [put]
    split
    · simp [find?]
    · split
      · simp [find?]
      · rename_i h
        simp [find?, h, ih]

theorem find?_put_other (m : SMap α) {k j : Nat} (v : α) (h : j ≠ k) : find? (put m k v) j = find? m j := by
  induction m with
  | nil => simp [put, find?, h.symm]
  | cons c t ih =>
    obtain ⟨k', v'⟩ := c
    simp only [put]
    split
    · simp [find?, h.symm]
    · split
      · rename_i h'
        subst h'
        simp [find?, h.symm]
      · simp [find?, ih]

@[simp] theorem look_put_same (d : α) (m : SMap α) (k : Nat) (v : α) : look d (put m k v) k = v := by
  simp [look]

theorem look_put_other (d : α) (m : SMap α) {k j : Nat} (v : α) (h : j ≠ k) : look d (put m k v) j = look d m j := by
  simp [look, find?_put_other m v h]

theorem look_put (d : α) (m : SMap α) (k j : Nat) (v : α) : look d (put m k v) j = if j = k then v else look d m j := by
  by_cases h : j = k
  · simp [h]
  · simp [h, look_put_other d m v h]

theorem find?_filter_of (m : SMap α) (p : Nat → Bool) (k : Nat) :
    find? (m.filter (fun c => p c.1)) k = if p k then find? m k else none := by
  induction m with
  | nil => simp [find?]
  | cons c t ih =>
    obtain ⟨k', v'⟩ := c
    by_cases hp : p k' = true
    · by_cases hk : k' = k
      · subst hk; simp [find?, hp]
      · simp [find?, hp, hk, ih]
    · by_cases hk : k' = k
      · subst hk; simp [hp, ih]
      · simp [find?, hp, hk, ih]

@[simp] theorem find?_del_same (m : SMap α) (k : Nat) : find? (del m k) k = none := by
  have h := find?_filter_of m (fun c => decide (c ≠ k)) k
  simpa [del] using h

theorem find?_del_other (m : SMap α) {k j : Nat} (h : j ≠ k) : find? (del m k) j = find? m j := by
  have h' := find?_filter_of m (fun c => decide (c ≠ k)) j
  simpa [del, h] using h'

theorem find?_none_of_lt {m : SMap α} {k : Nat} (h : ∀ c ∈ m, k < c.1) : find? m k = none := by
  induction m with
  | nil => rfl
  | cons c t ih =>
    have := h c (by simp)
    simp only [find?]
    rw [if_neg (by omega)]
    exact ih (fun d hd => h d (by simp [hd]))

/-- Keys strictly rising. -/
def Rising (m : SMap α) : Prop := (m.map Prod.fst).Pairwise (· < ·)

theorem rising_nil : Rising ([] : SMap α) := List.Pairwise.nil

theorem rising_cons {c : Nat × α} {m : SMap α} : Rising (c :: m) ↔ (∀ d ∈ m, c.1 < d.1) ∧ Rising m := by
  simp [Rising, List.pairwise_cons]

theorem Rising.filter {m : SMap α} (h : Rising m) (p : Nat × α → Bool) : Rising (m.filter p) := by
  unfold Rising at *
  exact List.Pairwise.sublist (List.Sublist.map _ List.filter_sublist) h

theorem mem_put {m : SMap α} {k : Nat} {v : α} {c : Nat × α} (h : c ∈ put m k v) : c = (k, v) ∨ c ∈ m := by
  induction m with
  | nil => simp [put] at h; exact .inl h
  | cons d t ih =>
    obtain ⟨k', v'⟩ := d
    simp only [put] at h
    split at h
    · simp at h; rcases h with h | h | h <;> simp [h]
    · split at h
      · simp at h; rcases h with h | h <;> simp [h]
      · simp at h
        rcases h with h | h
        · simp [h]
        · rcases ih h with h | h <;> simp [h]

theorem Rising.put {m : SMap α} (h : Rising m) (k : Nat) (v : α) : Rising (put m k v) := by
  induction m with
  | nil => simp [Machine.put, Rising]
  | cons d t ih =>
    obtain ⟨k', v'⟩ := d
    have ⟨hd, ht⟩ := rising_cons.1 h
    simp only [Machine.put]
    split
    · rename_i hlt
      refine rising_cons.2 ⟨fun x hx => ?_, h⟩
      simp at hx
      rcases hx with hx | hx
      · simpa [hx] using hlt
      · have := hd x hx
        simp at this ⊢
        omega
    · split
      · rename_i heq
        subst heq
        exact rising_cons.2 ⟨hd, ht⟩
      · refine rising_cons.2 ⟨fun x hx => ?_, ih ht⟩
        rcases mem_put hx with rfl | hx
        · simp; omega
        · exact hd x hx

theorem Rising.del {m : SMap α} (h : Rising m) (k : Nat) : Rising (del m k) := h.filter _

/-! ## Memories of bytes -/

theorem Mem.wf_iff (m : Mem) : Mem.wf m = true ↔ Rising m ∧ ∀ c ∈ m, c.2 ≠ unlistedByte := by
  simp [Mem.wf, Rising]

theorem Mem.wf_nil : Mem.wf [] = true := by decide

theorem Mem.wf_filter {m : Mem} (h : Mem.wf m = true) (p : Nat × Byte → Bool) : Mem.wf (m.filter p) = true := by
  rw [Mem.wf_iff] at *
  exact ⟨h.1.filter p, fun c hc => h.2 c (List.mem_filter.1 hc).1⟩

theorem Mem.wf_wrByte {m : Mem} (h : Mem.wf m = true) (a : Nat) (b : Byte) : Mem.wf (wrByte m a b) = true := by
  unfold wrByte
  split
  · exact Mem.wf_filter h _
  · rename_i hb
    rw [Mem.wf_iff] at *
    refine ⟨h.1.put a b, fun c hc => ?_⟩
    rcases mem_put hc with rfl | hc
    · exact hb
    · exact h.2 c hc

theorem Mem.wf_wrLE {m : Mem} (h : Mem.wf m = true) (a n v : Nat) : Mem.wf (wrLE m a n v) = true := by
  induction n generalizing m a v with
  | zero => exact h
  | succ n ih => exact ih (Mem.wf_wrByte h _ _) _ _

theorem Mem.wf_wrBytes {m : Mem} (h : Mem.wf m = true) (cs : List (Nat × Byte)) : Mem.wf (wrBytes m cs) = true := by
  induction cs generalizing m with
  | nil => exact h
  | cons c t ih => exact ih (Mem.wf_wrByte h _ _)

theorem Mem.wf_wipe {m : Mem} (h : Mem.wf m = true) (a n : Nat) : Mem.wf (wipe m a n) = true := Mem.wf_filter h _

theorem Mem.wf_delWhere {m : Mem} (h : Mem.wf m = true) (p : Nat → Bool) : Mem.wf (delWhere m p) = true :=
  Mem.wf_filter h _

@[simp] theorem rdByte_wrByte_same (m : Mem) (a : Nat) (b : Byte) : rdByte (wrByte m a b) a = b := by
  unfold rdByte wrByte
  split
  · rename_i h
    simp [look, h]
  · simp

theorem rdByte_wrByte_other (m : Mem) {a x : Nat} (b : Byte) (h : x ≠ a) : rdByte (wrByte m a b) x = rdByte m x := by
  unfold rdByte wrByte
  split
  · simp [look, find?_del_other m h]
  · exact look_put_other _ m b h

theorem rdByte_wrByte (m : Mem) (a x : Nat) (b : Byte) : rdByte (wrByte m a b) x = if x = a then b else rdByte m x := by
  by_cases h : x = a
  · simp [h]
  · simp [h, rdByte_wrByte_other m b h]

theorem rdByte_wrLE_outside (m : Mem) (a n v : Nat) {x : Nat} (h : x < a ∨ a + n ≤ x) :
    rdByte (wrLE m a n v) x = rdByte m x := by
  induction n generalizing m a v with
  | zero => rfl
  | succ n ih =>
    have hx : x ≠ a := by omega
    rw [wrLE, ih _ _ _ (by omega), rdByte_wrByte_other m _ hx]

theorem rdLE_congr (m m' : Mem) (a n : Nat) (h : ∀ x, a ≤ x → x < a + n → rdByte m x = rdByte m' x) :
    rdLE m a n = rdLE m' a n := by
  induction n generalizing a with
  | zero => rfl
  | succ n ih =>
    rw [rdLE, rdLE, h a (by omega) (by omega), ih (a + 1) (fun x h1 h2 => h x (by omega) (by omega))]

/-- A read after a write to the same place gives the value written. -/
theorem rdLE_wrLE_same (m : Mem) (a n v : Nat) : rdLE (wrLE m a n v) a n = v % 256 ^ n := by
  induction n generalizing m a v with
  | zero => simp [rdLE, Nat.mod_one]
  | succ n ih =>
    rw [rdLE, wrLE, ih, rdByte_wrLE_outside _ _ _ _ (.inl (by omega)), rdByte_wrByte_same]
    have h : (BitVec.ofNat 8 v).toNat = v % 256 := by simp
    rw [h, Nat.pow_succ, Nat.mul_comm (256 ^ n) 256, Nat.mod_mul]

/-- A write leaves every read outside its bytes alone. -/
theorem rdLE_wrLE_outside (m : Mem) (a n v b k : Nat) (h : b + k ≤ a ∨ a + n ≤ b) :
    rdLE (wrLE m a n v) b k = rdLE m b k :=
  rdLE_congr _ _ _ _ (fun x _ _ => rdByte_wrLE_outside m a n v (by omega))

theorem rdLE_lt (m : Mem) (a n : Nat) : rdLE m a n < 256 ^ n := by
  induction n generalizing a with
  | zero => simp [rdLE]
  | succ n ih =>
    have h := ih (a + 1)
    have hb := (rdByte m a).isLt
    rw [rdLE, Nat.pow_succ]
    omega

theorem rdByte_wrBytes_outside (m : Mem) (cs : List (Nat × Byte)) {x : Nat} (h : ∀ c ∈ cs, c.1 ≠ x) :
    rdByte (wrBytes m cs) x = rdByte m x := by
  induction cs generalizing m with
  | nil => rfl
  | cons c t ih =>
    rw [wrBytes, ih _ (fun d hd => h d (by simp [hd])), rdByte_wrByte_other m c.2 (h c (by simp)).symm]

theorem rdByte_wipe (m : Mem) (a n x : Nat) :
    rdByte (wipe m a n) x = if a ≤ x ∧ x < a + n then unlistedByte else rdByte m x := by
  have h := find?_filter_of m (fun c => decide (c < a ∨ a + n ≤ c)) x
  unfold rdByte wipe look
  rw [h]
  by_cases hx : a ≤ x ∧ x < a + n
  · rw [if_pos hx, if_neg (by simp; omega)]
    rfl
  · rw [if_neg hx, if_pos (by simp; omega)]

end Sys2Proof.Machine
end

