-- ==== Sys2Proof/Laws/State.lean ====
section
/-! SUPPORT. What each update of the state and of a group leaves of every field. -/

namespace Sys2Proof.Machine
open Sys2Proof

@[simp] theorem State.setGrp_groups (s : State) (k : Nat) (x : Group) : (s.setGrp k x).groups = put s.groups k x := rfl
@[simp] theorem State.setGrp_insts (s : State) (k : Nat) (x : Group) : (s.setGrp k x).insts = s.insts := rfl
@[simp] theorem State.setGrp_cores (s : State) (k : Nat) (x : Group) : (s.setGrp k x).cores = s.cores := rfl
@[simp] theorem State.setGrp_lm (s : State) (k : Nat) (x : Group) : (s.setGrp k x).lm = s.lm := rfl
@[simp] theorem State.setGrp_full (s : State) (k : Nat) (x : Group) : (s.setGrp k x).full = s.full := rfl
@[simp] theorem State.setGrp_bstore (s : State) (k : Nat) (x : Group) : (s.setGrp k x).bstore = s.bstore := rfl
@[simp] theorem State.setGrp_mem (s : State) (k : Nat) (x : Group) : (s.setGrp k x).mem = s.mem := rfl
@[simp] theorem State.setGrp_homes (s : State) (k : Nat) (x : Group) : (s.setGrp k x).homes = s.homes := rfl
@[simp] theorem State.setGrp_bad (s : State) (k : Nat) (x : Group) : (s.setGrp k x).bad = s.bad := rfl
@[simp] theorem State.setGrp_sramBad (s : State) (k : Nat) (x : Group) : (s.setGrp k x).sramBad = s.sramBad := rfl
@[simp] theorem State.setGrp_sramFixed (s : State) (k : Nat) (x : Group) : (s.setGrp k x).sramFixed = s.sramFixed := rfl
@[simp] theorem State.setGrp_held (s : State) (k : Nat) (x : Group) : (s.setGrp k x).held = s.held := rfl
@[simp] theorem State.setGrp_pins (s : State) (k : Nat) (x : Group) : (s.setGrp k x).pins = s.pins := rfl
@[simp] theorem State.setGrp_refusals (s : State) (k : Nat) (x : Group) : (s.setGrp k x).refusals = s.refusals := rfl
@[simp] theorem State.setGrp_aholds (s : State) (k : Nat) (x : Group) : (s.setGrp k x).aholds = s.aholds := rfl
@[simp] theorem State.setGrp_svcStores (s : State) (k : Nat) (x : Group) : (s.setGrp k x).svcStores = s.svcStores := rfl
@[simp] theorem State.setGrp_farSeen (s : State) (k : Nat) (x : Group) : (s.setGrp k x).farSeen = s.farSeen := rfl
@[simp] theorem State.setGrp_farQueue (s : State) (k : Nat) (x : Group) : (s.setGrp k x).farQueue = s.farQueue := rfl
@[simp] theorem State.setGrp_forced (s : State) (k : Nat) (x : Group) : (s.setGrp k x).forced = s.forced := rfl
@[simp] theorem State.setGrp_units (s : State) (k : Nat) (x : Group) : (s.setGrp k x).units = s.units := rfl
@[simp] theorem State.setGrp_transit (s : State) (k : Nat) (x : Group) : (s.setGrp k x).transit = s.transit := rfl
@[simp] theorem State.setGrp_abroad (s : State) (k : Nat) (x : Group) : (s.setGrp k x).abroad = s.abroad := rfl
@[simp] theorem State.setGrp_binsOut (s : State) (k : Nat) (x : Group) : (s.setGrp k x).binsOut = s.binsOut := rfl
@[simp] theorem State.setGrp_farBins (s : State) (k : Nat) (x : Group) : (s.setGrp k x).farBins = s.farBins := rfl
@[simp] theorem State.setGrp_farCommits (s : State) (k : Nat) (x : Group) : (s.setGrp k x).farCommits = s.farCommits := rfl
@[simp] theorem State.setGrp_lostOrigins (s : State) (k : Nat) (x : Group) : (s.setGrp k x).lostOrigins = s.lostOrigins := rfl
@[simp] theorem State.setGrp_chans (s : State) (k : Nat) (x : Group) : (s.setGrp k x).chans = s.chans := rfl
@[simp] theorem State.setGrp_commits (s : State) (k : Nat) (x : Group) : (s.setGrp k x).commits = s.commits := rfl
@[simp] theorem State.setGrp_nextCommit (s : State) (k : Nat) (x : Group) : (s.setGrp k x).nextCommit = s.nextCommit := rfl
@[simp] theorem State.setGrp_noticesOut (s : State) (k : Nat) (x : Group) : (s.setGrp k x).noticesOut = s.noticesOut := rfl
@[simp] theorem State.setGrp_acks (s : State) (k : Nat) (x : Group) : (s.setGrp k x).acks = s.acks := rfl
@[simp] theorem State.setGrp_pchans (s : State) (k : Nat) (x : Group) : (s.setGrp k x).pchans = s.pchans := rfl
@[simp] theorem State.setGrp_sets (s : State) (k : Nat) (x : Group) : (s.setGrp k x).sets = s.sets := rfl
@[simp] theorem State.setGrp_nextSet (s : State) (k : Nat) (x : Group) : (s.setGrp k x).nextSet = s.nextSet := rfl
@[simp] theorem State.setGrp_spill (s : State) (k : Nat) (x : Group) : (s.setGrp k x).spill = s.spill := rfl
@[simp] theorem State.setGrp_spillMax (s : State) (k : Nat) (x : Group) : (s.setGrp k x).spillMax = s.spillMax := rfl
@[simp] theorem State.setGrp_resv (s : State) (k : Nat) (x : Group) : (s.setGrp k x).resv = s.resv := rfl
@[simp] theorem State.setGrp_rot (s : State) (k : Nat) (x : Group) : (s.setGrp k x).rot = s.rot := rfl
@[simp] theorem State.setGrp_suspd (s : State) (k : Nat) (x : Group) : (s.setGrp k x).suspd = s.suspd := rfl
@[simp] theorem State.setGrp_graphs (s : State) (k : Nat) (x : Group) : (s.setGrp k x).graphs = s.graphs := rfl
@[simp] theorem State.setGrp_nextGraph (s : State) (k : Nat) (x : Group) : (s.setGrp k x).nextGraph = s.nextGraph := rfl
@[simp] theorem State.setGrp_ctxs (s : State) (k : Nat) (x : Group) : (s.setGrp k x).ctxs = s.ctxs := rfl
@[simp] theorem State.setGrp_nextCtx (s : State) (k : Nat) (x : Group) : (s.setGrp k x).nextCtx = s.nextCtx := rfl
@[simp] theorem State.setGrp_mapped (s : State) (k : Nat) (x : Group) : (s.setGrp k x).mapped = s.mapped := rfl
@[simp] theorem State.setGrp_ring (s : State) (k : Nat) (x : Group) : (s.setGrp k x).ring = s.ring := rfl
@[simp] theorem State.setGrp_ringBase (s : State) (k : Nat) (x : Group) : (s.setGrp k x).ringBase = s.ringBase := rfl
@[simp] theorem State.setGrp_nextSeq (s : State) (k : Nat) (x : Group) : (s.setGrp k x).nextSeq = s.nextSeq := rfl
@[simp] theorem State.setGrp_nextSerial (s : State) (k : Nat) (x : Group) : (s.setGrp k x).nextSerial = s.nextSerial := rfl
@[simp] theorem State.setGrp_nextWin (s : State) (k : Nat) (x : Group) : (s.setGrp k x).nextWin = s.nextWin := rfl
@[simp] theorem State.setGrp_access (s : State) (k : Nat) (x : Group) : (s.setGrp k x).access = s.access := rfl
@[simp] theorem State.setGrp_conns (s : State) (k : Nat) (x : Group) : (s.setGrp k x).conns = s.conns := rfl
@[simp] theorem State.setGrp_xfers (s : State) (k : Nat) (x : Group) : (s.setGrp k x).xfers = s.xfers := rfl
@[simp] theorem State.setGrp_replies (s : State) (k : Nat) (x : Group) : (s.setGrp k x).replies = s.replies := rfl
@[simp] theorem State.setGrp_bulk (s : State) (k : Nat) (x : Group) : (s.setGrp k x).bulk = s.bulk := rfl
@[simp] theorem State.setGrp_dropped (s : State) (k : Nat) (x : Group) : (s.setGrp k x).dropped = s.dropped := rfl
@[simp] theorem State.setGrp_msets (s : State) (k : Nat) (x : Group) : (s.setGrp k x).msets = s.msets := rfl
@[simp] theorem State.setGrp_rounds (s : State) (k : Nat) (x : Group) : (s.setGrp k x).rounds = s.rounds := rfl
@[simp] theorem State.setGrp_nextRound (s : State) (k : Nat) (x : Group) : (s.setGrp k x).nextRound = s.nextRound := rfl
@[simp] theorem State.setGrp_ports (s : State) (k : Nat) (x : Group) : (s.setGrp k x).ports = s.ports := rfl
@[simp] theorem State.setGrp_down (s : State) (k : Nat) (x : Group) : (s.setGrp k x).down = s.down := rfl
@[simp] theorem State.setGrp_remote (s : State) (k : Nat) (x : Group) : (s.setGrp k x).remote = s.remote := rfl
@[simp] theorem State.setGrp_nextTag (s : State) (k : Nat) (x : Group) : (s.setGrp k x).nextTag = s.nextTag := rfl
@[simp] theorem State.setGrp_ueDrop0 (s : State) (k : Nat) (x : Group) : (s.setGrp k x).ueDrop0 = s.ueDrop0 := rfl
@[simp] theorem State.setGrp_ueDrop1 (s : State) (k : Nat) (x : Group) : (s.setGrp k x).ueDrop1 = s.ueDrop1 := rfl
@[simp] theorem State.setGrp_throttles (s : State) (k : Nat) (x : Group) : (s.setGrp k x).throttles = s.throttles := rfl
@[simp] theorem State.setGrp_replace (s : State) (k : Nat) (x : Group) : (s.setGrp k x).replace = s.replace := rfl
@[simp] theorem State.setGrp_flash (s : State) (k : Nat) (x : Group) : (s.setGrp k x).flash = s.flash := rfl
@[simp] theorem State.setGrp_writing (s : State) (k : Nat) (x : Group) : (s.setGrp k x).writing = s.writing := rfl
@[simp] theorem State.setGrp_toWrite (s : State) (k : Nat) (x : Group) : (s.setGrp k x).toWrite = s.toWrite := rfl
@[simp] theorem State.setGrp_image (s : State) (k : Nat) (x : Group) : (s.setGrp k x).image = s.image := rfl
@[simp] theorem State.setGrp_booted (s : State) (k : Nat) (x : Group) : (s.setGrp k x).booted = s.booted := rfl
@[simp] theorem State.setGrp_device (s : State) (k : Nat) (x : Group) : (s.setGrp k x).device = s.device := rfl
@[simp] theorem State.setGrp_cycle (s : State) (k : Nat) (x : Group) : (s.setGrp k x).cycle = s.cycle := rfl
@[simp] theorem State.setGrp_agenda (s : State) (k : Nat) (x : Group) : (s.setGrp k x).agenda = s.agenda := rfl
@[simp] theorem State.setGrp_cur (s : State) (k : Nat) (x : Group) : (s.setGrp k x).cur = s.cur := rfl
@[simp] theorem State.setGrp_free (s : State) (k : Nat) (x : Group) : (s.setGrp k x).free = s.free := rfl
@[simp] theorem State.grp_setGrp_same (s : State) (k : Nat) (x : Group) : (s.setGrp k x).grp k = x := by
  simp [State.grp, State.setGrp]
theorem State.grp_setGrp_other (s : State) {k j : Nat} (x : Group) (h : j ≠ k) : (s.setGrp k x).grp j = s.grp j := by
  simp [State.grp, State.setGrp, look_put_other _ _ _ h]
@[simp] theorem State.inst_setGrp (s : State) (k j : Nat) (x : Group) : (s.setGrp k x).inst j = s.inst j := rfl
@[simp] theorem State.core_setGrp (s : State) (k j : Nat) (x : Group) : (s.setGrp k x).core j = s.core j := rfl
@[simp] theorem State.chan_setGrp (s : State) (k j : Nat) (x : Group) : (s.setGrp k x).chan j = s.chan j := rfl
@[simp] theorem State.pchan_setGrp (s : State) (k j : Nat) (x : Group) : (s.setGrp k x).pchan j = s.pchan j := rfl
@[simp] theorem State.bunit_setGrp (s : State) (k j : Nat) (x : Group) : (s.setGrp k x).bunit j = s.bunit j := rfl

@[simp] theorem State.setInst_groups (s : State) (k : Nat) (x : Inst) : (s.setInst k x).groups = s.groups := rfl
@[simp] theorem State.setInst_insts (s : State) (k : Nat) (x : Inst) : (s.setInst k x).insts = put s.insts k x := rfl
@[simp] theorem State.setInst_cores (s : State) (k : Nat) (x : Inst) : (s.setInst k x).cores = s.cores := rfl
@[simp] theorem State.setInst_lm (s : State) (k : Nat) (x : Inst) : (s.setInst k x).lm = s.lm := rfl
@[simp] theorem State.setInst_full (s : State) (k : Nat) (x : Inst) : (s.setInst k x).full = s.full := rfl
@[simp] theorem State.setInst_bstore (s : State) (k : Nat) (x : Inst) : (s.setInst k x).bstore = s.bstore := rfl
@[simp] theorem State.setInst_mem (s : State) (k : Nat) (x : Inst) : (s.setInst k x).mem = s.mem := rfl
@[simp] theorem State.setInst_homes (s : State) (k : Nat) (x : Inst) : (s.setInst k x).homes = s.homes := rfl
@[simp] theorem State.setInst_bad (s : State) (k : Nat) (x : Inst) : (s.setInst k x).bad = s.bad := rfl
@[simp] theorem State.setInst_sramBad (s : State) (k : Nat) (x : Inst) : (s.setInst k x).sramBad = s.sramBad := rfl
@[simp] theorem State.setInst_sramFixed (s : State) (k : Nat) (x : Inst) : (s.setInst k x).sramFixed = s.sramFixed := rfl
@[simp] theorem State.setInst_held (s : State) (k : Nat) (x : Inst) : (s.setInst k x).held = s.held := rfl
@[simp] theorem State.setInst_pins (s : State) (k : Nat) (x : Inst) : (s.setInst k x).pins = s.pins := rfl
@[simp] theorem State.setInst_refusals (s : State) (k : Nat) (x : Inst) : (s.setInst k x).refusals = s.refusals := rfl
@[simp] theorem State.setInst_aholds (s : State) (k : Nat) (x : Inst) : (s.setInst k x).aholds = s.aholds := rfl
@[simp] theorem State.setInst_svcStores (s : State) (k : Nat) (x : Inst) : (s.setInst k x).svcStores = s.svcStores := rfl
@[simp] theorem State.setInst_farSeen (s : State) (k : Nat) (x : Inst) : (s.setInst k x).farSeen = s.farSeen := rfl
@[simp] theorem State.setInst_farQueue (s : State) (k : Nat) (x : Inst) : (s.setInst k x).farQueue = s.farQueue := rfl
@[simp] theorem State.setInst_forced (s : State) (k : Nat) (x : Inst) : (s.setInst k x).forced = s.forced := rfl
@[simp] theorem State.setInst_units (s : State) (k : Nat) (x : Inst) : (s.setInst k x).units = s.units := rfl
@[simp] theorem State.setInst_transit (s : State) (k : Nat) (x : Inst) : (s.setInst k x).transit = s.transit := rfl
@[simp] theorem State.setInst_abroad (s : State) (k : Nat) (x : Inst) : (s.setInst k x).abroad = s.abroad := rfl
@[simp] theorem State.setInst_binsOut (s : State) (k : Nat) (x : Inst) : (s.setInst k x).binsOut = s.binsOut := rfl
@[simp] theorem State.setInst_farBins (s : State) (k : Nat) (x : Inst) : (s.setInst k x).farBins = s.farBins := rfl
@[simp] theorem State.setInst_farCommits (s : State) (k : Nat) (x : Inst) : (s.setInst k x).farCommits = s.farCommits := rfl
@[simp] theorem State.setInst_lostOrigins (s : State) (k : Nat) (x : Inst) : (s.setInst k x).lostOrigins = s.lostOrigins := rfl
@[simp] theorem State.setInst_chans (s : State) (k : Nat) (x : Inst) : (s.setInst k x).chans = s.chans := rfl
@[simp] theorem State.setInst_commits (s : State) (k : Nat) (x : Inst) : (s.setInst k x).commits = s.commits := rfl
@[simp] theorem State.setInst_nextCommit (s : State) (k : Nat) (x : Inst) : (s.setInst k x).nextCommit = s.nextCommit := rfl
@[simp] theorem State.setInst_noticesOut (s : State) (k : Nat) (x : Inst) : (s.setInst k x).noticesOut = s.noticesOut := rfl
@[simp] theorem State.setInst_acks (s : State) (k : Nat) (x : Inst) : (s.setInst k x).acks = s.acks := rfl
@[simp] theorem State.setInst_pchans (s : State) (k : Nat) (x : Inst) : (s.setInst k x).pchans = s.pchans := rfl
@[simp] theorem State.setInst_sets (s : State) (k : Nat) (x : Inst) : (s.setInst k x).sets = s.sets := rfl
@[simp] theorem State.setInst_nextSet (s : State) (k : Nat) (x : Inst) : (s.setInst k x).nextSet = s.nextSet := rfl
@[simp] theorem State.setInst_spill (s : State) (k : Nat) (x : Inst) : (s.setInst k x).spill = s.spill := rfl
@[simp] theorem State.setInst_spillMax (s : State) (k : Nat) (x : Inst) : (s.setInst k x).spillMax = s.spillMax := rfl
@[simp] theorem State.setInst_resv (s : State) (k : Nat) (x : Inst) : (s.setInst k x).resv = s.resv := rfl
@[simp] theorem State.setInst_rot (s : State) (k : Nat) (x : Inst) : (s.setInst k x).rot = s.rot := rfl
@[simp] theorem State.setInst_suspd (s : State) (k : Nat) (x : Inst) : (s.setInst k x).suspd = s.suspd := rfl
@[simp] theorem State.setInst_graphs (s : State) (k : Nat) (x : Inst) : (s.setInst k x).graphs = s.graphs := rfl
@[simp] theorem State.setInst_nextGraph (s : State) (k : Nat) (x : Inst) : (s.setInst k x).nextGraph = s.nextGraph := rfl
@[simp] theorem State.setInst_ctxs (s : State) (k : Nat) (x : Inst) : (s.setInst k x).ctxs = s.ctxs := rfl
@[simp] theorem State.setInst_nextCtx (s : State) (k : Nat) (x : Inst) : (s.setInst k x).nextCtx = s.nextCtx := rfl
@[simp] theorem State.setInst_mapped (s : State) (k : Nat) (x : Inst) : (s.setInst k x).mapped = s.mapped := rfl
@[simp] theorem State.setInst_ring (s : State) (k : Nat) (x : Inst) : (s.setInst k x).ring = s.ring := rfl
@[simp] theorem State.setInst_ringBase (s : State) (k : Nat) (x : Inst) : (s.setInst k x).ringBase = s.ringBase := rfl
@[simp] theorem State.setInst_nextSeq (s : State) (k : Nat) (x : Inst) : (s.setInst k x).nextSeq = s.nextSeq := rfl
@[simp] theorem State.setInst_nextSerial (s : State) (k : Nat) (x : Inst) : (s.setInst k x).nextSerial = s.nextSerial := rfl
@[simp] theorem State.setInst_nextWin (s : State) (k : Nat) (x : Inst) : (s.setInst k x).nextWin = s.nextWin := rfl
@[simp] theorem State.setInst_access (s : State) (k : Nat) (x : Inst) : (s.setInst k x).access = s.access := rfl
@[simp] theorem State.setInst_conns (s : State) (k : Nat) (x : Inst) : (s.setInst k x).conns = s.conns := rfl
@[simp] theorem State.setInst_xfers (s : State) (k : Nat) (x : Inst) : (s.setInst k x).xfers = s.xfers := rfl
@[simp] theorem State.setInst_replies (s : State) (k : Nat) (x : Inst) : (s.setInst k x).replies = s.replies := rfl
@[simp] theorem State.setInst_bulk (s : State) (k : Nat) (x : Inst) : (s.setInst k x).bulk = s.bulk := rfl
@[simp] theorem State.setInst_dropped (s : State) (k : Nat) (x : Inst) : (s.setInst k x).dropped = s.dropped := rfl
@[simp] theorem State.setInst_msets (s : State) (k : Nat) (x : Inst) : (s.setInst k x).msets = s.msets := rfl
@[simp] theorem State.setInst_rounds (s : State) (k : Nat) (x : Inst) : (s.setInst k x).rounds = s.rounds := rfl
@[simp] theorem State.setInst_nextRound (s : State) (k : Nat) (x : Inst) : (s.setInst k x).nextRound = s.nextRound := rfl
@[simp] theorem State.setInst_ports (s : State) (k : Nat) (x : Inst) : (s.setInst k x).ports = s.ports := rfl
@[simp] theorem State.setInst_down (s : State) (k : Nat) (x : Inst) : (s.setInst k x).down = s.down := rfl
@[simp] theorem State.setInst_remote (s : State) (k : Nat) (x : Inst) : (s.setInst k x).remote = s.remote := rfl
@[simp] theorem State.setInst_nextTag (s : State) (k : Nat) (x : Inst) : (s.setInst k x).nextTag = s.nextTag := rfl
@[simp] theorem State.setInst_ueDrop0 (s : State) (k : Nat) (x : Inst) : (s.setInst k x).ueDrop0 = s.ueDrop0 := rfl
@[simp] theorem State.setInst_ueDrop1 (s : State) (k : Nat) (x : Inst) : (s.setInst k x).ueDrop1 = s.ueDrop1 := rfl
@[simp] theorem State.setInst_throttles (s : State) (k : Nat) (x : Inst) : (s.setInst k x).throttles = s.throttles := rfl
@[simp] theorem State.setInst_replace (s : State) (k : Nat) (x : Inst) : (s.setInst k x).replace = s.replace := rfl
@[simp] theorem State.setInst_flash (s : State) (k : Nat) (x : Inst) : (s.setInst k x).flash = s.flash := rfl
@[simp] theorem State.setInst_writing (s : State) (k : Nat) (x : Inst) : (s.setInst k x).writing = s.writing := rfl
@[simp] theorem State.setInst_toWrite (s : State) (k : Nat) (x : Inst) : (s.setInst k x).toWrite = s.toWrite := rfl
@[simp] theorem State.setInst_image (s : State) (k : Nat) (x : Inst) : (s.setInst k x).image = s.image := rfl
@[simp] theorem State.setInst_booted (s : State) (k : Nat) (x : Inst) : (s.setInst k x).booted = s.booted := rfl
@[simp] theorem State.setInst_device (s : State) (k : Nat) (x : Inst) : (s.setInst k x).device = s.device := rfl
@[simp] theorem State.setInst_cycle (s : State) (k : Nat) (x : Inst) : (s.setInst k x).cycle = s.cycle := rfl
@[simp] theorem State.setInst_agenda (s : State) (k : Nat) (x : Inst) : (s.setInst k x).agenda = s.agenda := rfl
@[simp] theorem State.setInst_cur (s : State) (k : Nat) (x : Inst) : (s.setInst k x).cur = s.cur := rfl
@[simp] theorem State.setInst_free (s : State) (k : Nat) (x : Inst) : (s.setInst k x).free = s.free := rfl
@[simp] theorem State.inst_setInst_same (s : State) (k : Nat) (x : Inst) : (s.setInst k x).inst k = x := by
  simp [State.inst, State.setInst]
theorem State.inst_setInst_other (s : State) {k j : Nat} (x : Inst) (h : j ≠ k) : (s.setInst k x).inst j = s.inst j := by
  simp [State.inst, State.setInst, look_put_other _ _ _ h]
@[simp] theorem State.grp_setInst (s : State) (k j : Nat) (x : Inst) : (s.setInst k x).grp j = s.grp j := rfl
@[simp] theorem State.core_setInst (s : State) (k j : Nat) (x : Inst) : (s.setInst k x).core j = s.core j := rfl
@[simp] theorem State.chan_setInst (s : State) (k j : Nat) (x : Inst) : (s.setInst k x).chan j = s.chan j := rfl
@[simp] theorem State.pchan_setInst (s : State) (k j : Nat) (x : Inst) : (s.setInst k x).pchan j = s.pchan j := rfl
@[simp] theorem State.bunit_setInst (s : State) (k j : Nat) (x : Inst) : (s.setInst k x).bunit j = s.bunit j := rfl

@[simp] theorem State.setCore_groups (s : State) (k : Nat) (x : Core) : (s.setCore k x).groups = s.groups := rfl
@[simp] theorem State.setCore_insts (s : State) (k : Nat) (x : Core) : (s.setCore k x).insts = s.insts := rfl
@[simp] theorem State.setCore_cores (s : State) (k : Nat) (x : Core) : (s.setCore k x).cores = put s.cores k x := rfl
@[simp] theorem State.setCore_lm (s : State) (k : Nat) (x : Core) : (s.setCore k x).lm = s.lm := rfl
@[simp] theorem State.setCore_full (s : State) (k : Nat) (x : Core) : (s.setCore k x).full = s.full := rfl
@[simp] theorem State.setCore_bstore (s : State) (k : Nat) (x : Core) : (s.setCore k x).bstore = s.bstore := rfl
@[simp] theorem State.setCore_mem (s : State) (k : Nat) (x : Core) : (s.setCore k x).mem = s.mem := rfl
@[simp] theorem State.setCore_homes (s : State) (k : Nat) (x : Core) : (s.setCore k x).homes = s.homes := rfl
@[simp] theorem State.setCore_bad (s : State) (k : Nat) (x : Core) : (s.setCore k x).bad = s.bad := rfl
@[simp] theorem State.setCore_sramBad (s : State) (k : Nat) (x : Core) : (s.setCore k x).sramBad = s.sramBad := rfl
@[simp] theorem State.setCore_sramFixed (s : State) (k : Nat) (x : Core) : (s.setCore k x).sramFixed = s.sramFixed := rfl
@[simp] theorem State.setCore_held (s : State) (k : Nat) (x : Core) : (s.setCore k x).held = s.held := rfl
@[simp] theorem State.setCore_pins (s : State) (k : Nat) (x : Core) : (s.setCore k x).pins = s.pins := rfl
@[simp] theorem State.setCore_refusals (s : State) (k : Nat) (x : Core) : (s.setCore k x).refusals = s.refusals := rfl
@[simp] theorem State.setCore_aholds (s : State) (k : Nat) (x : Core) : (s.setCore k x).aholds = s.aholds := rfl
@[simp] theorem State.setCore_svcStores (s : State) (k : Nat) (x : Core) : (s.setCore k x).svcStores = s.svcStores := rfl
@[simp] theorem State.setCore_farSeen (s : State) (k : Nat) (x : Core) : (s.setCore k x).farSeen = s.farSeen := rfl
@[simp] theorem State.setCore_farQueue (s : State) (k : Nat) (x : Core) : (s.setCore k x).farQueue = s.farQueue := rfl
@[simp] theorem State.setCore_forced (s : State) (k : Nat) (x : Core) : (s.setCore k x).forced = s.forced := rfl
@[simp] theorem State.setCore_units (s : State) (k : Nat) (x : Core) : (s.setCore k x).units = s.units := rfl
@[simp] theorem State.setCore_transit (s : State) (k : Nat) (x : Core) : (s.setCore k x).transit = s.transit := rfl
@[simp] theorem State.setCore_abroad (s : State) (k : Nat) (x : Core) : (s.setCore k x).abroad = s.abroad := rfl
@[simp] theorem State.setCore_binsOut (s : State) (k : Nat) (x : Core) : (s.setCore k x).binsOut = s.binsOut := rfl
@[simp] theorem State.setCore_farBins (s : State) (k : Nat) (x : Core) : (s.setCore k x).farBins = s.farBins := rfl
@[simp] theorem State.setCore_farCommits (s : State) (k : Nat) (x : Core) : (s.setCore k x).farCommits = s.farCommits := rfl
@[simp] theorem State.setCore_lostOrigins (s : State) (k : Nat) (x : Core) : (s.setCore k x).lostOrigins = s.lostOrigins := rfl
@[simp] theorem State.setCore_chans (s : State) (k : Nat) (x : Core) : (s.setCore k x).chans = s.chans := rfl
@[simp] theorem State.setCore_commits (s : State) (k : Nat) (x : Core) : (s.setCore k x).commits = s.commits := rfl
@[simp] theorem State.setCore_nextCommit (s : State) (k : Nat) (x : Core) : (s.setCore k x).nextCommit = s.nextCommit := rfl
@[simp] theorem State.setCore_noticesOut (s : State) (k : Nat) (x : Core) : (s.setCore k x).noticesOut = s.noticesOut := rfl
@[simp] theorem State.setCore_acks (s : State) (k : Nat) (x : Core) : (s.setCore k x).acks = s.acks := rfl
@[simp] theorem State.setCore_pchans (s : State) (k : Nat) (x : Core) : (s.setCore k x).pchans = s.pchans := rfl
@[simp] theorem State.setCore_sets (s : State) (k : Nat) (x : Core) : (s.setCore k x).sets = s.sets := rfl
@[simp] theorem State.setCore_nextSet (s : State) (k : Nat) (x : Core) : (s.setCore k x).nextSet = s.nextSet := rfl
@[simp] theorem State.setCore_spill (s : State) (k : Nat) (x : Core) : (s.setCore k x).spill = s.spill := rfl
@[simp] theorem State.setCore_spillMax (s : State) (k : Nat) (x : Core) : (s.setCore k x).spillMax = s.spillMax := rfl
@[simp] theorem State.setCore_resv (s : State) (k : Nat) (x : Core) : (s.setCore k x).resv = s.resv := rfl
@[simp] theorem State.setCore_rot (s : State) (k : Nat) (x : Core) : (s.setCore k x).rot = s.rot := rfl
@[simp] theorem State.setCore_suspd (s : State) (k : Nat) (x : Core) : (s.setCore k x).suspd = s.suspd := rfl
@[simp] theorem State.setCore_graphs (s : State) (k : Nat) (x : Core) : (s.setCore k x).graphs = s.graphs := rfl
@[simp] theorem State.setCore_nextGraph (s : State) (k : Nat) (x : Core) : (s.setCore k x).nextGraph = s.nextGraph := rfl
@[simp] theorem State.setCore_ctxs (s : State) (k : Nat) (x : Core) : (s.setCore k x).ctxs = s.ctxs := rfl
@[simp] theorem State.setCore_nextCtx (s : State) (k : Nat) (x : Core) : (s.setCore k x).nextCtx = s.nextCtx := rfl
@[simp] theorem State.setCore_mapped (s : State) (k : Nat) (x : Core) : (s.setCore k x).mapped = s.mapped := rfl
@[simp] theorem State.setCore_ring (s : State) (k : Nat) (x : Core) : (s.setCore k x).ring = s.ring := rfl
@[simp] theorem State.setCore_ringBase (s : State) (k : Nat) (x : Core) : (s.setCore k x).ringBase = s.ringBase := rfl
@[simp] theorem State.setCore_nextSeq (s : State) (k : Nat) (x : Core) : (s.setCore k x).nextSeq = s.nextSeq := rfl
@[simp] theorem State.setCore_nextSerial (s : State) (k : Nat) (x : Core) : (s.setCore k x).nextSerial = s.nextSerial := rfl
@[simp] theorem State.setCore_nextWin (s : State) (k : Nat) (x : Core) : (s.setCore k x).nextWin = s.nextWin := rfl
@[simp] theorem State.setCore_access (s : State) (k : Nat) (x : Core) : (s.setCore k x).access = s.access := rfl
@[simp] theorem State.setCore_conns (s : State) (k : Nat) (x : Core) : (s.setCore k x).conns = s.conns := rfl
@[simp] theorem State.setCore_xfers (s : State) (k : Nat) (x : Core) : (s.setCore k x).xfers = s.xfers := rfl
@[simp] theorem State.setCore_replies (s : State) (k : Nat) (x : Core) : (s.setCore k x).replies = s.replies := rfl
@[simp] theorem State.setCore_bulk (s : State) (k : Nat) (x : Core) : (s.setCore k x).bulk = s.bulk := rfl
@[simp] theorem State.setCore_dropped (s : State) (k : Nat) (x : Core) : (s.setCore k x).dropped = s.dropped := rfl
@[simp] theorem State.setCore_msets (s : State) (k : Nat) (x : Core) : (s.setCore k x).msets = s.msets := rfl
@[simp] theorem State.setCore_rounds (s : State) (k : Nat) (x : Core) : (s.setCore k x).rounds = s.rounds := rfl
@[simp] theorem State.setCore_nextRound (s : State) (k : Nat) (x : Core) : (s.setCore k x).nextRound = s.nextRound := rfl
@[simp] theorem State.setCore_ports (s : State) (k : Nat) (x : Core) : (s.setCore k x).ports = s.ports := rfl
@[simp] theorem State.setCore_down (s : State) (k : Nat) (x : Core) : (s.setCore k x).down = s.down := rfl
@[simp] theorem State.setCore_remote (s : State) (k : Nat) (x : Core) : (s.setCore k x).remote = s.remote := rfl
@[simp] theorem State.setCore_nextTag (s : State) (k : Nat) (x : Core) : (s.setCore k x).nextTag = s.nextTag := rfl
@[simp] theorem State.setCore_ueDrop0 (s : State) (k : Nat) (x : Core) : (s.setCore k x).ueDrop0 = s.ueDrop0 := rfl
@[simp] theorem State.setCore_ueDrop1 (s : State) (k : Nat) (x : Core) : (s.setCore k x).ueDrop1 = s.ueDrop1 := rfl
@[simp] theorem State.setCore_throttles (s : State) (k : Nat) (x : Core) : (s.setCore k x).throttles = s.throttles := rfl
@[simp] theorem State.setCore_replace (s : State) (k : Nat) (x : Core) : (s.setCore k x).replace = s.replace := rfl
@[simp] theorem State.setCore_flash (s : State) (k : Nat) (x : Core) : (s.setCore k x).flash = s.flash := rfl
@[simp] theorem State.setCore_writing (s : State) (k : Nat) (x : Core) : (s.setCore k x).writing = s.writing := rfl
@[simp] theorem State.setCore_toWrite (s : State) (k : Nat) (x : Core) : (s.setCore k x).toWrite = s.toWrite := rfl
@[simp] theorem State.setCore_image (s : State) (k : Nat) (x : Core) : (s.setCore k x).image = s.image := rfl
@[simp] theorem State.setCore_booted (s : State) (k : Nat) (x : Core) : (s.setCore k x).booted = s.booted := rfl
@[simp] theorem State.setCore_device (s : State) (k : Nat) (x : Core) : (s.setCore k x).device = s.device := rfl
@[simp] theorem State.setCore_cycle (s : State) (k : Nat) (x : Core) : (s.setCore k x).cycle = s.cycle := rfl
@[simp] theorem State.setCore_agenda (s : State) (k : Nat) (x : Core) : (s.setCore k x).agenda = s.agenda := rfl
@[simp] theorem State.setCore_cur (s : State) (k : Nat) (x : Core) : (s.setCore k x).cur = s.cur := rfl
@[simp] theorem State.setCore_free (s : State) (k : Nat) (x : Core) : (s.setCore k x).free = s.free := rfl
@[simp] theorem State.core_setCore_same (s : State) (k : Nat) (x : Core) : (s.setCore k x).core k = x := by
  simp [State.core, State.setCore]
theorem State.core_setCore_other (s : State) {k j : Nat} (x : Core) (h : j ≠ k) : (s.setCore k x).core j = s.core j := by
  simp [State.core, State.setCore, look_put_other _ _ _ h]
@[simp] theorem State.grp_setCore (s : State) (k j : Nat) (x : Core) : (s.setCore k x).grp j = s.grp j := rfl
@[simp] theorem State.inst_setCore (s : State) (k j : Nat) (x : Core) : (s.setCore k x).inst j = s.inst j := rfl
@[simp] theorem State.chan_setCore (s : State) (k j : Nat) (x : Core) : (s.setCore k x).chan j = s.chan j := rfl
@[simp] theorem State.pchan_setCore (s : State) (k j : Nat) (x : Core) : (s.setCore k x).pchan j = s.pchan j := rfl
@[simp] theorem State.bunit_setCore (s : State) (k j : Nat) (x : Core) : (s.setCore k x).bunit j = s.bunit j := rfl

@[simp] theorem State.setChan_groups (s : State) (k : Nat) (x : Chan) : (s.setChan k x).groups = s.groups := rfl
@[simp] theorem State.setChan_insts (s : State) (k : Nat) (x : Chan) : (s.setChan k x).insts = s.insts := rfl
@[simp] theorem State.setChan_cores (s : State) (k : Nat) (x : Chan) : (s.setChan k x).cores = s.cores := rfl
@[simp] theorem State.setChan_lm (s : State) (k : Nat) (x : Chan) : (s.setChan k x).lm = s.lm := rfl
@[simp] theorem State.setChan_full (s : State) (k : Nat) (x : Chan) : (s.setChan k x).full = s.full := rfl
@[simp] theorem State.setChan_bstore (s : State) (k : Nat) (x : Chan) : (s.setChan k x).bstore = s.bstore := rfl
@[simp] theorem State.setChan_mem (s : State) (k : Nat) (x : Chan) : (s.setChan k x).mem = s.mem := rfl
@[simp] theorem State.setChan_homes (s : State) (k : Nat) (x : Chan) : (s.setChan k x).homes = s.homes := rfl
@[simp] theorem State.setChan_bad (s : State) (k : Nat) (x : Chan) : (s.setChan k x).bad = s.bad := rfl
@[simp] theorem State.setChan_sramBad (s : State) (k : Nat) (x : Chan) : (s.setChan k x).sramBad = s.sramBad := rfl
@[simp] theorem State.setChan_sramFixed (s : State) (k : Nat) (x : Chan) : (s.setChan k x).sramFixed = s.sramFixed := rfl
@[simp] theorem State.setChan_held (s : State) (k : Nat) (x : Chan) : (s.setChan k x).held = s.held := rfl
@[simp] theorem State.setChan_pins (s : State) (k : Nat) (x : Chan) : (s.setChan k x).pins = s.pins := rfl
@[simp] theorem State.setChan_refusals (s : State) (k : Nat) (x : Chan) : (s.setChan k x).refusals = s.refusals := rfl
@[simp] theorem State.setChan_aholds (s : State) (k : Nat) (x : Chan) : (s.setChan k x).aholds = s.aholds := rfl
@[simp] theorem State.setChan_svcStores (s : State) (k : Nat) (x : Chan) : (s.setChan k x).svcStores = s.svcStores := rfl
@[simp] theorem State.setChan_farSeen (s : State) (k : Nat) (x : Chan) : (s.setChan k x).farSeen = s.farSeen := rfl
@[simp] theorem State.setChan_farQueue (s : State) (k : Nat) (x : Chan) : (s.setChan k x).farQueue = s.farQueue := rfl
@[simp] theorem State.setChan_forced (s : State) (k : Nat) (x : Chan) : (s.setChan k x).forced = s.forced := rfl
@[simp] theorem State.setChan_units (s : State) (k : Nat) (x : Chan) : (s.setChan k x).units = s.units := rfl
@[simp] theorem State.setChan_transit (s : State) (k : Nat) (x : Chan) : (s.setChan k x).transit = s.transit := rfl
@[simp] theorem State.setChan_abroad (s : State) (k : Nat) (x : Chan) : (s.setChan k x).abroad = s.abroad := rfl
@[simp] theorem State.setChan_binsOut (s : State) (k : Nat) (x : Chan) : (s.setChan k x).binsOut = s.binsOut := rfl
@[simp] theorem State.setChan_farBins (s : State) (k : Nat) (x : Chan) : (s.setChan k x).farBins = s.farBins := rfl
@[simp] theorem State.setChan_farCommits (s : State) (k : Nat) (x : Chan) : (s.setChan k x).farCommits = s.farCommits := rfl
@[simp] theorem State.setChan_lostOrigins (s : State) (k : Nat) (x : Chan) : (s.setChan k x).lostOrigins = s.lostOrigins := rfl
@[simp] theorem State.setChan_chans (s : State) (k : Nat) (x : Chan) : (s.setChan k x).chans = put s.chans k x := rfl
@[simp] theorem State.setChan_commits (s : State) (k : Nat) (x : Chan) : (s.setChan k x).commits = s.commits := rfl
@[simp] theorem State.setChan_nextCommit (s : State) (k : Nat) (x : Chan) : (s.setChan k x).nextCommit = s.nextCommit := rfl
@[simp] theorem State.setChan_noticesOut (s : State) (k : Nat) (x : Chan) : (s.setChan k x).noticesOut = s.noticesOut := rfl
@[simp] theorem State.setChan_acks (s : State) (k : Nat) (x : Chan) : (s.setChan k x).acks = s.acks := rfl
@[simp] theorem State.setChan_pchans (s : State) (k : Nat) (x : Chan) : (s.setChan k x).pchans = s.pchans := rfl
@[simp] theorem State.setChan_sets (s : State) (k : Nat) (x : Chan) : (s.setChan k x).sets = s.sets := rfl
@[simp] theorem State.setChan_nextSet (s : State) (k : Nat) (x : Chan) : (s.setChan k x).nextSet = s.nextSet := rfl
@[simp] theorem State.setChan_spill (s : State) (k : Nat) (x : Chan) : (s.setChan k x).spill = s.spill := rfl
@[simp] theorem State.setChan_spillMax (s : State) (k : Nat) (x : Chan) : (s.setChan k x).spillMax = s.spillMax := rfl
@[simp] theorem State.setChan_resv (s : State) (k : Nat) (x : Chan) : (s.setChan k x).resv = s.resv := rfl
@[simp] theorem State.setChan_rot (s : State) (k : Nat) (x : Chan) : (s.setChan k x).rot = s.rot := rfl
@[simp] theorem State.setChan_suspd (s : State) (k : Nat) (x : Chan) : (s.setChan k x).suspd = s.suspd := rfl
@[simp] theorem State.setChan_graphs (s : State) (k : Nat) (x : Chan) : (s.setChan k x).graphs = s.graphs := rfl
@[simp] theorem State.setChan_nextGraph (s : State) (k : Nat) (x : Chan) : (s.setChan k x).nextGraph = s.nextGraph := rfl
@[simp] theorem State.setChan_ctxs (s : State) (k : Nat) (x : Chan) : (s.setChan k x).ctxs = s.ctxs := rfl
@[simp] theorem State.setChan_nextCtx (s : State) (k : Nat) (x : Chan) : (s.setChan k x).nextCtx = s.nextCtx := rfl
@[simp] theorem State.setChan_mapped (s : State) (k : Nat) (x : Chan) : (s.setChan k x).mapped = s.mapped := rfl
@[simp] theorem State.setChan_ring (s : State) (k : Nat) (x : Chan) : (s.setChan k x).ring = s.ring := rfl
@[simp] theorem State.setChan_ringBase (s : State) (k : Nat) (x : Chan) : (s.setChan k x).ringBase = s.ringBase := rfl
@[simp] theorem State.setChan_nextSeq (s : State) (k : Nat) (x : Chan) : (s.setChan k x).nextSeq = s.nextSeq := rfl
@[simp] theorem State.setChan_nextSerial (s : State) (k : Nat) (x : Chan) : (s.setChan k x).nextSerial = s.nextSerial := rfl
@[simp] theorem State.setChan_nextWin (s : State) (k : Nat) (x : Chan) : (s.setChan k x).nextWin = s.nextWin := rfl
@[simp] theorem State.setChan_access (s : State) (k : Nat) (x : Chan) : (s.setChan k x).access = s.access := rfl
@[simp] theorem State.setChan_conns (s : State) (k : Nat) (x : Chan) : (s.setChan k x).conns = s.conns := rfl
@[simp] theorem State.setChan_xfers (s : State) (k : Nat) (x : Chan) : (s.setChan k x).xfers = s.xfers := rfl
@[simp] theorem State.setChan_replies (s : State) (k : Nat) (x : Chan) : (s.setChan k x).replies = s.replies := rfl
@[simp] theorem State.setChan_bulk (s : State) (k : Nat) (x : Chan) : (s.setChan k x).bulk = s.bulk := rfl
@[simp] theorem State.setChan_dropped (s : State) (k : Nat) (x : Chan) : (s.setChan k x).dropped = s.dropped := rfl
@[simp] theorem State.setChan_msets (s : State) (k : Nat) (x : Chan) : (s.setChan k x).msets = s.msets := rfl
@[simp] theorem State.setChan_rounds (s : State) (k : Nat) (x : Chan) : (s.setChan k x).rounds = s.rounds := rfl
@[simp] theorem State.setChan_nextRound (s : State) (k : Nat) (x : Chan) : (s.setChan k x).nextRound = s.nextRound := rfl
@[simp] theorem State.setChan_ports (s : State) (k : Nat) (x : Chan) : (s.setChan k x).ports = s.ports := rfl
@[simp] theorem State.setChan_down (s : State) (k : Nat) (x : Chan) : (s.setChan k x).down = s.down := rfl
@[simp] theorem State.setChan_remote (s : State) (k : Nat) (x : Chan) : (s.setChan k x).remote = s.remote := rfl
@[simp] theorem State.setChan_nextTag (s : State) (k : Nat) (x : Chan) : (s.setChan k x).nextTag = s.nextTag := rfl
@[simp] theorem State.setChan_ueDrop0 (s : State) (k : Nat) (x : Chan) : (s.setChan k x).ueDrop0 = s.ueDrop0 := rfl
@[simp] theorem State.setChan_ueDrop1 (s : State) (k : Nat) (x : Chan) : (s.setChan k x).ueDrop1 = s.ueDrop1 := rfl
@[simp] theorem State.setChan_throttles (s : State) (k : Nat) (x : Chan) : (s.setChan k x).throttles = s.throttles := rfl
@[simp] theorem State.setChan_replace (s : State) (k : Nat) (x : Chan) : (s.setChan k x).replace = s.replace := rfl
@[simp] theorem State.setChan_flash (s : State) (k : Nat) (x : Chan) : (s.setChan k x).flash = s.flash := rfl
@[simp] theorem State.setChan_writing (s : State) (k : Nat) (x : Chan) : (s.setChan k x).writing = s.writing := rfl
@[simp] theorem State.setChan_toWrite (s : State) (k : Nat) (x : Chan) : (s.setChan k x).toWrite = s.toWrite := rfl
@[simp] theorem State.setChan_image (s : State) (k : Nat) (x : Chan) : (s.setChan k x).image = s.image := rfl
@[simp] theorem State.setChan_booted (s : State) (k : Nat) (x : Chan) : (s.setChan k x).booted = s.booted := rfl
@[simp] theorem State.setChan_device (s : State) (k : Nat) (x : Chan) : (s.setChan k x).device = s.device := rfl
@[simp] theorem State.setChan_cycle (s : State) (k : Nat) (x : Chan) : (s.setChan k x).cycle = s.cycle := rfl
@[simp] theorem State.setChan_agenda (s : State) (k : Nat) (x : Chan) : (s.setChan k x).agenda = s.agenda := rfl
@[simp] theorem State.setChan_cur (s : State) (k : Nat) (x : Chan) : (s.setChan k x).cur = s.cur := rfl
@[simp] theorem State.setChan_free (s : State) (k : Nat) (x : Chan) : (s.setChan k x).free = s.free := rfl
@[simp] theorem State.chan_setChan_same (s : State) (k : Nat) (x : Chan) : (s.setChan k x).chan k = x := by
  simp [State.chan, State.setChan]
theorem State.chan_setChan_other (s : State) {k j : Nat} (x : Chan) (h : j ≠ k) : (s.setChan k x).chan j = s.chan j := by
  simp [State.chan, State.setChan, look_put_other _ _ _ h]
@[simp] theorem State.grp_setChan (s : State) (k j : Nat) (x : Chan) : (s.setChan k x).grp j = s.grp j := rfl
@[simp] theorem State.inst_setChan (s : State) (k j : Nat) (x : Chan) : (s.setChan k x).inst j = s.inst j := rfl
@[simp] theorem State.core_setChan (s : State) (k j : Nat) (x : Chan) : (s.setChan k x).core j = s.core j := rfl
@[simp] theorem State.pchan_setChan (s : State) (k j : Nat) (x : Chan) : (s.setChan k x).pchan j = s.pchan j := rfl
@[simp] theorem State.bunit_setChan (s : State) (k j : Nat) (x : Chan) : (s.setChan k x).bunit j = s.bunit j := rfl

@[simp] theorem State.setPchan_groups (s : State) (k : Nat) (x : PChan) : (s.setPchan k x).groups = s.groups := rfl
@[simp] theorem State.setPchan_insts (s : State) (k : Nat) (x : PChan) : (s.setPchan k x).insts = s.insts := rfl
@[simp] theorem State.setPchan_cores (s : State) (k : Nat) (x : PChan) : (s.setPchan k x).cores = s.cores := rfl
@[simp] theorem State.setPchan_lm (s : State) (k : Nat) (x : PChan) : (s.setPchan k x).lm = s.lm := rfl
@[simp] theorem State.setPchan_full (s : State) (k : Nat) (x : PChan) : (s.setPchan k x).full = s.full := rfl
@[simp] theorem State.setPchan_bstore (s : State) (k : Nat) (x : PChan) : (s.setPchan k x).bstore = s.bstore := rfl
@[simp] theorem State.setPchan_mem (s : State) (k : Nat) (x : PChan) : (s.setPchan k x).mem = s.mem := rfl
@[simp] theorem State.setPchan_homes (s : State) (k : Nat) (x : PChan) : (s.setPchan k x).homes = s.homes := rfl
@[simp] theorem State.setPchan_bad (s : State) (k : Nat) (x : PChan) : (s.setPchan k x).bad = s.bad := rfl
@[simp] theorem State.setPchan_sramBad (s : State) (k : Nat) (x : PChan) : (s.setPchan k x).sramBad = s.sramBad := rfl
@[simp] theorem State.setPchan_sramFixed (s : State) (k : Nat) (x : PChan) : (s.setPchan k x).sramFixed = s.sramFixed := rfl
@[simp] theorem State.setPchan_held (s : State) (k : Nat) (x : PChan) : (s.setPchan k x).held = s.held := rfl
@[simp] theorem State.setPchan_pins (s : State) (k : Nat) (x : PChan) : (s.setPchan k x).pins = s.pins := rfl
@[simp] theorem State.setPchan_refusals (s : State) (k : Nat) (x : PChan) : (s.setPchan k x).refusals = s.refusals := rfl
@[simp] theorem State.setPchan_aholds (s : State) (k : Nat) (x : PChan) : (s.setPchan k x).aholds = s.aholds := rfl
@[simp] theorem State.setPchan_svcStores (s : State) (k : Nat) (x : PChan) : (s.setPchan k x).svcStores = s.svcStores := rfl
@[simp] theorem State.setPchan_farSeen (s : State) (k : Nat) (x : PChan) : (s.setPchan k x).farSeen = s.farSeen := rfl
@[simp] theorem State.setPchan_farQueue (s : State) (k : Nat) (x : PChan) : (s.setPchan k x).farQueue = s.farQueue := rfl
@[simp] theorem State.setPchan_forced (s : State) (k : Nat) (x : PChan) : (s.setPchan k x).forced = s.forced := rfl
@[simp] theorem State.setPchan_units (s : State) (k : Nat) (x : PChan) : (s.setPchan k x).units = s.units := rfl
@[simp] theorem State.setPchan_transit (s : State) (k : Nat) (x : PChan) : (s.setPchan k x).transit = s.transit := rfl
@[simp] theorem State.setPchan_abroad (s : State) (k : Nat) (x : PChan) : (s.setPchan k x).abroad = s.abroad := rfl
@[simp] theorem State.setPchan_binsOut (s : State) (k : Nat) (x : PChan) : (s.setPchan k x).binsOut = s.binsOut := rfl
@[simp] theorem State.setPchan_farBins (s : State) (k : Nat) (x : PChan) : (s.setPchan k x).farBins = s.farBins := rfl
@[simp] theorem State.setPchan_farCommits (s : State) (k : Nat) (x : PChan) : (s.setPchan k x).farCommits = s.farCommits := rfl
@[simp] theorem State.setPchan_lostOrigins (s : State) (k : Nat) (x : PChan) : (s.setPchan k x).lostOrigins = s.lostOrigins := rfl
@[simp] theorem State.setPchan_chans (s : State) (k : Nat) (x : PChan) : (s.setPchan k x).chans = s.chans := rfl
@[simp] theorem State.setPchan_commits (s : State) (k : Nat) (x : PChan) : (s.setPchan k x).commits = s.commits := rfl
@[simp] theorem State.setPchan_nextCommit (s : State) (k : Nat) (x : PChan) : (s.setPchan k x).nextCommit = s.nextCommit := rfl
@[simp] theorem State.setPchan_noticesOut (s : State) (k : Nat) (x : PChan) : (s.setPchan k x).noticesOut = s.noticesOut := rfl
@[simp] theorem State.setPchan_acks (s : State) (k : Nat) (x : PChan) : (s.setPchan k x).acks = s.acks := rfl
@[simp] theorem State.setPchan_pchans (s : State) (k : Nat) (x : PChan) : (s.setPchan k x).pchans = put s.pchans k x := rfl
@[simp] theorem State.setPchan_sets (s : State) (k : Nat) (x : PChan) : (s.setPchan k x).sets = s.sets := rfl
@[simp] theorem State.setPchan_nextSet (s : State) (k : Nat) (x : PChan) : (s.setPchan k x).nextSet = s.nextSet := rfl
@[simp] theorem State.setPchan_spill (s : State) (k : Nat) (x : PChan) : (s.setPchan k x).spill = s.spill := rfl
@[simp] theorem State.setPchan_spillMax (s : State) (k : Nat) (x : PChan) : (s.setPchan k x).spillMax = s.spillMax := rfl
@[simp] theorem State.setPchan_resv (s : State) (k : Nat) (x : PChan) : (s.setPchan k x).resv = s.resv := rfl
@[simp] theorem State.setPchan_rot (s : State) (k : Nat) (x : PChan) : (s.setPchan k x).rot = s.rot := rfl
@[simp] theorem State.setPchan_suspd (s : State) (k : Nat) (x : PChan) : (s.setPchan k x).suspd = s.suspd := rfl
@[simp] theorem State.setPchan_graphs (s : State) (k : Nat) (x : PChan) : (s.setPchan k x).graphs = s.graphs := rfl
@[simp] theorem State.setPchan_nextGraph (s : State) (k : Nat) (x : PChan) : (s.setPchan k x).nextGraph = s.nextGraph := rfl
@[simp] theorem State.setPchan_ctxs (s : State) (k : Nat) (x : PChan) : (s.setPchan k x).ctxs = s.ctxs := rfl
@[simp] theorem State.setPchan_nextCtx (s : State) (k : Nat) (x : PChan) : (s.setPchan k x).nextCtx = s.nextCtx := rfl
@[simp] theorem State.setPchan_mapped (s : State) (k : Nat) (x : PChan) : (s.setPchan k x).mapped = s.mapped := rfl
@[simp] theorem State.setPchan_ring (s : State) (k : Nat) (x : PChan) : (s.setPchan k x).ring = s.ring := rfl
@[simp] theorem State.setPchan_ringBase (s : State) (k : Nat) (x : PChan) : (s.setPchan k x).ringBase = s.ringBase := rfl
@[simp] theorem State.setPchan_nextSeq (s : State) (k : Nat) (x : PChan) : (s.setPchan k x).nextSeq = s.nextSeq := rfl
@[simp] theorem State.setPchan_nextSerial (s : State) (k : Nat) (x : PChan) : (s.setPchan k x).nextSerial = s.nextSerial := rfl
@[simp] theorem State.setPchan_nextWin (s : State) (k : Nat) (x : PChan) : (s.setPchan k x).nextWin = s.nextWin := rfl
@[simp] theorem State.setPchan_access (s : State) (k : Nat) (x : PChan) : (s.setPchan k x).access = s.access := rfl
@[simp] theorem State.setPchan_conns (s : State) (k : Nat) (x : PChan) : (s.setPchan k x).conns = s.conns := rfl
@[simp] theorem State.setPchan_xfers (s : State) (k : Nat) (x : PChan) : (s.setPchan k x).xfers = s.xfers := rfl
@[simp] theorem State.setPchan_replies (s : State) (k : Nat) (x : PChan) : (s.setPchan k x).replies = s.replies := rfl
@[simp] theorem State.setPchan_bulk (s : State) (k : Nat) (x : PChan) : (s.setPchan k x).bulk = s.bulk := rfl
@[simp] theorem State.setPchan_dropped (s : State) (k : Nat) (x : PChan) : (s.setPchan k x).dropped = s.dropped := rfl
@[simp] theorem State.setPchan_msets (s : State) (k : Nat) (x : PChan) : (s.setPchan k x).msets = s.msets := rfl
@[simp] theorem State.setPchan_rounds (s : State) (k : Nat) (x : PChan) : (s.setPchan k x).rounds = s.rounds := rfl
@[simp] theorem State.setPchan_nextRound (s : State) (k : Nat) (x : PChan) : (s.setPchan k x).nextRound = s.nextRound := rfl
@[simp] theorem State.setPchan_ports (s : State) (k : Nat) (x : PChan) : (s.setPchan k x).ports = s.ports := rfl
@[simp] theorem State.setPchan_down (s : State) (k : Nat) (x : PChan) : (s.setPchan k x).down = s.down := rfl
@[simp] theorem State.setPchan_remote (s : State) (k : Nat) (x : PChan) : (s.setPchan k x).remote = s.remote := rfl
@[simp] theorem State.setPchan_nextTag (s : State) (k : Nat) (x : PChan) : (s.setPchan k x).nextTag = s.nextTag := rfl
@[simp] theorem State.setPchan_ueDrop0 (s : State) (k : Nat) (x : PChan) : (s.setPchan k x).ueDrop0 = s.ueDrop0 := rfl
@[simp] theorem State.setPchan_ueDrop1 (s : State) (k : Nat) (x : PChan) : (s.setPchan k x).ueDrop1 = s.ueDrop1 := rfl
@[simp] theorem State.setPchan_throttles (s : State) (k : Nat) (x : PChan) : (s.setPchan k x).throttles = s.throttles := rfl
@[simp] theorem State.setPchan_replace (s : State) (k : Nat) (x : PChan) : (s.setPchan k x).replace = s.replace := rfl
@[simp] theorem State.setPchan_flash (s : State) (k : Nat) (x : PChan) : (s.setPchan k x).flash = s.flash := rfl
@[simp] theorem State.setPchan_writing (s : State) (k : Nat) (x : PChan) : (s.setPchan k x).writing = s.writing := rfl
@[simp] theorem State.setPchan_toWrite (s : State) (k : Nat) (x : PChan) : (s.setPchan k x).toWrite = s.toWrite := rfl
@[simp] theorem State.setPchan_image (s : State) (k : Nat) (x : PChan) : (s.setPchan k x).image = s.image := rfl
@[simp] theorem State.setPchan_booted (s : State) (k : Nat) (x : PChan) : (s.setPchan k x).booted = s.booted := rfl
@[simp] theorem State.setPchan_device (s : State) (k : Nat) (x : PChan) : (s.setPchan k x).device = s.device := rfl
@[simp] theorem State.setPchan_cycle (s : State) (k : Nat) (x : PChan) : (s.setPchan k x).cycle = s.cycle := rfl
@[simp] theorem State.setPchan_agenda (s : State) (k : Nat) (x : PChan) : (s.setPchan k x).agenda = s.agenda := rfl
@[simp] theorem State.setPchan_cur (s : State) (k : Nat) (x : PChan) : (s.setPchan k x).cur = s.cur := rfl
@[simp] theorem State.setPchan_free (s : State) (k : Nat) (x : PChan) : (s.setPchan k x).free = s.free := rfl
@[simp] theorem State.pchan_setPchan_same (s : State) (k : Nat) (x : PChan) : (s.setPchan k x).pchan k = x := by
  simp [State.pchan, State.setPchan]
theorem State.pchan_setPchan_other (s : State) {k j : Nat} (x : PChan) (h : j ≠ k) : (s.setPchan k x).pchan j = s.pchan j := by
  simp [State.pchan, State.setPchan, look_put_other _ _ _ h]
@[simp] theorem State.grp_setPchan (s : State) (k j : Nat) (x : PChan) : (s.setPchan k x).grp j = s.grp j := rfl
@[simp] theorem State.inst_setPchan (s : State) (k j : Nat) (x : PChan) : (s.setPchan k x).inst j = s.inst j := rfl
@[simp] theorem State.core_setPchan (s : State) (k j : Nat) (x : PChan) : (s.setPchan k x).core j = s.core j := rfl
@[simp] theorem State.chan_setPchan (s : State) (k j : Nat) (x : PChan) : (s.setPchan k x).chan j = s.chan j := rfl
@[simp] theorem State.bunit_setPchan (s : State) (k j : Nat) (x : PChan) : (s.setPchan k x).bunit j = s.bunit j := rfl

@[simp] theorem State.setBunit_groups (s : State) (k : Nat) (x : BinUnit) : (s.setBunit k x).groups = s.groups := rfl
@[simp] theorem State.setBunit_insts (s : State) (k : Nat) (x : BinUnit) : (s.setBunit k x).insts = s.insts := rfl
@[simp] theorem State.setBunit_cores (s : State) (k : Nat) (x : BinUnit) : (s.setBunit k x).cores = s.cores := rfl
@[simp] theorem State.setBunit_lm (s : State) (k : Nat) (x : BinUnit) : (s.setBunit k x).lm = s.lm := rfl
@[simp] theorem State.setBunit_full (s : State) (k : Nat) (x : BinUnit) : (s.setBunit k x).full = s.full := rfl
@[simp] theorem State.setBunit_bstore (s : State) (k : Nat) (x : BinUnit) : (s.setBunit k x).bstore = s.bstore := rfl
@[simp] theorem State.setBunit_mem (s : State) (k : Nat) (x : BinUnit) : (s.setBunit k x).mem = s.mem := rfl
@[simp] theorem State.setBunit_homes (s : State) (k : Nat) (x : BinUnit) : (s.setBunit k x).homes = s.homes := rfl
@[simp] theorem State.setBunit_bad (s : State) (k : Nat) (x : BinUnit) : (s.setBunit k x).bad = s.bad := rfl
@[simp] theorem State.setBunit_sramBad (s : State) (k : Nat) (x : BinUnit) : (s.setBunit k x).sramBad = s.sramBad := rfl
@[simp] theorem State.setBunit_sramFixed (s : State) (k : Nat) (x : BinUnit) : (s.setBunit k x).sramFixed = s.sramFixed := rfl
@[simp] theorem State.setBunit_held (s : State) (k : Nat) (x : BinUnit) : (s.setBunit k x).held = s.held := rfl
@[simp] theorem State.setBunit_pins (s : State) (k : Nat) (x : BinUnit) : (s.setBunit k x).pins = s.pins := rfl
@[simp] theorem State.setBunit_refusals (s : State) (k : Nat) (x : BinUnit) : (s.setBunit k x).refusals = s.refusals := rfl
@[simp] theorem State.setBunit_aholds (s : State) (k : Nat) (x : BinUnit) : (s.setBunit k x).aholds = s.aholds := rfl
@[simp] theorem State.setBunit_svcStores (s : State) (k : Nat) (x : BinUnit) : (s.setBunit k x).svcStores = s.svcStores := rfl
@[simp] theorem State.setBunit_farSeen (s : State) (k : Nat) (x : BinUnit) : (s.setBunit k x).farSeen = s.farSeen := rfl
@[simp] theorem State.setBunit_farQueue (s : State) (k : Nat) (x : BinUnit) : (s.setBunit k x).farQueue = s.farQueue := rfl
@[simp] theorem State.setBunit_forced (s : State) (k : Nat) (x : BinUnit) : (s.setBunit k x).forced = s.forced := rfl
@[simp] theorem State.setBunit_units (s : State) (k : Nat) (x : BinUnit) : (s.setBunit k x).units = put s.units k x := rfl
@[simp] theorem State.setBunit_transit (s : State) (k : Nat) (x : BinUnit) : (s.setBunit k x).transit = s.transit := rfl
@[simp] theorem State.setBunit_abroad (s : State) (k : Nat) (x : BinUnit) : (s.setBunit k x).abroad = s.abroad := rfl
@[simp] theorem State.setBunit_binsOut (s : State) (k : Nat) (x : BinUnit) : (s.setBunit k x).binsOut = s.binsOut := rfl
@[simp] theorem State.setBunit_farBins (s : State) (k : Nat) (x : BinUnit) : (s.setBunit k x).farBins = s.farBins := rfl
@[simp] theorem State.setBunit_farCommits (s : State) (k : Nat) (x : BinUnit) : (s.setBunit k x).farCommits = s.farCommits := rfl
@[simp] theorem State.setBunit_lostOrigins (s : State) (k : Nat) (x : BinUnit) : (s.setBunit k x).lostOrigins = s.lostOrigins := rfl
@[simp] theorem State.setBunit_chans (s : State) (k : Nat) (x : BinUnit) : (s.setBunit k x).chans = s.chans := rfl
@[simp] theorem State.setBunit_commits (s : State) (k : Nat) (x : BinUnit) : (s.setBunit k x).commits = s.commits := rfl
@[simp] theorem State.setBunit_nextCommit (s : State) (k : Nat) (x : BinUnit) : (s.setBunit k x).nextCommit = s.nextCommit := rfl
@[simp] theorem State.setBunit_noticesOut (s : State) (k : Nat) (x : BinUnit) : (s.setBunit k x).noticesOut = s.noticesOut := rfl
@[simp] theorem State.setBunit_acks (s : State) (k : Nat) (x : BinUnit) : (s.setBunit k x).acks = s.acks := rfl
@[simp] theorem State.setBunit_pchans (s : State) (k : Nat) (x : BinUnit) : (s.setBunit k x).pchans = s.pchans := rfl
@[simp] theorem State.setBunit_sets (s : State) (k : Nat) (x : BinUnit) : (s.setBunit k x).sets = s.sets := rfl
@[simp] theorem State.setBunit_nextSet (s : State) (k : Nat) (x : BinUnit) : (s.setBunit k x).nextSet = s.nextSet := rfl
@[simp] theorem State.setBunit_spill (s : State) (k : Nat) (x : BinUnit) : (s.setBunit k x).spill = s.spill := rfl
@[simp] theorem State.setBunit_spillMax (s : State) (k : Nat) (x : BinUnit) : (s.setBunit k x).spillMax = s.spillMax := rfl
@[simp] theorem State.setBunit_resv (s : State) (k : Nat) (x : BinUnit) : (s.setBunit k x).resv = s.resv := rfl
@[simp] theorem State.setBunit_rot (s : State) (k : Nat) (x : BinUnit) : (s.setBunit k x).rot = s.rot := rfl
@[simp] theorem State.setBunit_suspd (s : State) (k : Nat) (x : BinUnit) : (s.setBunit k x).suspd = s.suspd := rfl
@[simp] theorem State.setBunit_graphs (s : State) (k : Nat) (x : BinUnit) : (s.setBunit k x).graphs = s.graphs := rfl
@[simp] theorem State.setBunit_nextGraph (s : State) (k : Nat) (x : BinUnit) : (s.setBunit k x).nextGraph = s.nextGraph := rfl
@[simp] theorem State.setBunit_ctxs (s : State) (k : Nat) (x : BinUnit) : (s.setBunit k x).ctxs = s.ctxs := rfl
@[simp] theorem State.setBunit_nextCtx (s : State) (k : Nat) (x : BinUnit) : (s.setBunit k x).nextCtx = s.nextCtx := rfl
@[simp] theorem State.setBunit_mapped (s : State) (k : Nat) (x : BinUnit) : (s.setBunit k x).mapped = s.mapped := rfl
@[simp] theorem State.setBunit_ring (s : State) (k : Nat) (x : BinUnit) : (s.setBunit k x).ring = s.ring := rfl
@[simp] theorem State.setBunit_ringBase (s : State) (k : Nat) (x : BinUnit) : (s.setBunit k x).ringBase = s.ringBase := rfl
@[simp] theorem State.setBunit_nextSeq (s : State) (k : Nat) (x : BinUnit) : (s.setBunit k x).nextSeq = s.nextSeq := rfl
@[simp] theorem State.setBunit_nextSerial (s : State) (k : Nat) (x : BinUnit) : (s.setBunit k x).nextSerial = s.nextSerial := rfl
@[simp] theorem State.setBunit_nextWin (s : State) (k : Nat) (x : BinUnit) : (s.setBunit k x).nextWin = s.nextWin := rfl
@[simp] theorem State.setBunit_access (s : State) (k : Nat) (x : BinUnit) : (s.setBunit k x).access = s.access := rfl
@[simp] theorem State.setBunit_conns (s : State) (k : Nat) (x : BinUnit) : (s.setBunit k x).conns = s.conns := rfl
@[simp] theorem State.setBunit_xfers (s : State) (k : Nat) (x : BinUnit) : (s.setBunit k x).xfers = s.xfers := rfl
@[simp] theorem State.setBunit_replies (s : State) (k : Nat) (x : BinUnit) : (s.setBunit k x).replies = s.replies := rfl
@[simp] theorem State.setBunit_bulk (s : State) (k : Nat) (x : BinUnit) : (s.setBunit k x).bulk = s.bulk := rfl
@[simp] theorem State.setBunit_dropped (s : State) (k : Nat) (x : BinUnit) : (s.setBunit k x).dropped = s.dropped := rfl
@[simp] theorem State.setBunit_msets (s : State) (k : Nat) (x : BinUnit) : (s.setBunit k x).msets = s.msets := rfl
@[simp] theorem State.setBunit_rounds (s : State) (k : Nat) (x : BinUnit) : (s.setBunit k x).rounds = s.rounds := rfl
@[simp] theorem State.setBunit_nextRound (s : State) (k : Nat) (x : BinUnit) : (s.setBunit k x).nextRound = s.nextRound := rfl
@[simp] theorem State.setBunit_ports (s : State) (k : Nat) (x : BinUnit) : (s.setBunit k x).ports = s.ports := rfl
@[simp] theorem State.setBunit_down (s : State) (k : Nat) (x : BinUnit) : (s.setBunit k x).down = s.down := rfl
@[simp] theorem State.setBunit_remote (s : State) (k : Nat) (x : BinUnit) : (s.setBunit k x).remote = s.remote := rfl
@[simp] theorem State.setBunit_nextTag (s : State) (k : Nat) (x : BinUnit) : (s.setBunit k x).nextTag = s.nextTag := rfl
@[simp] theorem State.setBunit_ueDrop0 (s : State) (k : Nat) (x : BinUnit) : (s.setBunit k x).ueDrop0 = s.ueDrop0 := rfl
@[simp] theorem State.setBunit_ueDrop1 (s : State) (k : Nat) (x : BinUnit) : (s.setBunit k x).ueDrop1 = s.ueDrop1 := rfl
@[simp] theorem State.setBunit_throttles (s : State) (k : Nat) (x : BinUnit) : (s.setBunit k x).throttles = s.throttles := rfl
@[simp] theorem State.setBunit_replace (s : State) (k : Nat) (x : BinUnit) : (s.setBunit k x).replace = s.replace := rfl
@[simp] theorem State.setBunit_flash (s : State) (k : Nat) (x : BinUnit) : (s.setBunit k x).flash = s.flash := rfl
@[simp] theorem State.setBunit_writing (s : State) (k : Nat) (x : BinUnit) : (s.setBunit k x).writing = s.writing := rfl
@[simp] theorem State.setBunit_toWrite (s : State) (k : Nat) (x : BinUnit) : (s.setBunit k x).toWrite = s.toWrite := rfl
@[simp] theorem State.setBunit_image (s : State) (k : Nat) (x : BinUnit) : (s.setBunit k x).image = s.image := rfl
@[simp] theorem State.setBunit_booted (s : State) (k : Nat) (x : BinUnit) : (s.setBunit k x).booted = s.booted := rfl
@[simp] theorem State.setBunit_device (s : State) (k : Nat) (x : BinUnit) : (s.setBunit k x).device = s.device := rfl
@[simp] theorem State.setBunit_cycle (s : State) (k : Nat) (x : BinUnit) : (s.setBunit k x).cycle = s.cycle := rfl
@[simp] theorem State.setBunit_agenda (s : State) (k : Nat) (x : BinUnit) : (s.setBunit k x).agenda = s.agenda := rfl
@[simp] theorem State.setBunit_cur (s : State) (k : Nat) (x : BinUnit) : (s.setBunit k x).cur = s.cur := rfl
@[simp] theorem State.setBunit_free (s : State) (k : Nat) (x : BinUnit) : (s.setBunit k x).free = s.free := rfl
@[simp] theorem State.bunit_setBunit_same (s : State) (k : Nat) (x : BinUnit) : (s.setBunit k x).bunit k = x := by
  simp [State.bunit, State.setBunit]
theorem State.bunit_setBunit_other (s : State) {k j : Nat} (x : BinUnit) (h : j ≠ k) : (s.setBunit k x).bunit j = s.bunit j := by
  simp [State.bunit, State.setBunit, look_put_other _ _ _ h]
@[simp] theorem State.grp_setBunit (s : State) (k j : Nat) (x : BinUnit) : (s.setBunit k x).grp j = s.grp j := rfl
@[simp] theorem State.inst_setBunit (s : State) (k j : Nat) (x : BinUnit) : (s.setBunit k x).inst j = s.inst j := rfl
@[simp] theorem State.core_setBunit (s : State) (k j : Nat) (x : BinUnit) : (s.setBunit k x).core j = s.core j := rfl
@[simp] theorem State.chan_setBunit (s : State) (k j : Nat) (x : BinUnit) : (s.setBunit k x).chan j = s.chan j := rfl
@[simp] theorem State.pchan_setBunit (s : State) (k j : Nat) (x : BinUnit) : (s.setBunit k x).pchan j = s.pchan j := rfl

@[simp] theorem State.onGrp_groups (s : State) (k : Nat) (f : Group → Group) : (s.onGrp k f).groups = put s.groups k (f (s.grp k)) := rfl
@[simp] theorem State.onGrp_insts (s : State) (k : Nat) (f : Group → Group) : (s.onGrp k f).insts = s.insts := rfl
@[simp] theorem State.onGrp_cores (s : State) (k : Nat) (f : Group → Group) : (s.onGrp k f).cores = s.cores := rfl
@[simp] theorem State.onGrp_lm (s : State) (k : Nat) (f : Group → Group) : (s.onGrp k f).lm = s.lm := rfl
@[simp] theorem State.onGrp_full (s : State) (k : Nat) (f : Group → Group) : (s.onGrp k f).full = s.full := rfl
@[simp] theorem State.onGrp_bstore (s : State) (k : Nat) (f : Group → Group) : (s.onGrp k f).bstore = s.bstore := rfl
@[simp] theorem State.onGrp_mem (s : State) (k : Nat) (f : Group → Group) : (s.onGrp k f).mem = s.mem := rfl
@[simp] theorem State.onGrp_homes (s : State) (k : Nat) (f : Group → Group) : (s.onGrp k f).homes = s.homes := rfl
@[simp] theorem State.onGrp_bad (s : State) (k : Nat) (f : Group → Group) : (s.onGrp k f).bad = s.bad := rfl
@[simp] theorem State.onGrp_sramBad (s : State) (k : Nat) (f : Group → Group) : (s.onGrp k f).sramBad = s.sramBad := rfl
@[simp] theorem State.onGrp_sramFixed (s : State) (k : Nat) (f : Group → Group) : (s.onGrp k f).sramFixed = s.sramFixed := rfl
@[simp] theorem State.onGrp_held (s : State) (k : Nat) (f : Group → Group) : (s.onGrp k f).held = s.held := rfl
@[simp] theorem State.onGrp_pins (s : State) (k : Nat) (f : Group → Group) : (s.onGrp k f).pins = s.pins := rfl
@[simp] theorem State.onGrp_refusals (s : State) (k : Nat) (f : Group → Group) : (s.onGrp k f).refusals = s.refusals := rfl
@[simp] theorem State.onGrp_aholds (s : State) (k : Nat) (f : Group → Group) : (s.onGrp k f).aholds = s.aholds := rfl
@[simp] theorem State.onGrp_svcStores (s : State) (k : Nat) (f : Group → Group) : (s.onGrp k f).svcStores = s.svcStores := rfl
@[simp] theorem State.onGrp_farSeen (s : State) (k : Nat) (f : Group → Group) : (s.onGrp k f).farSeen = s.farSeen := rfl
@[simp] theorem State.onGrp_farQueue (s : State) (k : Nat) (f : Group → Group) : (s.onGrp k f).farQueue = s.farQueue := rfl
@[simp] theorem State.onGrp_forced (s : State) (k : Nat) (f : Group → Group) : (s.onGrp k f).forced = s.forced := rfl
@[simp] theorem State.onGrp_units (s : State) (k : Nat) (f : Group → Group) : (s.onGrp k f).units = s.units := rfl
@[simp] theorem State.onGrp_transit (s : State) (k : Nat) (f : Group → Group) : (s.onGrp k f).transit = s.transit := rfl
@[simp] theorem State.onGrp_abroad (s : State) (k : Nat) (f : Group → Group) : (s.onGrp k f).abroad = s.abroad := rfl
@[simp] theorem State.onGrp_binsOut (s : State) (k : Nat) (f : Group → Group) : (s.onGrp k f).binsOut = s.binsOut := rfl
@[simp] theorem State.onGrp_farBins (s : State) (k : Nat) (f : Group → Group) : (s.onGrp k f).farBins = s.farBins := rfl
@[simp] theorem State.onGrp_farCommits (s : State) (k : Nat) (f : Group → Group) : (s.onGrp k f).farCommits = s.farCommits := rfl
@[simp] theorem State.onGrp_lostOrigins (s : State) (k : Nat) (f : Group → Group) : (s.onGrp k f).lostOrigins = s.lostOrigins := rfl
@[simp] theorem State.onGrp_chans (s : State) (k : Nat) (f : Group → Group) : (s.onGrp k f).chans = s.chans := rfl
@[simp] theorem State.onGrp_commits (s : State) (k : Nat) (f : Group → Group) : (s.onGrp k f).commits = s.commits := rfl
@[simp] theorem State.onGrp_nextCommit (s : State) (k : Nat) (f : Group → Group) : (s.onGrp k f).nextCommit = s.nextCommit := rfl
@[simp] theorem State.onGrp_noticesOut (s : State) (k : Nat) (f : Group → Group) : (s.onGrp k f).noticesOut = s.noticesOut := rfl
@[simp] theorem State.onGrp_acks (s : State) (k : Nat) (f : Group → Group) : (s.onGrp k f).acks = s.acks := rfl
@[simp] theorem State.onGrp_pchans (s : State) (k : Nat) (f : Group → Group) : (s.onGrp k f).pchans = s.pchans := rfl
@[simp] theorem State.onGrp_sets (s : State) (k : Nat) (f : Group → Group) : (s.onGrp k f).sets = s.sets := rfl
@[simp] theorem State.onGrp_nextSet (s : State) (k : Nat) (f : Group → Group) : (s.onGrp k f).nextSet = s.nextSet := rfl
@[simp] theorem State.onGrp_spill (s : State) (k : Nat) (f : Group → Group) : (s.onGrp k f).spill = s.spill := rfl
@[simp] theorem State.onGrp_spillMax (s : State) (k : Nat) (f : Group → Group) : (s.onGrp k f).spillMax = s.spillMax := rfl
@[simp] theorem State.onGrp_resv (s : State) (k : Nat) (f : Group → Group) : (s.onGrp k f).resv = s.resv := rfl
@[simp] theorem State.onGrp_rot (s : State) (k : Nat) (f : Group → Group) : (s.onGrp k f).rot = s.rot := rfl
@[simp] theorem State.onGrp_suspd (s : State) (k : Nat) (f : Group → Group) : (s.onGrp k f).suspd = s.suspd := rfl
@[simp] theorem State.onGrp_graphs (s : State) (k : Nat) (f : Group → Group) : (s.onGrp k f).graphs = s.graphs := rfl
@[simp] theorem State.onGrp_nextGraph (s : State) (k : Nat) (f : Group → Group) : (s.onGrp k f).nextGraph = s.nextGraph := rfl
@[simp] theorem State.onGrp_ctxs (s : State) (k : Nat) (f : Group → Group) : (s.onGrp k f).ctxs = s.ctxs := rfl
@[simp] theorem State.onGrp_nextCtx (s : State) (k : Nat) (f : Group → Group) : (s.onGrp k f).nextCtx = s.nextCtx := rfl
@[simp] theorem State.onGrp_mapped (s : State) (k : Nat) (f : Group → Group) : (s.onGrp k f).mapped = s.mapped := rfl
@[simp] theorem State.onGrp_ring (s : State) (k : Nat) (f : Group → Group) : (s.onGrp k f).ring = s.ring := rfl
@[simp] theorem State.onGrp_ringBase (s : State) (k : Nat) (f : Group → Group) : (s.onGrp k f).ringBase = s.ringBase := rfl
@[simp] theorem State.onGrp_nextSeq (s : State) (k : Nat) (f : Group → Group) : (s.onGrp k f).nextSeq = s.nextSeq := rfl
@[simp] theorem State.onGrp_nextSerial (s : State) (k : Nat) (f : Group → Group) : (s.onGrp k f).nextSerial = s.nextSerial := rfl
@[simp] theorem State.onGrp_nextWin (s : State) (k : Nat) (f : Group → Group) : (s.onGrp k f).nextWin = s.nextWin := rfl
@[simp] theorem State.onGrp_access (s : State) (k : Nat) (f : Group → Group) : (s.onGrp k f).access = s.access := rfl
@[simp] theorem State.onGrp_conns (s : State) (k : Nat) (f : Group → Group) : (s.onGrp k f).conns = s.conns := rfl
@[simp] theorem State.onGrp_xfers (s : State) (k : Nat) (f : Group → Group) : (s.onGrp k f).xfers = s.xfers := rfl
@[simp] theorem State.onGrp_replies (s : State) (k : Nat) (f : Group → Group) : (s.onGrp k f).replies = s.replies := rfl
@[simp] theorem State.onGrp_bulk (s : State) (k : Nat) (f : Group → Group) : (s.onGrp k f).bulk = s.bulk := rfl
@[simp] theorem State.onGrp_dropped (s : State) (k : Nat) (f : Group → Group) : (s.onGrp k f).dropped = s.dropped := rfl
@[simp] theorem State.onGrp_msets (s : State) (k : Nat) (f : Group → Group) : (s.onGrp k f).msets = s.msets := rfl
@[simp] theorem State.onGrp_rounds (s : State) (k : Nat) (f : Group → Group) : (s.onGrp k f).rounds = s.rounds := rfl
@[simp] theorem State.onGrp_nextRound (s : State) (k : Nat) (f : Group → Group) : (s.onGrp k f).nextRound = s.nextRound := rfl
@[simp] theorem State.onGrp_ports (s : State) (k : Nat) (f : Group → Group) : (s.onGrp k f).ports = s.ports := rfl
@[simp] theorem State.onGrp_down (s : State) (k : Nat) (f : Group → Group) : (s.onGrp k f).down = s.down := rfl
@[simp] theorem State.onGrp_remote (s : State) (k : Nat) (f : Group → Group) : (s.onGrp k f).remote = s.remote := rfl
@[simp] theorem State.onGrp_nextTag (s : State) (k : Nat) (f : Group → Group) : (s.onGrp k f).nextTag = s.nextTag := rfl
@[simp] theorem State.onGrp_ueDrop0 (s : State) (k : Nat) (f : Group → Group) : (s.onGrp k f).ueDrop0 = s.ueDrop0 := rfl
@[simp] theorem State.onGrp_ueDrop1 (s : State) (k : Nat) (f : Group → Group) : (s.onGrp k f).ueDrop1 = s.ueDrop1 := rfl
@[simp] theorem State.onGrp_throttles (s : State) (k : Nat) (f : Group → Group) : (s.onGrp k f).throttles = s.throttles := rfl
@[simp] theorem State.onGrp_replace (s : State) (k : Nat) (f : Group → Group) : (s.onGrp k f).replace = s.replace := rfl
@[simp] theorem State.onGrp_flash (s : State) (k : Nat) (f : Group → Group) : (s.onGrp k f).flash = s.flash := rfl
@[simp] theorem State.onGrp_writing (s : State) (k : Nat) (f : Group → Group) : (s.onGrp k f).writing = s.writing := rfl
@[simp] theorem State.onGrp_toWrite (s : State) (k : Nat) (f : Group → Group) : (s.onGrp k f).toWrite = s.toWrite := rfl
@[simp] theorem State.onGrp_image (s : State) (k : Nat) (f : Group → Group) : (s.onGrp k f).image = s.image := rfl
@[simp] theorem State.onGrp_booted (s : State) (k : Nat) (f : Group → Group) : (s.onGrp k f).booted = s.booted := rfl
@[simp] theorem State.onGrp_device (s : State) (k : Nat) (f : Group → Group) : (s.onGrp k f).device = s.device := rfl
@[simp] theorem State.onGrp_cycle (s : State) (k : Nat) (f : Group → Group) : (s.onGrp k f).cycle = s.cycle := rfl
@[simp] theorem State.onGrp_agenda (s : State) (k : Nat) (f : Group → Group) : (s.onGrp k f).agenda = s.agenda := rfl
@[simp] theorem State.onGrp_cur (s : State) (k : Nat) (f : Group → Group) : (s.onGrp k f).cur = s.cur := rfl
@[simp] theorem State.onGrp_free (s : State) (k : Nat) (f : Group → Group) : (s.onGrp k f).free = s.free := rfl
@[simp] theorem State.grp_onGrp_same (s : State) (k : Nat) (f : Group → Group) : (s.onGrp k f).grp k = f (s.grp k) := by
  simp [State.onGrp]
theorem State.grp_onGrp_other (s : State) {k j : Nat} (f : Group → Group) (h : j ≠ k) : (s.onGrp k f).grp j = s.grp j := by
  simp [State.onGrp, State.grp_setGrp_other _ _ h]
@[simp] theorem State.inst_onGrp (s : State) (k j : Nat) (f : Group → Group) : (s.onGrp k f).inst j = s.inst j := rfl
@[simp] theorem State.core_onGrp (s : State) (k j : Nat) (f : Group → Group) : (s.onGrp k f).core j = s.core j := rfl
@[simp] theorem State.chan_onGrp (s : State) (k j : Nat) (f : Group → Group) : (s.onGrp k f).chan j = s.chan j := rfl
@[simp] theorem State.pchan_onGrp (s : State) (k j : Nat) (f : Group → Group) : (s.onGrp k f).pchan j = s.pchan j := rfl
@[simp] theorem State.bunit_onGrp (s : State) (k j : Nat) (f : Group → Group) : (s.onGrp k f).bunit j = s.bunit j := rfl

@[simp] theorem Group.setS_live (g : Group) (r : Nat) (w : Word64) : (g.setS r w).live = g.live := rfl
@[simp] theorem Group.setS_ctx (g : Group) (r : Nat) (w : Word64) : (g.setS r w).ctx = g.ctx := rfl
@[simp] theorem Group.setS_tslot (g : Group) (r : Nat) (w : Word64) : (g.setS r w).tslot = g.tslot := rfl
@[simp] theorem Group.setS_gidx (g : Group) (r : Nat) (w : Word64) : (g.setS r w).gidx = g.gidx := rfl
@[simp] theorem Group.setS_width (g : Group) (r : Nat) (w : Word64) : (g.setS r w).width = g.width := rfl
@[simp] theorem Group.setS_pc (g : Group) (r : Nat) (w : Word64) : (g.setS r w).pc = g.pc := rfl
@[simp] theorem Group.setS_v (g : Group) (r : Nat) (w : Word64) : (g.setS r w).v = g.v := rfl
@[simp] theorem Group.setS_shadow (g : Group) (r : Nat) (w : Word64) : (g.setS r w).shadow = g.shadow := rfl
@[simp] theorem Group.setS_p (g : Group) (r : Nat) (w : Word64) : (g.setS r w).p = g.p := rfl
@[simp] theorem Group.setS_g (g : Group) (r : Nat) (w : Word64) : (g.setS r w).g = g.g := rfl
@[simp] theorem Group.setS_em (g : Group) (r : Nat) (w : Word64) : (g.setS r w).em = g.em := rfl
@[simp] theorem Group.setS_blocks (g : Group) (r : Nat) (w : Word64) : (g.setS r w).blocks = g.blocks := rfl
@[simp] theorem Group.setS_gstat (g : Group) (r : Nat) (w : Word64) : (g.setS r w).gstat = g.gstat := rfl
@[simp] theorem Group.setS_mstride (g : Group) (r : Nat) (w : Word64) : (g.setS r w).mstride = g.mstride := rfl
@[simp] theorem Group.setS_mfmt (g : Group) (r : Nat) (w : Word64) : (g.setS r w).mfmt = g.mfmt := rfl
@[simp] theorem Group.setS_mkres (g : Group) (r : Nat) (w : Word64) : (g.setS r w).mkres = g.mkres := rfl
@[simp] theorem Group.setS_dsb (g : Group) (r : Nat) (w : Word64) : (g.setS r w).dsb = g.dsb := rfl
@[simp] theorem Group.setS_dsd (g : Group) (r : Nat) (w : Word64) : (g.setS r w).dsd = g.dsd := rfl
@[simp] theorem Group.setS_dfmt (g : Group) (r : Nat) (w : Word64) : (g.setS r w).dfmt = g.dfmt := rfl
@[simp] theorem Group.setS_crew (g : Group) (r : Nat) (w : Word64) : (g.setS r w).crew = g.crew := rfl
@[simp] theorem Group.setS_tvec (g : Group) (r : Nat) (w : Word64) : (g.setS r w).tvec = g.tvec := rfl
@[simp] theorem Group.setS_tcause (g : Group) (r : Nat) (w : Word64) : (g.setS r w).tcause = g.tcause := rfl
@[simp] theorem Group.setS_tepc (g : Group) (r : Nat) (w : Word64) : (g.setS r w).tepc = g.tepc := rfl
@[simp] theorem Group.setS_taddr (g : Group) (r : Nat) (w : Word64) : (g.setS r w).taddr = g.taddr := rfl
@[simp] theorem Group.setS_tinfo (g : Group) (r : Nat) (w : Word64) : (g.setS r w).tinfo = g.tinfo := rfl
@[simp] theorem Group.setS_susp (g : Group) (r : Nat) (w : Word64) : (g.setS r w).susp = g.susp := rfl
@[simp] theorem Group.setS_det (g : Group) (r : Nat) (w : Word64) : (g.setS r w).det = g.det := rfl
@[simp] theorem Group.setS_pol (g : Group) (r : Nat) (w : Word64) : (g.setS r w).pol = g.pol := rfl
@[simp] theorem Group.setS_priv (g : Group) (r : Nat) (w : Word64) : (g.setS r w).priv = g.priv := rfl
@[simp] theorem Group.setS_wdlim (g : Group) (r : Nat) (w : Word64) : (g.setS r w).wdlim = g.wdlim := rfl
@[simp] theorem Group.setS_tskip (g : Group) (r : Nat) (w : Word64) : (g.setS r w).tskip = g.tskip := rfl
@[simp] theorem Group.setS_pfx (g : Group) (r : Nat) (w : Word64) : (g.setS r w).pfx = g.pfx := rfl
@[simp] theorem Group.setS_flight (g : Group) (r : Nat) (w : Word64) : (g.setS r w).flight = g.flight := rfl
@[simp] theorem Group.setS_skip (g : Group) (r : Nat) (w : Word64) : (g.setS r w).skip = g.skip := rfl
@[simp] theorem Group.setS_status (g : Group) (r : Nat) (w : Word64) : (g.setS r w).status = g.status := rfl
@[simp] theorem Group.setS_preempt (g : Group) (r : Nat) (w : Word64) : (g.setS r w).preempt = g.preempt := rfl
@[simp] theorem Group.setS_lastIssue (g : Group) (r : Nat) (w : Word64) : (g.setS r w).lastIssue = g.lastIssue := rfl
@[simp] theorem Group.setS_yielded (g : Group) (r : Nat) (w : Word64) : (g.setS r w).yielded = g.yielded := rfl
@[simp] theorem Group.setS_rstack (g : Group) (r : Nat) (w : Word64) : (g.setS r w).rstack = g.rstack := rfl
@[simp] theorem Group.setS_dirty (g : Group) (r : Nat) (w : Word64) : (g.setS r w).dirty = g.dirty := rfl
@[simp] theorem Group.setS_old (g : Group) (r : Nat) (w : Word64) : (g.setS r w).old = g.old := rfl
@[simp] theorem Group.setS_marked (g : Group) (r : Nat) (w : Word64) : (g.setS r w).marked = g.marked := rfl
@[simp] theorem Group.setS_reserved (g : Group) (r : Nat) (w : Word64) : (g.setS r w).reserved = g.reserved := rfl
@[simp] theorem Group.setS_heldCbar (g : Group) (r : Nat) (w : Word64) : (g.setS r w).heldCbar = g.heldCbar := rfl
@[simp] theorem Group.setS_heldAt (g : Group) (r : Nat) (w : Word64) : (g.setS r w).heldAt = g.heldAt := rfl
@[simp] theorem Group.setS_heldStores (g : Group) (r : Nat) (w : Word64) : (g.setS r w).heldStores = g.heldStores := rfl
@[simp] theorem Group.setS_heldDone (g : Group) (r : Nat) (w : Word64) : (g.setS r w).heldDone = g.heldDone := rfl
@[simp] theorem Group.setS_svcCommit (g : Group) (r : Nat) (w : Word64) : (g.setS r w).svcCommit = g.svcCommit := rfl
@[simp] theorem Group.setV_live (g : Group) (r i : Nat) (w : Word32) : (g.setV r i w).live = g.live := rfl
@[simp] theorem Group.setV_ctx (g : Group) (r i : Nat) (w : Word32) : (g.setV r i w).ctx = g.ctx := rfl
@[simp] theorem Group.setV_tslot (g : Group) (r i : Nat) (w : Word32) : (g.setV r i w).tslot = g.tslot := rfl
@[simp] theorem Group.setV_gidx (g : Group) (r i : Nat) (w : Word32) : (g.setV r i w).gidx = g.gidx := rfl
@[simp] theorem Group.setV_width (g : Group) (r i : Nat) (w : Word32) : (g.setV r i w).width = g.width := rfl
@[simp] theorem Group.setV_pc (g : Group) (r i : Nat) (w : Word32) : (g.setV r i w).pc = g.pc := rfl
@[simp] theorem Group.setV_s (g : Group) (r i : Nat) (w : Word32) : (g.setV r i w).s = g.s := rfl
@[simp] theorem Group.setV_shadow (g : Group) (r i : Nat) (w : Word32) : (g.setV r i w).shadow = g.shadow := rfl
@[simp] theorem Group.setV_p (g : Group) (r i : Nat) (w : Word32) : (g.setV r i w).p = g.p := rfl
@[simp] theorem Group.setV_g (g : Group) (r i : Nat) (w : Word32) : (g.setV r i w).g = g.g := rfl
@[simp] theorem Group.setV_em (g : Group) (r i : Nat) (w : Word32) : (g.setV r i w).em = g.em := rfl
@[simp] theorem Group.setV_blocks (g : Group) (r i : Nat) (w : Word32) : (g.setV r i w).blocks = g.blocks := rfl
@[simp] theorem Group.setV_gstat (g : Group) (r i : Nat) (w : Word32) : (g.setV r i w).gstat = g.gstat := rfl
@[simp] theorem Group.setV_mstride (g : Group) (r i : Nat) (w : Word32) : (g.setV r i w).mstride = g.mstride := rfl
@[simp] theorem Group.setV_mfmt (g : Group) (r i : Nat) (w : Word32) : (g.setV r i w).mfmt = g.mfmt := rfl
@[simp] theorem Group.setV_mkres (g : Group) (r i : Nat) (w : Word32) : (g.setV r i w).mkres = g.mkres := rfl
@[simp] theorem Group.setV_dsb (g : Group) (r i : Nat) (w : Word32) : (g.setV r i w).dsb = g.dsb := rfl
@[simp] theorem Group.setV_dsd (g : Group) (r i : Nat) (w : Word32) : (g.setV r i w).dsd = g.dsd := rfl
@[simp] theorem Group.setV_dfmt (g : Group) (r i : Nat) (w : Word32) : (g.setV r i w).dfmt = g.dfmt := rfl
@[simp] theorem Group.setV_crew (g : Group) (r i : Nat) (w : Word32) : (g.setV r i w).crew = g.crew := rfl
@[simp] theorem Group.setV_tvec (g : Group) (r i : Nat) (w : Word32) : (g.setV r i w).tvec = g.tvec := rfl
@[simp] theorem Group.setV_tcause (g : Group) (r i : Nat) (w : Word32) : (g.setV r i w).tcause = g.tcause := rfl
@[simp] theorem Group.setV_tepc (g : Group) (r i : Nat) (w : Word32) : (g.setV r i w).tepc = g.tepc := rfl
@[simp] theorem Group.setV_taddr (g : Group) (r i : Nat) (w : Word32) : (g.setV r i w).taddr = g.taddr := rfl
@[simp] theorem Group.setV_tinfo (g : Group) (r i : Nat) (w : Word32) : (g.setV r i w).tinfo = g.tinfo := rfl
@[simp] theorem Group.setV_susp (g : Group) (r i : Nat) (w : Word32) : (g.setV r i w).susp = g.susp := rfl
@[simp] theorem Group.setV_det (g : Group) (r i : Nat) (w : Word32) : (g.setV r i w).det = g.det := rfl
@[simp] theorem Group.setV_pol (g : Group) (r i : Nat) (w : Word32) : (g.setV r i w).pol = g.pol := rfl
@[simp] theorem Group.setV_priv (g : Group) (r i : Nat) (w : Word32) : (g.setV r i w).priv = g.priv := rfl
@[simp] theorem Group.setV_wdlim (g : Group) (r i : Nat) (w : Word32) : (g.setV r i w).wdlim = g.wdlim := rfl
@[simp] theorem Group.setV_tskip (g : Group) (r i : Nat) (w : Word32) : (g.setV r i w).tskip = g.tskip := rfl
@[simp] theorem Group.setV_pfx (g : Group) (r i : Nat) (w : Word32) : (g.setV r i w).pfx = g.pfx := rfl
@[simp] theorem Group.setV_flight (g : Group) (r i : Nat) (w : Word32) : (g.setV r i w).flight = g.flight := rfl
@[simp] theorem Group.setV_skip (g : Group) (r i : Nat) (w : Word32) : (g.setV r i w).skip = g.skip := rfl
@[simp] theorem Group.setV_status (g : Group) (r i : Nat) (w : Word32) : (g.setV r i w).status = g.status := rfl
@[simp] theorem Group.setV_preempt (g : Group) (r i : Nat) (w : Word32) : (g.setV r i w).preempt = g.preempt := rfl
@[simp] theorem Group.setV_lastIssue (g : Group) (r i : Nat) (w : Word32) : (g.setV r i w).lastIssue = g.lastIssue := rfl
@[simp] theorem Group.setV_yielded (g : Group) (r i : Nat) (w : Word32) : (g.setV r i w).yielded = g.yielded := rfl
@[simp] theorem Group.setV_rstack (g : Group) (r i : Nat) (w : Word32) : (g.setV r i w).rstack = g.rstack := rfl
@[simp] theorem Group.setV_dirty (g : Group) (r i : Nat) (w : Word32) : (g.setV r i w).dirty = g.dirty := rfl
@[simp] theorem Group.setV_old (g : Group) (r i : Nat) (w : Word32) : (g.setV r i w).old = g.old := rfl
@[simp] theorem Group.setV_marked (g : Group) (r i : Nat) (w : Word32) : (g.setV r i w).marked = g.marked := rfl
@[simp] theorem Group.setV_reserved (g : Group) (r i : Nat) (w : Word32) : (g.setV r i w).reserved = g.reserved := rfl
@[simp] theorem Group.setV_heldCbar (g : Group) (r i : Nat) (w : Word32) : (g.setV r i w).heldCbar = g.heldCbar := rfl
@[simp] theorem Group.setV_heldAt (g : Group) (r i : Nat) (w : Word32) : (g.setV r i w).heldAt = g.heldAt := rfl
@[simp] theorem Group.setV_heldStores (g : Group) (r i : Nat) (w : Word32) : (g.setV r i w).heldStores = g.heldStores := rfl
@[simp] theorem Group.setV_heldDone (g : Group) (r i : Nat) (w : Word32) : (g.setV r i w).heldDone = g.heldDone := rfl
@[simp] theorem Group.setV_svcCommit (g : Group) (r i : Nat) (w : Word32) : (g.setV r i w).svcCommit = g.svcCommit := rfl
@[simp] theorem Group.setGen_live (g : Group) (r : Nat) (x : Gen) : (g.setGen r x).live = g.live := rfl
@[simp] theorem Group.setGen_ctx (g : Group) (r : Nat) (x : Gen) : (g.setGen r x).ctx = g.ctx := rfl
@[simp] theorem Group.setGen_tslot (g : Group) (r : Nat) (x : Gen) : (g.setGen r x).tslot = g.tslot := rfl
@[simp] theorem Group.setGen_gidx (g : Group) (r : Nat) (x : Gen) : (g.setGen r x).gidx = g.gidx := rfl
@[simp] theorem Group.setGen_width (g : Group) (r : Nat) (x : Gen) : (g.setGen r x).width = g.width := rfl
@[simp] theorem Group.setGen_pc (g : Group) (r : Nat) (x : Gen) : (g.setGen r x).pc = g.pc := rfl
@[simp] theorem Group.setGen_v (g : Group) (r : Nat) (x : Gen) : (g.setGen r x).v = g.v := rfl
@[simp] theorem Group.setGen_s (g : Group) (r : Nat) (x : Gen) : (g.setGen r x).s = g.s := rfl
@[simp] theorem Group.setGen_shadow (g : Group) (r : Nat) (x : Gen) : (g.setGen r x).shadow = g.shadow := rfl
@[simp] theorem Group.setGen_p (g : Group) (r : Nat) (x : Gen) : (g.setGen r x).p = g.p := rfl
@[simp] theorem Group.setGen_em (g : Group) (r : Nat) (x : Gen) : (g.setGen r x).em = g.em := rfl
@[simp] theorem Group.setGen_blocks (g : Group) (r : Nat) (x : Gen) : (g.setGen r x).blocks = g.blocks := rfl
@[simp] theorem Group.setGen_gstat (g : Group) (r : Nat) (x : Gen) : (g.setGen r x).gstat = g.gstat := rfl
@[simp] theorem Group.setGen_mstride (g : Group) (r : Nat) (x : Gen) : (g.setGen r x).mstride = g.mstride := rfl
@[simp] theorem Group.setGen_mfmt (g : Group) (r : Nat) (x : Gen) : (g.setGen r x).mfmt = g.mfmt := rfl
@[simp] theorem Group.setGen_mkres (g : Group) (r : Nat) (x : Gen) : (g.setGen r x).mkres = g.mkres := rfl
@[simp] theorem Group.setGen_dsb (g : Group) (r : Nat) (x : Gen) : (g.setGen r x).dsb = g.dsb := rfl
@[simp] theorem Group.setGen_dsd (g : Group) (r : Nat) (x : Gen) : (g.setGen r x).dsd = g.dsd := rfl
@[simp] theorem Group.setGen_dfmt (g : Group) (r : Nat) (x : Gen) : (g.setGen r x).dfmt = g.dfmt := rfl
@[simp] theorem Group.setGen_crew (g : Group) (r : Nat) (x : Gen) : (g.setGen r x).crew = g.crew := rfl
@[simp] theorem Group.setGen_tvec (g : Group) (r : Nat) (x : Gen) : (g.setGen r x).tvec = g.tvec := rfl
@[simp] theorem Group.setGen_tcause (g : Group) (r : Nat) (x : Gen) : (g.setGen r x).tcause = g.tcause := rfl
@[simp] theorem Group.setGen_tepc (g : Group) (r : Nat) (x : Gen) : (g.setGen r x).tepc = g.tepc := rfl
@[simp] theorem Group.setGen_taddr (g : Group) (r : Nat) (x : Gen) : (g.setGen r x).taddr = g.taddr := rfl
@[simp] theorem Group.setGen_tinfo (g : Group) (r : Nat) (x : Gen) : (g.setGen r x).tinfo = g.tinfo := rfl
@[simp] theorem Group.setGen_susp (g : Group) (r : Nat) (x : Gen) : (g.setGen r x).susp = g.susp := rfl
@[simp] theorem Group.setGen_det (g : Group) (r : Nat) (x : Gen) : (g.setGen r x).det = g.det := rfl
@[simp] theorem Group.setGen_pol (g : Group) (r : Nat) (x : Gen) : (g.setGen r x).pol = g.pol := rfl
@[simp] theorem Group.setGen_priv (g : Group) (r : Nat) (x : Gen) : (g.setGen r x).priv = g.priv := rfl
@[simp] theorem Group.setGen_wdlim (g : Group) (r : Nat) (x : Gen) : (g.setGen r x).wdlim = g.wdlim := rfl
@[simp] theorem Group.setGen_tskip (g : Group) (r : Nat) (x : Gen) : (g.setGen r x).tskip = g.tskip := rfl
@[simp] theorem Group.setGen_pfx (g : Group) (r : Nat) (x : Gen) : (g.setGen r x).pfx = g.pfx := rfl
@[simp] theorem Group.setGen_flight (g : Group) (r : Nat) (x : Gen) : (g.setGen r x).flight = g.flight := rfl
@[simp] theorem Group.setGen_skip (g : Group) (r : Nat) (x : Gen) : (g.setGen r x).skip = g.skip := rfl
@[simp] theorem Group.setGen_status (g : Group) (r : Nat) (x : Gen) : (g.setGen r x).status = g.status := rfl
@[simp] theorem Group.setGen_preempt (g : Group) (r : Nat) (x : Gen) : (g.setGen r x).preempt = g.preempt := rfl
@[simp] theorem Group.setGen_lastIssue (g : Group) (r : Nat) (x : Gen) : (g.setGen r x).lastIssue = g.lastIssue := rfl
@[simp] theorem Group.setGen_yielded (g : Group) (r : Nat) (x : Gen) : (g.setGen r x).yielded = g.yielded := rfl
@[simp] theorem Group.setGen_rstack (g : Group) (r : Nat) (x : Gen) : (g.setGen r x).rstack = g.rstack := rfl
@[simp] theorem Group.setGen_dirty (g : Group) (r : Nat) (x : Gen) : (g.setGen r x).dirty = g.dirty := rfl
@[simp] theorem Group.setGen_old (g : Group) (r : Nat) (x : Gen) : (g.setGen r x).old = g.old := rfl
@[simp] theorem Group.setGen_marked (g : Group) (r : Nat) (x : Gen) : (g.setGen r x).marked = g.marked := rfl
@[simp] theorem Group.setGen_reserved (g : Group) (r : Nat) (x : Gen) : (g.setGen r x).reserved = g.reserved := rfl
@[simp] theorem Group.setGen_heldCbar (g : Group) (r : Nat) (x : Gen) : (g.setGen r x).heldCbar = g.heldCbar := rfl
@[simp] theorem Group.setGen_heldAt (g : Group) (r : Nat) (x : Gen) : (g.setGen r x).heldAt = g.heldAt := rfl
@[simp] theorem Group.setGen_heldStores (g : Group) (r : Nat) (x : Gen) : (g.setGen r x).heldStores = g.heldStores := rfl
@[simp] theorem Group.setGen_heldDone (g : Group) (r : Nat) (x : Gen) : (g.setGen r x).heldDone = g.heldDone := rfl
@[simp] theorem Group.setGen_svcCommit (g : Group) (r : Nat) (x : Gen) : (g.setGen r x).svcCommit = g.svcCommit := rfl
@[simp] theorem Group.raise_live (g : Group) (x : Flags) : (g.raise x).live = g.live := rfl
@[simp] theorem Group.raise_ctx (g : Group) (x : Flags) : (g.raise x).ctx = g.ctx := rfl
@[simp] theorem Group.raise_tslot (g : Group) (x : Flags) : (g.raise x).tslot = g.tslot := rfl
@[simp] theorem Group.raise_gidx (g : Group) (x : Flags) : (g.raise x).gidx = g.gidx := rfl
@[simp] theorem Group.raise_width (g : Group) (x : Flags) : (g.raise x).width = g.width := rfl
@[simp] theorem Group.raise_pc (g : Group) (x : Flags) : (g.raise x).pc = g.pc := rfl
@[simp] theorem Group.raise_v (g : Group) (x : Flags) : (g.raise x).v = g.v := rfl
@[simp] theorem Group.raise_s (g : Group) (x : Flags) : (g.raise x).s = g.s := rfl
@[simp] theorem Group.raise_shadow (g : Group) (x : Flags) : (g.raise x).shadow = g.shadow := rfl
@[simp] theorem Group.raise_p (g : Group) (x : Flags) : (g.raise x).p = g.p := rfl
@[simp] theorem Group.raise_g (g : Group) (x : Flags) : (g.raise x).g = g.g := rfl
@[simp] theorem Group.raise_em (g : Group) (x : Flags) : (g.raise x).em = g.em := rfl
@[simp] theorem Group.raise_blocks (g : Group) (x : Flags) : (g.raise x).blocks = g.blocks := rfl
@[simp] theorem Group.raise_mstride (g : Group) (x : Flags) : (g.raise x).mstride = g.mstride := rfl
@[simp] theorem Group.raise_mfmt (g : Group) (x : Flags) : (g.raise x).mfmt = g.mfmt := rfl
@[simp] theorem Group.raise_mkres (g : Group) (x : Flags) : (g.raise x).mkres = g.mkres := rfl
@[simp] theorem Group.raise_dsb (g : Group) (x : Flags) : (g.raise x).dsb = g.dsb := rfl
@[simp] theorem Group.raise_dsd (g : Group) (x : Flags) : (g.raise x).dsd = g.dsd := rfl
@[simp] theorem Group.raise_dfmt (g : Group) (x : Flags) : (g.raise x).dfmt = g.dfmt := rfl
@[simp] theorem Group.raise_crew (g : Group) (x : Flags) : (g.raise x).crew = g.crew := rfl
@[simp] theorem Group.raise_tvec (g : Group) (x : Flags) : (g.raise x).tvec = g.tvec := rfl
@[simp] theorem Group.raise_tcause (g : Group) (x : Flags) : (g.raise x).tcause = g.tcause := rfl
@[simp] theorem Group.raise_tepc (g : Group) (x : Flags) : (g.raise x).tepc = g.tepc := rfl
@[simp] theorem Group.raise_taddr (g : Group) (x : Flags) : (g.raise x).taddr = g.taddr := rfl
@[simp] theorem Group.raise_tinfo (g : Group) (x : Flags) : (g.raise x).tinfo = g.tinfo := rfl
@[simp] theorem Group.raise_susp (g : Group) (x : Flags) : (g.raise x).susp = g.susp := rfl
@[simp] theorem Group.raise_det (g : Group) (x : Flags) : (g.raise x).det = g.det := rfl
@[simp] theorem Group.raise_pol (g : Group) (x : Flags) : (g.raise x).pol = g.pol := rfl
@[simp] theorem Group.raise_priv (g : Group) (x : Flags) : (g.raise x).priv = g.priv := rfl
@[simp] theorem Group.raise_wdlim (g : Group) (x : Flags) : (g.raise x).wdlim = g.wdlim := rfl
@[simp] theorem Group.raise_tskip (g : Group) (x : Flags) : (g.raise x).tskip = g.tskip := rfl
@[simp] theorem Group.raise_pfx (g : Group) (x : Flags) : (g.raise x).pfx = g.pfx := rfl
@[simp] theorem Group.raise_flight (g : Group) (x : Flags) : (g.raise x).flight = g.flight := rfl
@[simp] theorem Group.raise_skip (g : Group) (x : Flags) : (g.raise x).skip = g.skip := rfl
@[simp] theorem Group.raise_status (g : Group) (x : Flags) : (g.raise x).status = g.status := rfl
@[simp] theorem Group.raise_preempt (g : Group) (x : Flags) : (g.raise x).preempt = g.preempt := rfl
@[simp] theorem Group.raise_lastIssue (g : Group) (x : Flags) : (g.raise x).lastIssue = g.lastIssue := rfl
@[simp] theorem Group.raise_yielded (g : Group) (x : Flags) : (g.raise x).yielded = g.yielded := rfl
@[simp] theorem Group.raise_rstack (g : Group) (x : Flags) : (g.raise x).rstack = g.rstack := rfl
@[simp] theorem Group.raise_dirty (g : Group) (x : Flags) : (g.raise x).dirty = g.dirty := rfl
@[simp] theorem Group.raise_old (g : Group) (x : Flags) : (g.raise x).old = g.old := rfl
@[simp] theorem Group.raise_marked (g : Group) (x : Flags) : (g.raise x).marked = g.marked := rfl
@[simp] theorem Group.raise_reserved (g : Group) (x : Flags) : (g.raise x).reserved = g.reserved := rfl
@[simp] theorem Group.raise_heldCbar (g : Group) (x : Flags) : (g.raise x).heldCbar = g.heldCbar := rfl
@[simp] theorem Group.raise_heldAt (g : Group) (x : Flags) : (g.raise x).heldAt = g.heldAt := rfl
@[simp] theorem Group.raise_heldStores (g : Group) (x : Flags) : (g.raise x).heldStores = g.heldStores := rfl
@[simp] theorem Group.raise_heldDone (g : Group) (x : Flags) : (g.raise x).heldDone = g.heldDone := rfl
@[simp] theorem Group.raise_svcCommit (g : Group) (x : Flags) : (g.raise x).svcCommit = g.svcCommit := rfl
@[simp] theorem Group.setP_live (g : Group) (r : Nat) (w : Word64) : (g.setP r w).live = g.live := by
  unfold Group.setP; split <;> rfl
@[simp] theorem Group.setP_ctx (g : Group) (r : Nat) (w : Word64) : (g.setP r w).ctx = g.ctx := by
  unfold Group.setP; split <;> rfl
@[simp] theorem Group.setP_tslot (g : Group) (r : Nat) (w : Word64) : (g.setP r w).tslot = g.tslot := by
  unfold Group.setP; split <;> rfl
@[simp] theorem Group.setP_gidx (g : Group) (r : Nat) (w : Word64) : (g.setP r w).gidx = g.gidx := by
  unfold Group.setP; split <;> rfl
@[simp] theorem Group.setP_width (g : Group) (r : Nat) (w : Word64) : (g.setP r w).width = g.width := by
  unfold Group.setP; split <;> rfl
@[simp] theorem Group.setP_pc (g : Group) (r : Nat) (w : Word64) : (g.setP r w).pc = g.pc := by
  unfold Group.setP; split <;> rfl
@[simp] theorem Group.setP_v (g : Group) (r : Nat) (w : Word64) : (g.setP r w).v = g.v := by
  unfold Group.setP; split <;> rfl
@[simp] theorem Group.setP_s (g : Group) (r : Nat) (w : Word64) : (g.setP r w).s = g.s := by
  unfold Group.setP; split <;> rfl
@[simp] theorem Group.setP_shadow (g : Group) (r : Nat) (w : Word64) : (g.setP r w).shadow = g.shadow := by
  unfold Group.setP; split <;> rfl
@[simp] theorem Group.setP_g (g : Group) (r : Nat) (w : Word64) : (g.setP r w).g = g.g := by
  unfold Group.setP; split <;> rfl
@[simp] theorem Group.setP_em (g : Group) (r : Nat) (w : Word64) : (g.setP r w).em = g.em := by
  unfold Group.setP; split <;> rfl
@[simp] theorem Group.setP_blocks (g : Group) (r : Nat) (w : Word64) : (g.setP r w).blocks = g.blocks := by
  unfold Group.setP; split <;> rfl
@[simp] theorem Group.setP_gstat (g : Group) (r : Nat) (w : Word64) : (g.setP r w).gstat = g.gstat := by
  unfold Group.setP; split <;> rfl
@[simp] theorem Group.setP_mstride (g : Group) (r : Nat) (w : Word64) : (g.setP r w).mstride = g.mstride := by
  unfold Group.setP; split <;> rfl
@[simp] theorem Group.setP_mfmt (g : Group) (r : Nat) (w : Word64) : (g.setP r w).mfmt = g.mfmt := by
  unfold Group.setP; split <;> rfl
@[simp] theorem Group.setP_mkres (g : Group) (r : Nat) (w : Word64) : (g.setP r w).mkres = g.mkres := by
  unfold Group.setP; split <;> rfl
@[simp] theorem Group.setP_dsb (g : Group) (r : Nat) (w : Word64) : (g.setP r w).dsb = g.dsb := by
  unfold Group.setP; split <;> rfl
@[simp] theorem Group.setP_dsd (g : Group) (r : Nat) (w : Word64) : (g.setP r w).dsd = g.dsd := by
  unfold Group.setP; split <;> rfl
@[simp] theorem Group.setP_dfmt (g : Group) (r : Nat) (w : Word64) : (g.setP r w).dfmt = g.dfmt := by
  unfold Group.setP; split <;> rfl
@[simp] theorem Group.setP_crew (g : Group) (r : Nat) (w : Word64) : (g.setP r w).crew = g.crew := by
  unfold Group.setP; split <;> rfl
@[simp] theorem Group.setP_tvec (g : Group) (r : Nat) (w : Word64) : (g.setP r w).tvec = g.tvec := by
  unfold Group.setP; split <;> rfl
@[simp] theorem Group.setP_tcause (g : Group) (r : Nat) (w : Word64) : (g.setP r w).tcause = g.tcause := by
  unfold Group.setP; split <;> rfl
@[simp] theorem Group.setP_tepc (g : Group) (r : Nat) (w : Word64) : (g.setP r w).tepc = g.tepc := by
  unfold Group.setP; split <;> rfl
@[simp] theorem Group.setP_taddr (g : Group) (r : Nat) (w : Word64) : (g.setP r w).taddr = g.taddr := by
  unfold Group.setP; split <;> rfl
@[simp] theorem Group.setP_tinfo (g : Group) (r : Nat) (w : Word64) : (g.setP r w).tinfo = g.tinfo := by
  unfold Group.setP; split <;> rfl
@[simp] theorem Group.setP_susp (g : Group) (r : Nat) (w : Word64) : (g.setP r w).susp = g.susp := by
  unfold Group.setP; split <;> rfl
@[simp] theorem Group.setP_det (g : Group) (r : Nat) (w : Word64) : (g.setP r w).det = g.det := by
  unfold Group.setP; split <;> rfl
@[simp] theorem Group.setP_pol (g : Group) (r : Nat) (w : Word64) : (g.setP r w).pol = g.pol := by
  unfold Group.setP; split <;> rfl
@[simp] theorem Group.setP_priv (g : Group) (r : Nat) (w : Word64) : (g.setP r w).priv = g.priv := by
  unfold Group.setP; split <;> rfl
@[simp] theorem Group.setP_wdlim (g : Group) (r : Nat) (w : Word64) : (g.setP r w).wdlim = g.wdlim := by
  unfold Group.setP; split <;> rfl
@[simp] theorem Group.setP_tskip (g : Group) (r : Nat) (w : Word64) : (g.setP r w).tskip = g.tskip := by
  unfold Group.setP; split <;> rfl
@[simp] theorem Group.setP_pfx (g : Group) (r : Nat) (w : Word64) : (g.setP r w).pfx = g.pfx := by
  unfold Group.setP; split <;> rfl
@[simp] theorem Group.setP_flight (g : Group) (r : Nat) (w : Word64) : (g.setP r w).flight = g.flight := by
  unfold Group.setP; split <;> rfl
@[simp] theorem Group.setP_skip (g : Group) (r : Nat) (w : Word64) : (g.setP r w).skip = g.skip := by
  unfold Group.setP; split <;> rfl
@[simp] theorem Group.setP_status (g : Group) (r : Nat) (w : Word64) : (g.setP r w).status = g.status := by
  unfold Group.setP; split <;> rfl
@[simp] theorem Group.setP_preempt (g : Group) (r : Nat) (w : Word64) : (g.setP r w).preempt = g.preempt := by
  unfold Group.setP; split <;> rfl
@[simp] theorem Group.setP_lastIssue (g : Group) (r : Nat) (w : Word64) : (g.setP r w).lastIssue = g.lastIssue := by
  unfold Group.setP; split <;> rfl
@[simp] theorem Group.setP_yielded (g : Group) (r : Nat) (w : Word64) : (g.setP r w).yielded = g.yielded := by
  unfold Group.setP; split <;> rfl
@[simp] theorem Group.setP_rstack (g : Group) (r : Nat) (w : Word64) : (g.setP r w).rstack = g.rstack := by
  unfold Group.setP; split <;> rfl
@[simp] theorem Group.setP_dirty (g : Group) (r : Nat) (w : Word64) : (g.setP r w).dirty = g.dirty := by
  unfold Group.setP; split <;> rfl
@[simp] theorem Group.setP_old (g : Group) (r : Nat) (w : Word64) : (g.setP r w).old = g.old := by
  unfold Group.setP; split <;> rfl
@[simp] theorem Group.setP_marked (g : Group) (r : Nat) (w : Word64) : (g.setP r w).marked = g.marked := by
  unfold Group.setP; split <;> rfl
@[simp] theorem Group.setP_reserved (g : Group) (r : Nat) (w : Word64) : (g.setP r w).reserved = g.reserved := by
  unfold Group.setP; split <;> rfl
@[simp] theorem Group.setP_heldCbar (g : Group) (r : Nat) (w : Word64) : (g.setP r w).heldCbar = g.heldCbar := by
  unfold Group.setP; split <;> rfl
@[simp] theorem Group.setP_heldAt (g : Group) (r : Nat) (w : Word64) : (g.setP r w).heldAt = g.heldAt := by
  unfold Group.setP; split <;> rfl
@[simp] theorem Group.setP_heldStores (g : Group) (r : Nat) (w : Word64) : (g.setP r w).heldStores = g.heldStores := by
  unfold Group.setP; split <;> rfl
@[simp] theorem Group.setP_heldDone (g : Group) (r : Nat) (w : Word64) : (g.setP r w).heldDone = g.heldDone := by
  unfold Group.setP; split <;> rfl
@[simp] theorem Group.setP_svcCommit (g : Group) (r : Nat) (w : Word64) : (g.setP r w).svcCommit = g.svcCommit := by
  unfold Group.setP; split <;> rfl
@[simp] theorem Group.writeLanes_live (g : Group) (r : Nat) (f : Nat → Word32) (is : List Nat) :
    (g.writeLanes r f is).live = g.live := by
  induction is generalizing g with
  | nil => rfl
  | cons i is ih => rw [Group.writeLanes, ih]; rfl
@[simp] theorem Group.writeLanes_ctx (g : Group) (r : Nat) (f : Nat → Word32) (is : List Nat) :
    (g.writeLanes r f is).ctx = g.ctx := by
  induction is generalizing g with
  | nil => rfl
  | cons i is ih => rw [Group.writeLanes, ih]; rfl
@[simp] theorem Group.writeLanes_tslot (g : Group) (r : Nat) (f : Nat → Word32) (is : List Nat) :
    (g.writeLanes r f is).tslot = g.tslot := by
  induction is generalizing g with
  | nil => rfl
  | cons i is ih => rw [Group.writeLanes, ih]; rfl
@[simp] theorem Group.writeLanes_gidx (g : Group) (r : Nat) (f : Nat → Word32) (is : List Nat) :
    (g.writeLanes r f is).gidx = g.gidx := by
  induction is generalizing g with
  | nil => rfl
  | cons i is ih => rw [Group.writeLanes, ih]; rfl
@[simp] theorem Group.writeLanes_width (g : Group) (r : Nat) (f : Nat → Word32) (is : List Nat) :
    (g.writeLanes r f is).width = g.width := by
  induction is generalizing g with
  | nil => rfl
  | cons i is ih => rw [Group.writeLanes, ih]; rfl
@[simp] theorem Group.writeLanes_pc (g : Group) (r : Nat) (f : Nat → Word32) (is : List Nat) :
    (g.writeLanes r f is).pc = g.pc := by
  induction is generalizing g with
  | nil => rfl
  | cons i is ih => rw [Group.writeLanes, ih]; rfl
@[simp] theorem Group.writeLanes_s (g : Group) (r : Nat) (f : Nat → Word32) (is : List Nat) :
    (g.writeLanes r f is).s = g.s := by
  induction is generalizing g with
  | nil => rfl
  | cons i is ih => rw [Group.writeLanes, ih]; rfl
@[simp] theorem Group.writeLanes_shadow (g : Group) (r : Nat) (f : Nat → Word32) (is : List Nat) :
    (g.writeLanes r f is).shadow = g.shadow := by
  induction is generalizing g with
  | nil => rfl
  | cons i is ih => rw [Group.writeLanes, ih]; rfl
@[simp] theorem Group.writeLanes_p (g : Group) (r : Nat) (f : Nat → Word32) (is : List Nat) :
    (g.writeLanes r f is).p = g.p := by
  induction is generalizing g with
  | nil => rfl
  | cons i is ih => rw [Group.writeLanes, ih]; rfl
@[simp] theorem Group.writeLanes_g (g : Group) (r : Nat) (f : Nat → Word32) (is : List Nat) :
    (g.writeLanes r f is).g = g.g := by
  induction is generalizing g with
  | nil => rfl
  | cons i is ih => rw [Group.writeLanes, ih]; rfl
@[simp] theorem Group.writeLanes_em (g : Group) (r : Nat) (f : Nat → Word32) (is : List Nat) :
    (g.writeLanes r f is).em = g.em := by
  induction is generalizing g with
  | nil => rfl
  | cons i is ih => rw [Group.writeLanes, ih]; rfl
@[simp] theorem Group.writeLanes_blocks (g : Group) (r : Nat) (f : Nat → Word32) (is : List Nat) :
    (g.writeLanes r f is).blocks = g.blocks := by
  induction is generalizing g with
  | nil => rfl
  | cons i is ih => rw [Group.writeLanes, ih]; rfl
@[simp] theorem Group.writeLanes_gstat (g : Group) (r : Nat) (f : Nat → Word32) (is : List Nat) :
    (g.writeLanes r f is).gstat = g.gstat := by
  induction is generalizing g with
  | nil => rfl
  | cons i is ih => rw [Group.writeLanes, ih]; rfl
@[simp] theorem Group.writeLanes_mstride (g : Group) (r : Nat) (f : Nat → Word32) (is : List Nat) :
    (g.writeLanes r f is).mstride = g.mstride := by
  induction is generalizing g with
  | nil => rfl
  | cons i is ih => rw [Group.writeLanes, ih]; rfl
@[simp] theorem Group.writeLanes_mfmt (g : Group) (r : Nat) (f : Nat → Word32) (is : List Nat) :
    (g.writeLanes r f is).mfmt = g.mfmt := by
  induction is generalizing g with
  | nil => rfl
  | cons i is ih => rw [Group.writeLanes, ih]; rfl
@[simp] theorem Group.writeLanes_mkres (g : Group) (r : Nat) (f : Nat → Word32) (is : List Nat) :
    (g.writeLanes r f is).mkres = g.mkres := by
  induction is generalizing g with
  | nil => rfl
  | cons i is ih => rw [Group.writeLanes, ih]; rfl
@[simp] theorem Group.writeLanes_dsb (g : Group) (r : Nat) (f : Nat → Word32) (is : List Nat) :
    (g.writeLanes r f is).dsb = g.dsb := by
  induction is generalizing g with
  | nil => rfl
  | cons i is ih => rw [Group.writeLanes, ih]; rfl
@[simp] theorem Group.writeLanes_dsd (g : Group) (r : Nat) (f : Nat → Word32) (is : List Nat) :
    (g.writeLanes r f is).dsd = g.dsd := by
  induction is generalizing g with
  | nil => rfl
  | cons i is ih => rw [Group.writeLanes, ih]; rfl
@[simp] theorem Group.writeLanes_dfmt (g : Group) (r : Nat) (f : Nat → Word32) (is : List Nat) :
    (g.writeLanes r f is).dfmt = g.dfmt := by
  induction is generalizing g with
  | nil => rfl
  | cons i is ih => rw [Group.writeLanes, ih]; rfl
@[simp] theorem Group.writeLanes_crew (g : Group) (r : Nat) (f : Nat → Word32) (is : List Nat) :
    (g.writeLanes r f is).crew = g.crew := by
  induction is generalizing g with
  | nil => rfl
  | cons i is ih => rw [Group.writeLanes, ih]; rfl
@[simp] theorem Group.writeLanes_tvec (g : Group) (r : Nat) (f : Nat → Word32) (is : List Nat) :
    (g.writeLanes r f is).tvec = g.tvec := by
  induction is generalizing g with
  | nil => rfl
  | cons i is ih => rw [Group.writeLanes, ih]; rfl
@[simp] theorem Group.writeLanes_tcause (g : Group) (r : Nat) (f : Nat → Word32) (is : List Nat) :
    (g.writeLanes r f is).tcause = g.tcause := by
  induction is generalizing g with
  | nil => rfl
  | cons i is ih => rw [Group.writeLanes, ih]; rfl
@[simp] theorem Group.writeLanes_tepc (g : Group) (r : Nat) (f : Nat → Word32) (is : List Nat) :
    (g.writeLanes r f is).tepc = g.tepc := by
  induction is generalizing g with
  | nil => rfl
  | cons i is ih => rw [Group.writeLanes, ih]; rfl
@[simp] theorem Group.writeLanes_taddr (g : Group) (r : Nat) (f : Nat → Word32) (is : List Nat) :
    (g.writeLanes r f is).taddr = g.taddr := by
  induction is generalizing g with
  | nil => rfl
  | cons i is ih => rw [Group.writeLanes, ih]; rfl
@[simp] theorem Group.writeLanes_tinfo (g : Group) (r : Nat) (f : Nat → Word32) (is : List Nat) :
    (g.writeLanes r f is).tinfo = g.tinfo := by
  induction is generalizing g with
  | nil => rfl
  | cons i is ih => rw [Group.writeLanes, ih]; rfl
@[simp] theorem Group.writeLanes_susp (g : Group) (r : Nat) (f : Nat → Word32) (is : List Nat) :
    (g.writeLanes r f is).susp = g.susp := by
  induction is generalizing g with
  | nil => rfl
  | cons i is ih => rw [Group.writeLanes, ih]; rfl
@[simp] theorem Group.writeLanes_det (g : Group) (r : Nat) (f : Nat → Word32) (is : List Nat) :
    (g.writeLanes r f is).det = g.det := by
  induction is generalizing g with
  | nil => rfl
  | cons i is ih => rw [Group.writeLanes, ih]; rfl
@[simp] theorem Group.writeLanes_pol (g : Group) (r : Nat) (f : Nat → Word32) (is : List Nat) :
    (g.writeLanes r f is).pol = g.pol := by
  induction is generalizing g with
  | nil => rfl
  | cons i is ih => rw [Group.writeLanes, ih]; rfl
@[simp] theorem Group.writeLanes_priv (g : Group) (r : Nat) (f : Nat → Word32) (is : List Nat) :
    (g.writeLanes r f is).priv = g.priv := by
  induction is generalizing g with
  | nil => rfl
  | cons i is ih => rw [Group.writeLanes, ih]; rfl
@[simp] theorem Group.writeLanes_wdlim (g : Group) (r : Nat) (f : Nat → Word32) (is : List Nat) :
    (g.writeLanes r f is).wdlim = g.wdlim := by
  induction is generalizing g with
  | nil => rfl
  | cons i is ih => rw [Group.writeLanes, ih]; rfl
@[simp] theorem Group.writeLanes_tskip (g : Group) (r : Nat) (f : Nat → Word32) (is : List Nat) :
    (g.writeLanes r f is).tskip = g.tskip := by
  induction is generalizing g with
  | nil => rfl
  | cons i is ih => rw [Group.writeLanes, ih]; rfl
@[simp] theorem Group.writeLanes_pfx (g : Group) (r : Nat) (f : Nat → Word32) (is : List Nat) :
    (g.writeLanes r f is).pfx = g.pfx := by
  induction is generalizing g with
  | nil => rfl
  | cons i is ih => rw [Group.writeLanes, ih]; rfl
@[simp] theorem Group.writeLanes_flight (g : Group) (r : Nat) (f : Nat → Word32) (is : List Nat) :
    (g.writeLanes r f is).flight = g.flight := by
  induction is generalizing g with
  | nil => rfl
  | cons i is ih => rw [Group.writeLanes, ih]; rfl
@[simp] theorem Group.writeLanes_skip (g : Group) (r : Nat) (f : Nat → Word32) (is : List Nat) :
    (g.writeLanes r f is).skip = g.skip := by
  induction is generalizing g with
  | nil => rfl
  | cons i is ih => rw [Group.writeLanes, ih]; rfl
@[simp] theorem Group.writeLanes_status (g : Group) (r : Nat) (f : Nat → Word32) (is : List Nat) :
    (g.writeLanes r f is).status = g.status := by
  induction is generalizing g with
  | nil => rfl
  | cons i is ih => rw [Group.writeLanes, ih]; rfl
@[simp] theorem Group.writeLanes_preempt (g : Group) (r : Nat) (f : Nat → Word32) (is : List Nat) :
    (g.writeLanes r f is).preempt = g.preempt := by
  induction is generalizing g with
  | nil => rfl
  | cons i is ih => rw [Group.writeLanes, ih]; rfl
@[simp] theorem Group.writeLanes_lastIssue (g : Group) (r : Nat) (f : Nat → Word32) (is : List Nat) :
    (g.writeLanes r f is).lastIssue = g.lastIssue := by
  induction is generalizing g with
  | nil => rfl
  | cons i is ih => rw [Group.writeLanes, ih]; rfl
@[simp] theorem Group.writeLanes_yielded (g : Group) (r : Nat) (f : Nat → Word32) (is : List Nat) :
    (g.writeLanes r f is).yielded = g.yielded := by
  induction is generalizing g with
  | nil => rfl
  | cons i is ih => rw [Group.writeLanes, ih]; rfl
@[simp] theorem Group.writeLanes_rstack (g : Group) (r : Nat) (f : Nat → Word32) (is : List Nat) :
    (g.writeLanes r f is).rstack = g.rstack := by
  induction is generalizing g with
  | nil => rfl
  | cons i is ih => rw [Group.writeLanes, ih]; rfl
@[simp] theorem Group.writeLanes_dirty (g : Group) (r : Nat) (f : Nat → Word32) (is : List Nat) :
    (g.writeLanes r f is).dirty = g.dirty := by
  induction is generalizing g with
  | nil => rfl
  | cons i is ih => rw [Group.writeLanes, ih]; rfl
@[simp] theorem Group.writeLanes_old (g : Group) (r : Nat) (f : Nat → Word32) (is : List Nat) :
    (g.writeLanes r f is).old = g.old := by
  induction is generalizing g with
  | nil => rfl
  | cons i is ih => rw [Group.writeLanes, ih]; rfl
@[simp] theorem Group.writeLanes_marked (g : Group) (r : Nat) (f : Nat → Word32) (is : List Nat) :
    (g.writeLanes r f is).marked = g.marked := by
  induction is generalizing g with
  | nil => rfl
  | cons i is ih => rw [Group.writeLanes, ih]; rfl
@[simp] theorem Group.writeLanes_reserved (g : Group) (r : Nat) (f : Nat → Word32) (is : List Nat) :
    (g.writeLanes r f is).reserved = g.reserved := by
  induction is generalizing g with
  | nil => rfl
  | cons i is ih => rw [Group.writeLanes, ih]; rfl
@[simp] theorem Group.writeLanes_heldCbar (g : Group) (r : Nat) (f : Nat → Word32) (is : List Nat) :
    (g.writeLanes r f is).heldCbar = g.heldCbar := by
  induction is generalizing g with
  | nil => rfl
  | cons i is ih => rw [Group.writeLanes, ih]; rfl
@[simp] theorem Group.writeLanes_heldAt (g : Group) (r : Nat) (f : Nat → Word32) (is : List Nat) :
    (g.writeLanes r f is).heldAt = g.heldAt := by
  induction is generalizing g with
  | nil => rfl
  | cons i is ih => rw [Group.writeLanes, ih]; rfl
@[simp] theorem Group.writeLanes_heldStores (g : Group) (r : Nat) (f : Nat → Word32) (is : List Nat) :
    (g.writeLanes r f is).heldStores = g.heldStores := by
  induction is generalizing g with
  | nil => rfl
  | cons i is ih => rw [Group.writeLanes, ih]; rfl
@[simp] theorem Group.writeLanes_heldDone (g : Group) (r : Nat) (f : Nat → Word32) (is : List Nat) :
    (g.writeLanes r f is).heldDone = g.heldDone := by
  induction is generalizing g with
  | nil => rfl
  | cons i is ih => rw [Group.writeLanes, ih]; rfl
@[simp] theorem Group.writeLanes_svcCommit (g : Group) (r : Nat) (f : Nat → Word32) (is : List Nat) :
    (g.writeLanes r f is).svcCommit = g.svcCommit := by
  induction is generalizing g with
  | nil => rfl
  | cons i is ih => rw [Group.writeLanes, ih]; rfl

/-! ## Registers -/

theorem Group.sreg_setS (g : Group) (r q : Nat) (w : Word64) : (g.setS r w).sreg q = if q = r then w else g.sreg q :=
  look_put _ _ _ _ _

theorem Group.gen_setGen (g : Group) (r q : Nat) (x : Gen) : (g.setGen r x).gen q = if q = r then x else g.gen q :=
  look_put _ _ _ _ _

/-- Two lanes below 64 of two registers have different keys unless both agree. -/
theorem vkey_inj {r q i j : Nat} (hi : i < 64) (hj : j < 64) : q * 64 + j = r * 64 + i ↔ q = r ∧ j = i := by omega

theorem Group.vreg_setV (g : Group) {r q i j : Nat} (w : Word32) (hi : i < 64) (hj : j < 64) :
    (g.setV r i w).vreg q j = if q = r ∧ j = i then w else g.vreg q j := by
  have h := look_put (0 : Word32) g.v (r * 64 + i) (q * 64 + j) w
  unfold Group.vreg Group.setV
  simp only [vkey_inj hi hj] at h
  exact h

/-- What the lanes of a register read after a write of the listed lanes. -/
theorem Group.vreg_writeLanes (g : Group) {r q j : Nat} (f : Nat → Word32) {is : List Nat} (hi : ∀ i ∈ is, i < 64)
    (hj : j < 64) : (g.writeLanes r f is).vreg q j = if q = r ∧ j ∈ is then f j else g.vreg q j := by
  induction is generalizing g with
  | nil => simp [Group.writeLanes]
  | cons i is ih =>
    rw [Group.writeLanes, ih _ (fun x hx => hi x (by simp [hx])), Group.vreg_setV g _ (hi i (by simp)) hj]
    by_cases hq : q = r
    · by_cases hm : j ∈ is
      · simp [hq, hm]
      · by_cases hji : j = i
        · subst hji; simp [hq, hm]
        · simp [hq, hm, hji]
    · simp [hq]

/-- p15 reads true in every lane of the group, whatever is written (R26). -/
@[simp] theorem Group.preg_15 (g : Group) : g.preg 15 = g.lanesMask := by simp [Group.preg]
@[simp] theorem Group.setP_15 (g : Group) (w : Word64) : g.setP 15 w = g := by simp [Group.setP]

theorem Group.preg_setP (g : Group) (r q : Nat) (w : Word64) (h : r ≠ 15) :
    (g.setP r w).preg q = if q = r then w else g.preg q := by
  unfold Group.preg Group.setP
  by_cases hq : q = 15
  · have hr : q ≠ r := fun e => h (e ▸ hq)
    simp [hq, h, Group.lanesMask, show (15 : Nat) ≠ r from fun e => h e.symm]
  · by_cases hr : q = r
    · subst hr; simp [h]
    · simp [h, hq, hr, look_put_other _ _ _ hr]

theorem Group.mem_lanesOf (g : Group) (m : Word64) (i : Nat) : i ∈ g.lanesOf m ↔ i < g.width ∧ m.getLsbD i = true := by
  simp [Group.lanesOf]

end Sys2Proof.Machine
end

