-- ==== Sys2Proof/Laws/Issue.lean ====
section
/-! SUPPORT. What the shared operations of an issuing unit do, said once: reading a part after writing it, what concluding
a unit leaves, and how an instruction's own effect gives the outcome of exec. -/

namespace Sys2Proof.Machine
open Sys2Proof

/-! ## Parts of the state -/

/-- Two writes of one entry are the second. -/
theorem put_put {α : Type} (m : SMap α) (k : Nat) (v w : α) : put (put m k v) k w = put m k w := by
  induction m with
  | nil => simp [put]
  | cons c t ih =>
    obtain ⟨j, x⟩ := c
    by_cases h : k < j
    · simp [put, h]
    · by_cases e : j = k
      · simp [put, e]
      · simp [put, h, e, ih]

theorem State.onGrp_onGrp (s : State) (k : Nat) (f g : Group → Group) :
    (s.onGrp k f).onGrp k g = s.onGrp k (fun x => g (f x)) := by
  simp only [State.onGrp, State.grp_setGrp_same]
  simp [State.setGrp, put_put]

/-! ## Calm -/

@[simp] theorem State.grp_calm (s : State) (k j : Nat) : (s.calm k).grp j = s.grp j := rfl
@[simp] theorem State.calm_groups (s : State) (k : Nat) : (s.calm k).groups = s.groups := rfl
@[simp] theorem State.calm_mem (s : State) (k : Nat) : (s.calm k).mem = s.mem := rfl
@[simp] theorem State.calm_lm (s : State) (k : Nat) : (s.calm k).lm = s.lm := rfl
@[simp] theorem State.calm_bstore (s : State) (k : Nat) : (s.calm k).bstore = s.bstore := rfl
@[simp] theorem State.calm_insts (s : State) (k : Nat) : (s.calm k).insts = s.insts := rfl
@[simp] theorem State.calm_sets (s : State) (k : Nat) : (s.calm k).sets = s.sets := rfl
@[simp] theorem State.calm_cur (s : State) (k : Nat) : (s.calm k).cur = s.cur := rfl

/-! ## Issue -/

/-- Every issue has a next state. -/
theorem issue_next (i : Instr) (run : Flight → State → Res) (s : State) : ∃ t, issue i run s = .next t := by
  simp only [issue]
  split
  · split <;> exact ⟨_, rfl⟩
  · exact ⟨_, rfl⟩

/-- A unit with nothing in its way comes to what its instruction's effect says. -/
theorem issue_of_canIssue {i : Instr} {s : State} (h : s.canIssue i) (run : Flight → State → Res) :
    issue i run s = .next (s.conclude s.cur (s.unitOf i) (run (s.unitOf i) s)) := by
  obtain ⟨⟨hl, hs⟩, hb, hr⟩ := h
  simp only [State.me] at hl hs hb hr
  have hr' : (s.grp s.cur).refused ((s.grp s.cur).unit i) (coreOf s.cur) = none := hr
  simp only [issue, hl, hs, hb]
  simp only [hr']
  simp [State.unitOf, State.me]

/-- A group that does not run, or whose unit the scoreboard holds, does nothing. -/
theorem issue_of_blocked {i : Instr} {s : State} (h : s.me.blocked i = true ∨ ¬ s.groupRuns) (run : Flight → State → Res) :
    issue i run s = .next s := by
  simp only [State.groupRuns, State.me] at h
  simp only [issue]
  split
  · rename_i c
    simp only [Bool.and_eq_true, Bool.not_eq_true', decide_eq_true_eq] at c
    rcases h with h | h
    · simp [h] at c
    · exact absurd c.1 h
  · rfl

theorem issue_done {i : Instr} {s t : State} {run : Flight → State → Res} (h : s.canIssue i)
    (e : run (s.unitOf i) s = .done t) : issue i run s = .next (s.completed i t) := by
  rw [issue_of_canIssue h, e]; rfl

theorem issue_jump {i : Instr} {s t : State} {pc : Word64} {run : Flight → State → Res} (h : s.canIssue i)
    (e : run (s.unitOf i) s = .jump t pc) : issue i run s = .next (s.completedAt i t pc) := by
  rw [issue_of_canIssue h, e]; rfl

theorem issue_trap {i : Instr} {s : State} {c : Cause} {run : Flight → State → Res} (h : s.canIssue i)
    (e : run (s.unitOf i) s = .trap s c) :
    issue i run s = .next (if s.me.flight.isEmpty then s.fault s.cur c else s) := by
  rw [issue_of_canIssue h, e]; rfl

theorem issue_wait {i : Instr} {s t : State} {v : Flight} {run : Flight → State → Res} (h : s.canIssue i)
    (e : run (s.unitOf i) s = .wait t v) :
    issue i run s = .next (s.conclude s.cur (s.unitOf i) (.wait t v)) := by
  rw [issue_of_canIssue h, e]

/-- A unit that meets a cause before its operands are looked at takes it, once no older unit is incomplete. -/
theorem issue_refused {i : Instr} {s : State} {c : Cause} (hg : s.groupRuns) (hb : s.me.blocked i = false)
    (hr : s.me.refused (s.unitOf i) s.here = some c) (run : Flight → State → Res) :
    issue i run s = .next (if s.me.flight.isEmpty then s.fault s.cur c else s) := by
  obtain ⟨hl, hs⟩ := hg
  simp only [State.me] at hl hs hb hr
  have hr' : (s.grp s.cur).refused ((s.grp s.cur).unit i) (coreOf s.cur) = some c := hr
  simp only [issue, hl, hs, hb]
  simp only [hr']
  rfl

/-! ## What a completed unit leaves -/

theorem State.completed_grp (s t : State) (i : Instr) :
    (s.completed i t).grp s.cur = (t.grp s.cur).advance (s.unitOf i) s.cycle ((s.unitOf i).pc + 4) true := by
  simp [State.completed, State.conclude]

theorem State.completedAt_grp (s t : State) (i : Instr) (pc : Word64) :
    (s.completedAt i t pc).grp s.cur = (t.grp s.cur).advance (s.unitOf i) s.cycle pc true := by
  simp [State.completedAt, State.conclude]

theorem State.completed_grp_other (s t : State) (i : Instr) {k : Nat} (h : k ≠ s.cur) :
    (s.completed i t).grp k = t.grp k := by
  simp [State.completed, State.conclude, State.grp_onGrp_other _ _ h]

@[simp] theorem State.completed_mem (s t : State) (i : Instr) : (s.completed i t).mem = t.mem := rfl
@[simp] theorem State.completed_lm (s t : State) (i : Instr) : (s.completed i t).lm = t.lm := rfl
@[simp] theorem State.completed_bstore (s t : State) (i : Instr) : (s.completed i t).bstore = t.bstore := rfl
@[simp] theorem State.completed_insts (s t : State) (i : Instr) : (s.completed i t).insts = t.insts := rfl
@[simp] theorem State.completed_cur (s t : State) (i : Instr) : (s.completed i t).cur = t.cur := rfl

end Sys2Proof.Machine
end

