-- ==== Sys2Proof/Tests/Slice0.lean ====
section
/-! SUPPORT. Tests: words written out from the encoding tables, ill-formed terms, small results worked out from the chapters'
own examples, and a state that meets the hypotheses of each statement. -/

namespace Sys2Proof.Tests
open Sys2Proof Sys2Proof.Machine

set_option maxRecDepth 20000
set_option Elab.async false

/-! ## Words (17_encoding.md; the reference chapters' own example words) -/

theorem test_decode_nop : decode 0x00400000 = some .nop := by decide
theorem test_decode_eret : decode 0x01000000 = some .eret := by decide
theorem test_decode_cinv : decode 0x02001050 = some (.cinv 4 5) := by decide
theorem test_decode_cinvAll : decode 0x02000001 = some .cinvAll := by decide
theorem test_decode_split : decode 0x18080003 = some (.split 2 3) := by decide
theorem test_decode_bra : decode (0x02#6 ++ 0#8 ++ 0x3FFFF#18 : BitVec 32) = some (.bra 0x3FFFF) := by decide
theorem test_decode_sadd : decode (0x0A#6 ++ 0#4 ++ 3#6 ++ 4#6 ++ 5#6 ++ 0#4 : BitVec 32) = some (.sadd 3 4 5) := by decide
theorem test_decode_vmov : decode 0x48110000 = some (.vmov 34 0) := by decide
theorem test_decode_vmovS : decode 0x48020019 = some (.vmovS 4 12) := by decide
theorem test_decode_vclz : decode 0x48CB1500 = some (.vclz 22 21) := by decide
theorem test_decode_vbfx : decode 0x49838521 = some (.vbfxN32 7 5 (.sca 16)) := by decide
theorem test_decode_vlane : decode 0x4A008000 = some (.vlane 1) := by decide
theorem test_decode_vabs : decode 0x48818200 = some (.vabs 3 2) := by decide
theorem test_decode_shfl : decode 0x58070C52 = some (.shflIdx 14 12 (.vec 41)) := by decide
theorem test_decode_fma : decode 0x64C40914 = some (.fmaF32 8 9 (.vec 10)) := by decide
theorem test_decode_fcvt : decode 0x6E0182C8 = some (.fcvtF32E8 3 2 0x64 false) := by decide
theorem test_decode_fcvtOvf : decode 0x6E0182C9 = some (.fcvtF32E8 3 2 0x64 true) := by decide
theorem test_decode_xcos : decode 0x718F1D00 = some (.xcos 30 29) := by decide
theorem test_decode_wset : decode 0xA408A001 = some (.wsetG 2 10) := by decide
theorem test_decode_wmark : decode 0xA4C80300 = some (.wmark 2 12) := by decide
theorem test_decode_modPrefix :
    decode 0x06002000 = some (.pfxMod 0 0 0 1 0 0) := by decide
theorem test_encode_vbfx : encode (.vbfxN32 7 5 (.sca 16)) = some 0x49838521 := by decide
theorem test_decode_reserved : decode 0 = none ∧ decode 0xFFFFFFFF = none ∧ decode 0xA8000000 = none := by decide

/-! ## Ill-formed terms: one for each check of `Instr.wf` -/

theorem test_wf_pfxOp : (Instr.pfxOp 0 false false 1).wf = false ∧ (Instr.pfxOp 0 false false 0).wf = true := by decide
theorem test_wf_load : (Instr.ldg .b64 false 3 0 0 false).wf = false ∧ (Instr.ldl .b128 6 0 0 false).wf = false := by decide
theorem test_wf_storeSpan : (Instr.stg .b64 false 3 0 0 false).wf = false := by decide
theorem test_wf_storeWidth : (Instr.stl .b8s 2 0 0 false).wf = false := by decide
theorem test_wf_atom : (Instr.atom .and 2 0 0 .f32).wf = false ∧ (Instr.latom .cas 3 0 0 .i32).wf = false := by decide
theorem test_wf_red : (Instr.red .xchg 2 0 0 .i32).wf = false ∧ (Instr.red .add 3 0 0 .i64).wf = false := by decide
theorem test_wf_fx64 : (Instr.fcvtFx64F32 2 3 0).wf = false := by decide
theorem test_wf_mma : (Instr.mma false .e8 0 (.gen 1) (.gen 2) 0).wf = false ∧
    (Instr.mma true .e8 0 (.sca 1) (.sca 2) 0).wf = false := by decide
theorem test_wf_mmas : (Instr.mmas false .f32x3 0 (.sca 1) (.sca 2) 0).wf = false ∧
    (Instr.mmas false .e8 0 (.gen 1) (.sca 2) 0).wf = false := by decide

theorem test_wf_mdrain : (Instr.mdrain 0 1 2 false false false).wf = false ∧ (Instr.mdrain 0 1 2 true false false).wf = true := by
  decide

/-! ## Numbers worked out in the chapters -/

/-- 13_numbers.md: 0.3, 250, −1000 and 2^−12 to e8p4s. -/
theorem test_binary8 : (f32.toNum 0x3E99999A, b8Of 0x64).2.map (fun f =>
      [0x3E99999A, 0x437A0000, 0xC47A0000, 0x39800000].map (fun x => (f.ofNum .rne false (f32.toNum x)).1)) =
    some [0x32, 0x7F, 0xFF, 0x00] := by decide
theorem test_binary8Ovf : (b8Of 0x64).map (fun f =>
    [0x437A0000, 0xC47A0000].map (fun x => (f.ofNum .rne true (f32.toNum x)).1)) = some [0x80, 0x80] := by decide
/-- 12_generators.md: the hash of coordinates (1, 0) under seed 0. -/
theorem test_hash : coordHash 1 0 0 = 0x6D523710 := by decide
/-- 08_deferred.md: 1.5 with E = 16 is 98,304. -/
theorem test_fx : (fxOfF32 16 0x3FC00000).1 = 98304 := by decide
/-- 15_memory.md: physical address 0x0123_4000 under DIL = 0 lies in channel 19 at offset 0x1_2000. -/
theorem test_interleave : interleave false 0x01234000 = (19, 0x12000) := by decide

/-! ## Witnesses: states that meet the hypotheses of the statements

The base state: context 1 with a page table at 0x1000 (page 0 is executable; at 2 MB a writable page, at 4 MB a deferred
one, at 6 MB a deferred one of the FXA format, at 8 MB one that is only read), and on core 0 one group of width 16, whose
lanes 0 and 1 are active, of an instance of 32 KB of local memory. -/

theorem ok_of {ε α : Type} {e : Except ε α} {p : α → Prop} [DecidablePred p]
    (h : (match e with | .ok x => decide (p x) | .error _ => false) = true) : ∃ x, e = .ok x ∧ p x := by
  cases e with
  | ok x => exact ⟨x, rfl, of_decide_eq_true h⟩
  | error c => cases h

theorem err_of {ε α : Type} {e : Except ε α} {p : ε → Prop} [DecidablePred p]
    (h : (match e with | .ok _ => false | .error c => decide (p c)) = true) : ∃ c, e = .error c ∧ p c := by
  cases e with
  | ok x => cases h
  | error c => exact ⟨c, rfl, of_decide_eq_true h⟩

theorem some_of {α : Type} {e : Option α} {p : α → Prop} [DecidablePred p]
    (h : (match e with | some x => decide (p x) | none => false) = true) : ∃ x, e = some x ∧ p x := by
  cases e with
  | some x => exact ⟨x, rfl, of_decide_eq_true h⟩
  | none => cases h

def leafOf (pa attr : Nat) : Nat := pa / 2 ^ 16 * 2 ^ 28 + attr + 3
def tables : Mem :=
  [(0x1000, 0x20 * 2 ^ 20 + 1), (0x2000, 0x30 * 2 ^ 20 + 1), (0x3000, leafOf 0 8), (0x3008, leafOf 0x200000 4),
    (0x3010, leafOf 0x400000 20), (0x3018, leafOf 0x600000 (52 + 5 * 64)), (0x3020, leafOf 0x800000 0),
    (0x200000, 0x1122334455667788), (0x200010, 0x99AABBCCDDEEFF00)].foldl (fun m x => wrLE m x.1 8 x.2) []
def ctx1 : Ctx := { endpoint := 0, root := 0x1000, mode := some (false, false), lazies := [], ended := false }
def group0 : Group := {
  live := true, ctx := 1, pc := 0x10000, em := 3, blocks := 16, tvec := 0x50000, shadow := [(56, 7)], p := [(1, 1), (2, 2)],
  s := [(1, 0x200000), (2, 3), (3, 0x8000200), (4, 0x400000), (5, 0x600000), (6, 0x800000), (7, 0x200008), (8, 0x10003),
    (9, 0x8000000000000000), (10, 0xFFFFFFFFFFFFFFFF), (11, 0x200001), (12, 1), (13, 0x5000000000000)],
  v := [(1 * 64 + 1, 16), (2 * 64, 5), (2 * 64 + 1, 7), (3 * 64, 0x7F800001), (3 * 64 + 1, 0x3F800000), (5 * 64 + 1, 32)] }
def inst0 : Inst := { live := true, serial := 1, ctx := 1, set := 1, groups := 1, acc := 2, spad := 8, lmbase := 8, held := 300 }
def set0 : TaskSet := {
  graph := 1, ctx := 1, entry := 0x10000, part := 0, flags := 0, count := 1, winp := 0, argp := 0, counter := 0, reserved := 0,
  handoffs := [], parent := none, pool := 0, spilled := false, level := 1, ready := some 0, since := 0, born := 0,
  creator := noGroup, next := 1, back := [], ended := 0 }
def base : State := { State.reset with
  booted := true, mem := tables, ctxs := [(1, ctx1)], nextCtx := 2, groups := [(0, group0)], insts := [(0, inst0)],
  sets := [(1, set0)], nextSet := 2, cycle := 1000, graphs := [(1, { ctx := 1, seq := 1, done := false, commit := none })],
  cores := (0, { used := 300 }) :: State.reset.cores }
/-- The base state with its group, its instance, its core changed. -/
def onG (f : Group → Group) (s : State := base) : State := { s with groups := [(0, f (s.grp 0))] }
def onI (f : Inst → Inst) (s : State := base) : State := { s with insts := [(0, f (s.inst 0))] }
def onC (f : Core → Core) (s : State := base) : State := s.setCore 0 (f (s.core 0))

/-! ### Units that complete under no further condition, one list for each statement -/

theorem witness_canIssue_scalars : ∀ i ∈ [
    Instr.sadd 1 2 3, .ssub 1 2 3, .saddImm 1 2 5, .smul 1 2 3, .smulh 1 2 3 false, .smulh 1 2 3 true, .sand 1 2 3, .sor 1 2 3,
    .sxor 1 2 3, .sshl 1 2 3, .sshr 1 2 3, .ssra 1 2 3, .smin 1 2 3 false, .smin 1 2 3 true, .smax 1 2 3 false, .smax 1 2 3 true,
    .ssel 1 2 3 1, .sandImm 1 2 5, .sorImm 1 2 5, .sxorImm 1 2 5, .sshlImm 1 2 5, .sshrImm 1 2 5, .ssraImm 1 2 5, .smov 1 5],
    base.canIssue i := by
  simp only [State.canIssue, State.groupRuns]; decide +kernel

theorem witness_canIssue_scalars2 : ∀ i ∈ [
    Instr.scmp .ltn 1 2 3, .scmpImm .test 1 2 5, .mfsr 1 0x010, .mtsr 2 0x020, .emget 1, .emset 2, .voteAny 1 2, .voteAll 1 2,
    .voteBallot 1 2, .plog 6 1 2 3, .pset 1 2, .movs 3 1 1, .gset 1 2, .gget 1 2, .gseed 1 2, .eret, .trap 5, .bkpt, .nop, .yield,
    .fence .acq 9, .fence .rel 9, .fence .both 9, .cinv 1 2, .cinvAll, .bra 4, .braIf 1 4, .braIfNot 1 4, .brany 1 4, .branyNot 1 4,
    .brall 1 4, .brallNot 1 4, .call 4, .ret 2, .bras 2, .calls 2, .split 1 4, .splitNot 1 4, .flip 4, .merge, .brx 2 4,
    .join 2, .joinNb 2 1, .leave, .cbar, .cbara, .qpush 2 3, .qpushNb 2 3 1, .qpop 2 3, .qpopNb 2 3 1, .vclaim 1, .vclaimNb 1 1,
    .vgive 1, .spawn 1 2 3, .exit, .exitH 2, .commit 1, .waitx 1 2 3, .sld 1 2 0, .sst 1 2 0, .sldL 1 2 0, .sstL 1 2 0,
    .wset 1 2, .wsetG 1 2, .wdrop 1, .wstat 1 2, .wmark 1 2, .wwait 1, .wwaitMark 1 2, .txinit 1 2, .txarrive 1, .txexpect 1 2,
    .txwait 1 2, .mzero 1, .msta 1 2, .mlda 1 2, .sdiv 1 2 3 false, .srem 1 2 3 true],
    base.canIssue i := by
  simp only [State.canIssue, State.groupRuns]; decide +kernel

theorem witness_canIssue_vectors : ∀ b ∈ [VSrc.vec 3, .sca 3], ∀ i ∈ [
    Instr.vadd 1 2 b, .vsub 1 2 b, .vmul 1 2 b, .vmulhI32 1 2 b, .vmulhN32 1 2 b, .vmad 1 2 b, .vaddImm 1 2 5, .vabs 1 2,
    .vand 1 2 b, .vor 1 2 b, .vxor 1 2 b, .vshl 1 2 b, .vshr 1 2 b, .vsra 1 2 b, .vminI32 1 2 b, .vminN32 1 2 b, .vmaxI32 1 2 b,
    .vmaxN32 1 2 b, .vandImm 1 2 5, .vorImm 1 2 5, .vxorImm 1 2 5, .vshlImm 1 2 5, .vshrImm 1 2 5, .vsraImm 1 2 5, .vmovImm 1 5,
    .vmov 1 2, .vmovS 1 2, .vnot 1 2, .vlane 1, .vsel 1 2 3 b, .vclz 1 2, .vpopc 1 2, .vbfxI32 1 2 b, .vbfxN32 1 2 b, .vbfi 1 2 b,
    .vdivI32 1 2 b, .vdivN32 1 2 b, .vremI32 1 2 b, .vremN32 1 2 b, .vcmp .ltn 1 .set 2 b, .vcmp .eq 1 .and 2 b, .vcmp .eq 1 .or 2 b,
    .shflIdx 1 2 b, .shflUp 1 2 b, .shflDown 1 2 b, .shflXor 1 2 b],
    base.canIssue i := by
  simp only [State.canIssue, State.groupRuns]; decide +kernel

theorem witness_canIssue_floats : ∀ b ∈ [VSrc.vec 3, .sca 3], ∀ i ∈ [
    Instr.faddF32 1 2 b, .fsubF32 1 2 b, .fmulF32 1 2 b, .fmaF32 1 2 b, .faddBf16x2 1 2 b, .fmulBf16x2 1 2 b, .fmaBf16x2 1 2 b,
    .faddF16x2 1 2 b, .fmulF16x2 1 2 b, .fmaF16x2 1 2 b, .fmin 1 2 b, .fmax 1 2 b, .fcmp .un 1 .and 2 b, .fcvtF32I32 1 2,
    .fcvtF32N32 1 2, .fcvtI32F32 1 2, .fcvtN32F32 1 2, .fcvtF32Bf16 1 2, .fcvtBf16F32 1 2, .fcvtF32F16 1 2, .fcvtF16F32 1 2, .frnd 1 2,
    .fclass 1 2, .fcvtF32E8 1 2 0x64 true, .fcvtE8F32 1 2 0x64, .fcvtFx64F32 1 2 5, .fcvtF32Bf16x2 1 2 b, .lredAddI32 1 2,
    .lredMinI32 1 2, .lredMaxI32 1 2, .lredAnd 1 2, .lredOr 1 2, .lredAddF32 1 2, .lredMinF32 1 2, .lredMaxF32 1 2, .lscanAddI32 1 2,
    .lscanAddF32 1 2, .geval 1 2 3 4 false, .geval 1 2 3 4 true, .xrcp 1 2, .xrsq 1 2, .xsqrt 1 2, .xexp 1 2, .xlog 1 2, .xsin 1 2,
    .xcos 1 2, .xtanh 1 2, .latom .add 2 1 4 .i32, .atom .add 2 1 4 .i32, .red .add 2 1 4 .i32],
    base.canIssue i := by
  simp only [State.canIssue, State.groupRuns]; decide +kernel

/-- A prefix word of kind `k` with payload `p`, before the group's next word. -/
def withPfx (k p : Nat) (s : State := base) : State :=
  onG (fun g => { g with pfx := [{ addr := 0xFFFC, word := BitVec.ofNat 32 ((4 + k) * 2 ^ 24 + p) }] }) s

/-- SAT = 1 and 2 (R63, R292). -/
theorem witness_sat : ∀ n ∈ [1, 2], ∀ i ∈ [Instr.sadd 1 2 3, .ssub 1 2 3, .saddImm 1 2 5, .vadd 1 2 (.vec 3), .vsub 1 2 (.vec 3),
    .vmul 1 2 (.vec 3), .vmad 1 2 (.vec 3), .vaddImm 1 2 5],
    (withPfx 2 (n * 8192)).canIssue i ∧ ((withPfx 2 (n * 8192)).unitOf i).sat = n ∧ (base.unitOf i).sat = 0 := by
  simp only [State.canIssue, State.groupRuns]; decide +kernel
theorem witness_vabs : (withPfx 2 8192).canIssue (.vabs 1 2) ∧ ((withPfx 2 8192).unitOf (.vabs 1 2)).sat = 1 := by
  simp only [State.canIssue, State.groupRuns]; decide +kernel

/-! ### Steps, acceptance, traps -/

theorem next_of {o : Out} {p : State → Prop} [DecidablePred p]
    (h : (match o with | .next t => decide (p t) | _ => false) = true) : ∃ t, o = .next t ∧ p t := by
  cases o with
  | next t => exact ⟨t, rfl, of_decide_eq_true h⟩
  | fault f => cases h
  | refused r => cases h

/-- The base state, its next turn the group's, with a word at the group's PC. -/
def prog (w : Nat) (s : State := base) : State := { s with agenda := [{ dt := 1, what := .issue 0 }], mem := wrLE s.mem 0x10000 4 w }

theorem witness_StepRunsDecoded :
    let s1 := ({ prog 0x00400000 with agenda := [] } : State).tick 1
    let g := s1.grp 0
    g.live = true ∧ g.status = .running ∧ g.yielded ≠ some s1.cycle ∧ s1.throttled (coreOf 0) = false ∧ g.serviceVector = none ∧
      g.incomplete = [] ∧ (g.priv = true ∨ g.preempt = none) ∧ g.skip.head? ≠ some true ∧
      ∃ x, (s1.fetchTouch 0).fetch 0 = .ok x ∧ decode x.1 = some .nop := by
  refine ⟨by decide +kernel, by decide +kernel, by decide +kernel, by decide +kernel, by decide +kernel, by decide +kernel,
    by decide +kernel, by decide +kernel, ok_of (by decide +kernel)⟩
theorem witness_StepRunsDecoded_skip :
    (∃ x, (({ prog 0x00400000 (onG fun g => { g with skip := [true] }) with agenda := [] } : State).tick 1 |>.fetchTouch 0).fetch 0 = .ok x ∧
      decode x.1 = some .nop) ∧ (({ prog 0x00400000 (onG fun g => { g with skip := [true] }) with agenda := [] } : State).tick 1 |>.grp 0).skip.head? = some true :=
  ⟨ok_of (by decide +kernel), by decide +kernel⟩
theorem witness_StepRunsDecoded_reserved :
    ∃ x, (({ prog 0xFFFFFFFF with agenda := [] } : State).tick 1 |>.fetchTouch 0).fetch 0 = .ok x ∧ decode x.1 = none := ok_of (by decide +kernel)
theorem witness_StepRunsDecoded_cause :
    ∃ c, (({ prog 0 (onG fun g => { g with pc := 0x1000000 }) with agenda := [] } : State).tick 1 |>.fetchTouch 0).fetch 0 = .error c ∧ c.code = 5 :=
  err_of (by decide +kernel)
theorem witness_StepRunsDecoded_fetch : ∃ p, base.translate (coreOf 0) (base.grp 0).ctx (base.grp 0).pc.toNat 0 false true = .ok p ∧
    (pteX p.leaf = true ∧ p.pa < Config.controlBase ∧ base.unreachable p = false ∧ p.home = base.device ∧ base.fetchHeld 0 p = false ∧
      base.bad = [] ∧ base.stranded [((base.grp 0).firstWord.toNat, p.key)] = none ∧
      find? ((onC fun c => { c with ibuf := [(0x10000, 5)] }).core (coreOf 0)).ibuf (wordKey p) = some 5) := ok_of (by decide +kernel)
theorem witness_StepRunsDecoded_due : base.agenda = [] ∧ (base.tick 1).due = none ∧ (base.tick 1).waitingOrder = [0] := by decide +kernel

theorem witness_MemoryCanonical : base.memoryWf = true ∧ ∃ t, step (prog 0x00400000) = .next t ∧ t.memoryWf = true :=
  ⟨by decide +kernel, next_of (by decide +kernel)⟩
theorem witness_PrivilegedState : base.me.priv = false ∧
    (∃ t, exec .nop base = .next t ∧ (t.grp base.cur).live = true) ∧ (∀ a, Instr.nop ≠ .exitH a) ∧ Instr.nop ≠ .exit ∧
    base.myInst.exited.length + 1 < (onI fun i => { i with groups := 2 }).myInst.groups :=
  ⟨by decide +kernel, next_of (by decide +kernel), nofun, nofun, by decide +kernel⟩
theorem witness_CompletedFrame : base.me.width ≤ 64 ∧ 0 ∈ base.lanesOf .nop ∧ 1 ∈ base.lanesOf .nop ∧ 2 ∉ base.lanesOf .nop ∧
    63 ∉ base.lanesOf .nop := by decide +kernel

/-- VCOUNT 8: v8 is an illegal operand. -/
theorem witness_Acceptance : let s := onG fun g => { g with blocks := 1 }
    s.me.blocked (.vlane 8) = false ∧ s.me.refused (s.unitOf (.vlane 8)) s.here = some ⟨2, 0, (s.unitOf (.vlane 8)).word⟩ ∧
    s.me.refused (s.unitOf (.vlane 7)) s.here = none := by decide +kernel
/-- An older VADD whose result the next unit reads. -/
def waiting (i : Instr) (w : Wait) (s : State := base) : State := onG (fun g => { g with
  pc := 0x10004, flight := [{ g.unit i with wait := w, since := 900 }] }) s
theorem witness_Acceptance_held : (waiting (.ldg .b32 false 4 1 5 false) .home).me.blocked (.vadd 1 4 (.vec 2)) = true ∧
    (¬ (onG fun g => { g with status := .halted }).groupRuns) ∧ (¬ (onG fun g => { g with live := false }).groupRuns) := by
  simp only [State.groupRuns]; decide +kernel
theorem witness_Acceptance_prefix :
    let twice := fun (s : State) (i : Instr) => s.me.pfx.any (fun x => x.word.toNat / 2 ^ 24 = (i.code.getD 0) / 2 ^ 24)
    (base.groupRuns ∧ base.me.incomplete.any (fun u => holdsIssue u.instr) = false) ∧
    (∀ i ∈ [Instr.pfxImm 5, .pfxOp 0 false false 2, .pfxMod 0 0 0 1 0 0], twice base i = false) ∧
    (twice (withPfx 0 9) (.pfxImm 5) = true ∧ twice (withPfx 1 (2 * 2 ^ 11)) (.pfxOp 0 false false 2) = true ∧
      twice (withPfx 2 8192) (.pfxMod 0 0 0 1 0 0) = true) ∧ (withPfx 0 9).groupRuns := by
  simp only [State.groupRuns]; decide +kernel

theorem witness_TrapEntry : (base.grp 0).priv = false ∧ (base.grp 0).flight = [] ∧
    (∀ e ∈ (base.core (coreOf 0)).sfu, e.grp ≠ 0) ∧ base.me.priv = false ∧ (base.grp 0).skip.head? ≠ some true := by decide +kernel
def privileged (g : Group) : Group := { g with priv := true, tepc := 0x20000, tskip := 5, tcause := 5 }
theorem witness_TrapEntry_double : ((onG privileged).grp 0).priv = true ∧ ((onG privileged).grp 0).flight.any Flight.leaving = false ∧
    ((onG privileged).grp 0).skip.head? ≠ some true ∧
    find? (onG privileged).ctxs ((onG privileged).grp 0).ctx = some ctx1 := by decide +kernel
theorem witness_ReturnFromTrap : (onG privileged).canIssue .eret ∧ (onG privileged).me.priv = true ∧ (onG privileged).me.preempt = none ∧
    (onG fun g => { privileged g with preempt := some 0 }).canIssue .eret ∧
    (onG fun g => { privileged g with preempt := some 0 }).me.preempt = some 0 := by
  simp only [State.canIssue, State.groupRuns]; decide +kernel

theorem witness_SpecialRegisters :
    (∀ n ∈ [0x000, 0x010, 0x057], specialExists (BitVec.ofNat 12 n).toNat = true ∧ n < 0x100) ∧
    (specialExists 0x100 = true ∧ specialExists 0x10F = true ∧ (onG privileged).canIssue (.mfsr 1 0x10F) ∧
      (onG privileged).canIssue (.mtsr 12 0x105) ∧ specialWritable 0x105 = true) ∧
    (specialExists 0xFFF = false) ∧ (base.canIssue (.mfsr 1 0xFFF) ∧ base.canIssue (.mfsr 1 0x100) ∧ base.me.priv = false) ∧
    (specialExists 0x020 = true ∧ specialWritable 0x020 = true ∧ specialGood 0x020 8 = true ∧ specialGood 0x020 1 = false ∧
      specialWritable 0x010 = false) := by
  simp only [State.canIssue, State.groupRuns]; decide +kernel

/-! ### Scalars, lanes, predicates, numbers -/

theorem witness_ScalarArithmetic_ssel : 0 < base.me.width ∧ base.me.em.getLsbD 0 = true ∧
    (let s := onG fun g => { g with em := 2 ^ 15 }
     s.canIssue (.ssel 1 2 3 1) ∧ 15 < s.me.width ∧ s.me.em.getLsbD 15 = true ∧ ∀ k < 15, s.me.em.getLsbD k = false) ∧
    (let s := onG fun g => { g with em := 0 }
     s.canIssue (.ssel 1 2 3 1) ∧ ∀ k < s.me.width, s.me.em.getLsbD k = false) := by
  simp only [State.canIssue, State.groupRuns]; decide +kernel
theorem witness_Division : base.me.sreg 20 = 0 ∧ base.canIssue (.sdiv 1 2 20 true) ∧ base.me.sreg 2 ≠ 0 ∧
    base.me.sreg 9 = 0x8000000000000000 ∧ base.me.sreg 10 = 0xFFFFFFFFFFFFFFFF ∧ base.canIssue (.sdiv 1 9 10 false) := by
  simp only [State.canIssue, State.groupRuns]; decide +kernel
theorem witness_VectorBits : (5 : Word32) ≠ 0 ∧ (5 : Word32).getLsbD 1 = false ∧ (0x80000000 : Word32) ≠ 0 := by decide +kernel
theorem witness_PredicateWrites : base.me.width ≤ 64 ∧ (15 : Nat) < base.me.width ∧ base.me.width ≤ 16 ∧
    base.canIssue (.movs 3 1 15) ∧ base.canIssue (.movs 3 1 16) := by
  simp only [State.canIssue, State.groupRuns]; decide +kernel
theorem witness_CrossLane : base.me.width ∈ [16, 32, 64] ∧ base.me.width = 16 ∧
    (onG fun g => { g with width := 64 }).canIssue (.lscanAddI32 1 2) := by
  simp only [State.canIssue, State.groupRuns]; decide +kernel
/-- A divergence stack of two slots at the start of local memory, one of them taken by an entry of SPLIT (join 0x10040, the
others 2, all 3). -/
def stacked (depth : Nat) (ctl : Nat) (s : State := base) : State := onG (fun g => { g with
    dsb := 0x8000000, dsd := BitVec.ofNat 64 (depth + 2 * 2 ^ 16) }) { s with
  lm := [(4096, 0x10040), (4104, 2), (4112, 3), (4120, ctl)].foldl (fun m x => wrLE m x.1 8 x.2) [] }
theorem witness_EmAccess : (stacked 1 0).canIssue .merge ∧ (stacked 1 0).me.depth ≠ 0 ∧
    ∃ x, (stacked 1 0).stackAccess ((stacked 1 0).unitOf .merge) 0 true = .ok x ∧
      (ctlMalformed (x.1.stackWord x.2 3) = false ∧ ctlKind (x.1.stackWord x.2 3) ≠ 1) := by
  refine ⟨?_, by decide +kernel, ok_of (by decide +kernel)⟩
  simp only [State.canIssue, State.groupRuns]; decide +kernel
theorem witness_FloatArithmetic : (base.unitOf (.faddF32 1 2 (.vec 3))).neg = 0 ∧ (base.unitOf (.faddF32 1 2 (.vec 3))).abs = 0 := by
  decide +kernel
theorem witness_FloatValues : (∀ f ∈ [f32, bf16, f16],
    (f.toNum f.nanCode).isNan = true ∧ f.nanCode < 2 ^ f.width ∧ f.toNum f.infCode = .inf false ∧ f.infCode < 2 ^ f.width ∧
    (∃ e, f.toNum 0 = .fin false 0 e) ∧ (∃ e, f.toNum 1 = .fin false 1 e) ∧
    (∀ rm ∈ [RMode.rne, .rz, .rd, .ru, .rna], (roundGrid f.prec f.emin f.maxCode rm true ⟨1, 200, false⟩).overflow = true) ∧
    (f.round .rne false ⟨3, 0, false⟩).2.ovf = false ∧ (f.round .rz false ⟨3, 0, false⟩).2.ovf = false) := by
  intro f hf
  simp only [List.mem_cons, List.not_mem_nil, or_false] at hf
  rcases hf with rfl | rfl | rfl
  · exact ⟨by decide, by decide, by decide, by decide, ⟨_, rfl⟩, ⟨_, rfl⟩, by decide, by decide, by decide⟩
  · exact ⟨by decide, by decide, by decide, by decide, ⟨_, rfl⟩, ⟨_, rfl⟩, by decide, by decide, by decide⟩
  · exact ⟨by decide, by decide, by decide, by decide, ⟨_, rfl⟩, ⟨_, rfl⟩, by decide, by decide, by decide⟩
theorem witness_FloatMinMax : (f32.toNum 0x7F800001).isNan = true ∧ (f32.toNum 0x3F800000).isNan = false ∧
    (f32.toNum 0x3F800000).compare? (f32.toNum 0x40000000) = some (-1) ∧
    (f32.toNum 0x40000000).compare? (f32.toNum 0x3F800000) = some 1 := by decide +kernel
theorem witness_FloatCompare : (f32.toNum (0x7F800001 : Word32).toNat).isNan = true ∧
    (f32.toNum (0x80000000 : Word32).toNat).compare? (f32.toNum (0 : Word32).toNat) = some 0 := by decide +kernel
theorem witness_FloatConversions : (∃ f, b8Of (0x64 : Fin 128).val = some f ∧ (f.signed = true)) ∧
    (∃ f, b8Of 0x44 = some f ∧ (f.signed = false ∧ f.infs = false)) ∧ (∃ f, b8Of 0x74 = some f ∧ f.infs = true) ∧ b8Of (0x7F : Fin 128).val = none ∧
    base.canIssue (.fcvtF32E8 1 2 0x7F true) := by
  refine ⟨some_of (by decide +kernel), some_of (by decide +kernel), some_of (by decide +kernel), by decide +kernel, ?_⟩
  simp only [State.canIssue, State.groupRuns]; decide +kernel

/-! ### Special functions, control, fences -/

def sfuEntry : SfuEntry := { grp := 0, unit := 0x10000, dst := 1, res := [(0, 5)], flags := {}, at_ := 900 }
theorem witness_SpecialFunctions : (base.core base.here).sfu.length < 32 ∧
    (onC fun c => { c with sfu := List.replicate 32 sfuEntry }).canIssue (.xrcp 3 2) ∧
    32 ≤ ((onC fun c => { c with sfu := List.replicate 32 sfuEntry }).core 0).sfu.length ∧
    ((onC fun c => { c with sfu := [sfuEntry] } ).core 0).sfu[0]? = some sfuEntry ∧ sfuEntry.dst < 128 ∧
    (f32.toNum (0x7FC00000 : Word32).toNat).isNan = true ∧
    ((0xBF800000 : Word32).msb = true ∧ (f32.toNum (0xBF800000 : Word32).toNat).isNan = false ∧ (0xBF800000 : Word32) ≠ 0x80000000) := by
  simp only [State.canIssue, State.groupRuns]; decide +kernel
/-- p1 is true in lane 0 and false in lane 1, p2 the other way. -/
theorem witness_Branches : (base.me.preg 1).getLsbD 0 = true ∧ (base.me.preg 2).getLsbD 0 = false ∧
    (∃ k < 64, base.me.em.getLsbD k = true ∧ (base.me.preg 1).getLsbD k = true) ∧
    (∀ k < 64, base.me.em.getLsbD k = true → (base.me.preg 15).getLsbD k = true) ∧
    base.me.sreg 1 &&& 3 = 0 ∧ base.canIssue (.ret 1) ∧ base.me.sreg 2 &&& 3 ≠ 0 ∧ base.canIssue (.calls 2) := by
  simp only [State.canIssue, State.groupRuns]; decide +kernel
theorem witness_Divergence_split : ∀ i ∈ [Instr.split 1 4, .split 3 4, .splitNot 15 4, .brx 20 4, .brx 1 4],
    (stacked 1 0).canIssue i ∧ (stacked 1 0).me.depth ≠ (stacked 1 0).me.limit ∧
    ∃ x, (stacked 1 0).stackAccess ((stacked 1 0).unitOf i) (stacked 1 0).me.depth true = .ok x ∧ x.2 = 4096 + 32 := by
  intro i hi
  simp only [List.mem_cons, List.not_mem_nil, or_false] at hi
  refine ⟨?_, by decide +kernel, ?_⟩
  · rcases hi with rfl | rfl | rfl | rfl | rfl <;> (simp only [State.canIssue, State.groupRuns]; decide +kernel)
  · rcases hi with rfl | rfl | rfl | rfl | rfl <;> exact ok_of (by decide +kernel)
theorem witness_Divergence_taken : (base.me.em &&& base.me.preg 1 ≠ 0) ∧ (base.me.em &&& base.me.preg 3 = 0) ∧
    (stacked 1 0).me.em ≠ 0 ∧ ((stacked 1 0).me.lanesOf (stacked 1 0).me.em).head? = some 0 ∧
    ((stacked 1 0).me.pc + BitVec.ofInt 64 (4 * ((stacked 1 0).unitOf (.brx 1 4)).imm 19 (4 : BitVec 19).toNat)
      + ((stacked 1 0).me.vreg 1 0).signExtend 64) &&& 3 = 0 ∧
    (onG (fun g => { g with em := 0 }) (stacked 1 0)).me.em = 0 := by decide +kernel
/-- The entry on top as FLIP and MERGE find it: of SPLIT, of SPLIT and run already, of BRX by v1 and by v20. -/
theorem witness_Divergence_entries : ∀ x ∈ [(0, 0, false), (4, 0, true), (1 + 1 * 256, 1, false), (1 + 20 * 256, 1, false)],
    ∀ i ∈ [Instr.flip 4, .merge], (stacked 1 x.1).canIssue i ∧ (stacked 1 x.1).me.depth ≠ 0 ∧
    (match (stacked 1 x.1).stackAccess ((stacked 1 x.1).unitOf i) 0 true with
     | .ok (t, at_) => decide (ctlMalformed (t.stackWord at_ 3) = false ∧ ctlKind (t.stackWord at_ 3) = x.2.1 ∧
         ctlTaken (t.stackWord at_ 3) = x.2.2 ∧ t.stackWord at_ 1 &&& base.me.lanesMask ≠ 0 ∧
         ctlVa (t.stackWord at_ 3) < (stacked 1 x.1).me.vcount ∧
         ((stacked 1 x.1).me.lanesOf (t.stackWord at_ 1 &&& base.me.lanesMask)).head? = some 1 ∧
         (t.stackWord at_ 0 + ((stacked 1 x.1).me.vreg (ctlVa (t.stackWord at_ 3)) 1).signExtend 64) &&& 3 = 0)
     | .error _ => false) = true := by
  simp only [State.canIssue, State.groupRuns]; decide +kernel
theorem witness_Divergence_full : (stacked 2 0).me.depth = (stacked 2 0).me.limit ∧ (stacked 2 0).canIssue (.split 1 4) ∧
    (stacked 0 0).me.depth = 0 ∧ (stacked 0 0).canIssue (.flip 4) ∧ (stacked 0 0).canIssue .merge := by
  simp only [State.canIssue, State.groupRuns]; decide +kernel
theorem witness_SystemInstructions :
    (∃ t, base.release base.cur (base.unitOf (.fence .rel 9)) 9 = some t ∧ t.mem = base.mem) ∧
    (let s := onC (fun c => { c with stores := [{ key := 0x200000, bytes := [1], grp := 0, marked := false }] })
     s.canIssue (.fence .both 9) ∧ s.release s.cur (s.unitOf (.fence .both 9)) 9 = none) ∧
    base.me.sreg 20 = 0 ∧ (base.me.sreg 1).toNat + (base.me.sreg 2).toNat ≤ 2 ^ 64 ∧
    2 ^ 64 < (base.me.sreg 10).toNat + (base.me.sreg 2).toNat ∧ base.canIssue (.cinv 10 2) ∧ base.canIssue (.fence .rel 10) ∧
    (let s := waiting (.ldg .b32 false 4 1 5 false) .home
     s.canIssue (.fence .acq 5) ∧ ∃ o ∈ s.me.older (s.unitOf (.fence .acq 5)), o.done = false ∧ accesses o.instr = true) := by
  refine ⟨some_of (by decide +kernel), ?_⟩
  simp only [State.canIssue, State.groupRuns]; decide +kernel
/-- The L1 holds sectors of two lines, which the one TLB entry maps. -/
def lined : State := onC fun c => { c with
  tlb := [{ ctx := 1, va := 0x200000, size := 0x10000, leaf := BitVec.ofNat 64 (leafOf 0x200000 4) }],
  l1 := [(0x20000, 1), (0x20008, 2)] }
theorem witness_SystemInstructions_complete : (∀ k ∈ [FenceKind.acq, .rel, .both], ∀ sc ∈ [0, 9], base.canIssue (.fence k sc)) ∧ lined.canIssue (.cinv 1 2) ∧
    (lined.me.sreg 1).toNat + (lined.me.sreg 2).toNat ≤ 2 ^ 64 ∧ lined.homes = [] ∧
    (let e : TlbEntry := { ctx := 1, va := 0x200000, size := 0x10000, leaf := BitVec.ofNat 64 (leafOf 0x200000 4) }
     (lined.core lined.here).tlb = [e] ∧ e.ctx = lined.me.ctx ∧ e.size ∈ [2 ^ 16, 2 ^ 21, 2 ^ 30] ∧ e.va % e.size = 0 ∧
       e.va + e.size ≤ 2 ^ 48 ∧ pteDil e.leaf = false ∧ ptePa e.leaf + e.size ≤ 2 ^ 52 ∧
       lined.leafOk e.ctx e.leaf (levelOf e.size) (ptePa e.leaf) = true ∧
       ∀ va ∈ [(lined.me.sreg 1).toNat, (lined.me.sreg 1).toNat + (lined.me.sreg 2).toNat - 1],
         e.va ≤ va ∧ va < e.va + e.size ∧ (lined.me.sreg 1).toNat ≤ va ∧ va < (lined.me.sreg 1).toNat + (lined.me.sreg 2).toNat) := by
  simp only [State.canIssue, State.groupRuns]; decide +kernel

/-! ### Memory -/

theorem witness_quiet : base.quiet := by simp only [State.quiet]; decide +kernel
theorem witness_AccessFaults : [(0, 0x200000), (1, 0x200002)].find? (fun x : Nat × Nat => x.2 % 4 ≠ 0) = some (1, 0x200002) ∧
    (∃ p, base.translate 0 1 0x200000 0 false false = .ok p ∧ p.home = 0) ∧
    (∃ c, base.translate 0 1 0x1000000 1 false false = .error c ∧ c.code = 5) ∧
    (∃ c, base.translate 0 1 (2 ^ 48) 1 false false = .error c ∧ c.code = 5) ∧
    (∃ ps, base.translateAll 0 1 true [(3, 0x800000)] = .ok ps ∧ (ps.find? (fun y => !pteW y.at_.leaf)).isSome = true) ∧
    (∃ xs, base.resolve 0 1 4 true [(0, 0x200000), (1, 0x200010)] = .ok xs ∧ xs.length = 2) :=
  ⟨by decide +kernel, ok_of (by decide +kernel), err_of (by decide +kernel), err_of (by decide +kernel), ok_of (by decide +kernel),
    ok_of (by decide +kernel)⟩

/-- Loads, their lanes at 0x200000 and 0x200010. -/
theorem witness_GlobalLoads : ∀ w ∈ [Width.b8, .b8s, .b16, .b16s, .b32, .b64, .b128],
    ∀ x ∈ [(base, Instr.ldg w false 4 1 1 false), (withPfx 2 (9 * 2 ^ 17), .ldgAcq w 4 1 1 false)], x.1.canIssue x.2 ∧
    (x.1.unitOf x.2).modScope < 10 ∧
    (match x.1.resolve 0 1 (widthBytes w) false (x.1.laneAddrs x.2 1 1 1) with
     | .ok xs => decide (xs.length = 2 ∧ (∀ x ∈ xs, x.at_.control = false ∧ x.at_.home = base.device) ∧ linesOf xs ≤ 256)
     | .error _ => false) = true := by
  simp only [State.canIssue, State.groupRuns]; decide +kernel
theorem witness_GlobalLoads_quiet : (withPfx 2 (9 * 2 ^ 17)).quiet := by simp only [State.quiet]; decide +kernel
theorem witness_GlobalLoads_scalar : base.canIssue (.sld 20 1 0) ∧
    (∃ xs, base.resolve 0 1 8 false [(0, (base.me.sreg 1 + (base.unitOf (.sld 20 1 0)).simm 0).toNat)] = .ok xs ∧
      (xs.length = 1 ∧ ∀ x ∈ xs, x.at_.control = false ∧ x.at_.home = base.device ∧ x.lane = 0)) ∧
    base.canIssue (.ldgTouch 1 1 false) ∧
    (∃ xs, base.resolve 0 1 1 false (base.laneAddrs (.ldgTouch 1 1 false) 1 1 1) = .ok xs ∧
      (∀ x ∈ xs, x.at_.control = false ∧ x.at_.home = base.device)) := by
  refine ⟨?_, ok_of (by decide +kernel), ?_, ok_of (by decide +kernel)⟩ <;>
    (simp only [State.canIssue, State.groupRuns]; decide +kernel)
theorem witness_scope : (withPfx 2 (10 * 2 ^ 17)).canIssue (.ldgAcq .b32 4 1 1 false) ∧
    (withPfx 2 (10 * 2 ^ 17)).canIssue (.stgRel .b32 4 1 1 false) ∧
    10 ≤ ((withPfx 2 (10 * 2 ^ 17)).unitOf (.ldgAcq .b32 4 1 1 false)).modScope := by
  simp only [State.canIssue, State.groupRuns]; decide +kernel

theorem witness_GlobalStores : ∀ w ∈ [Width.b8, .b16, .b32, .b64, .b128],
    ∀ x ∈ [(base, Instr.stg w false 4 1 1 false), (withPfx 2 (9 * 2 ^ 17), .stgRel w 4 1 1 false)], x.1.canIssue x.2 ∧
    (x.1.unitOf x.2).modScope < 10 ∧
    (match x.1.resolve 0 1 (widthBytes w) true (x.1.laneAddrs x.2 1 1 1) with
     | .ok xs => decide (xs.length = 2 ∧ (∀ x ∈ xs, x.at_.plain = true ∧ x.at_.home = base.device) ∧ linesOf xs ≤ 256)
     | .error _ => false) = true := by
  simp only [State.canIssue, State.groupRuns]; decide +kernel
theorem witness_GlobalStores_scalar : base.canIssue (.sst 20 1 0) ∧
    (∃ xs, base.resolve 0 1 8 true [(0, (base.me.sreg 1 + (base.unitOf (.sst 20 1 0)).simm 0).toNat)] = .ok xs ∧
      (xs.length = 1 ∧ ∀ x ∈ xs, x.at_.plain = true ∧ x.at_.home = base.device ∧ x.lane = 0)) := by
  refine ⟨?_, ok_of (by decide +kernel)⟩
  simp only [State.canIssue, State.groupRuns]; decide +kernel

theorem witness_LocalAddresses : (511 < inst0.spad * 4096) ∧ (511 < 2 ^ 20) ∧ (inst0.spad * 4096 ≤ 2 ^ 20 - 1) ∧
    ([(0, 2 ^ 28)].find? (fun y : Nat × Nat => (base.localPlace 0 (base.inst (instKey 0 (base.grp 0))) y.2).isNone) = some (0, 2 ^ 28)) ∧
    (∀ y ∈ [(0, 2 ^ 27), (1, 2 ^ 27 + base.myInst.spad * 4096 - 4)],
      2 ^ 27 ≤ y.2 ∧ y.2 < 2 ^ 27 + base.myInst.spad * 4096 ∧ y.2 < 2 ^ 27 + 2 ^ 20 ∧ y.2 % 4 = 0) ∧
    (∀ i ∈ [Instr.ldlFb 4 3 1 false, .stlFb 4 3 1 false], base.groupRuns ∧ base.me.blocked i = false ∧ base.me.priv = false ∧
      base.me.pfx = [] ∧ base.me.flight = []) := by
  simp only [State.groupRuns]; decide +kernel

/-- Local accesses: lanes at 0x8000200 and 0x8000210; granules 288 and 289 of the core, full in one state. -/
def filled (s : State := base) : State := { s with full := [(288, true), (289, true)] }
theorem witness_LocalLoads : ∀ w ∈ [Width.b8, .b8s, .b16, .b16s, .b32, .b64, .b128],
    ∀ i ∈ [Instr.ldl w 4 3 1 false, .ldlFe w 4 3 1 false, .ldlFec w 4 3 1 false], filled.canIssue i ∧ base.canIssue i ∧
    (match filled.localAccess (filled.unitOf i) 0 (widthBytes w) false false (filled.laneAddrs i 3 1 1) with
     | .ok (t, xs) => decide (t.feWaiters = [] ∧ granules xs = [288, 289] ∧ ∀ g ∈ granules xs, t.isFull g = true)
     | .error _ => false) = true ∧
    (match base.localAccess (base.unitOf i) 0 (widthBytes w) false false (base.laneAddrs i 3 1 1) with
     | .ok (t, xs) => decide (∃ g ∈ granules xs, t.isFull g = false)
     | .error _ => false) = true := by
  simp only [State.canIssue, State.groupRuns]; decide +kernel
theorem witness_LocalLoads_more : (onG privileged).canIssue (.ldlFb 4 3 6 false) ∧ (onG privileged).canIssue (.stlFb 4 3 6 false) ∧
    (∃ xs, (onG privileged).resolveLocal ((onG privileged).unitOf (.ldlFb 4 3 6 false)) 0 512 true false
      ((onG privileged).laneAddrs (.ldlFb 4 3 6 false) 3 6 1) = .ok xs ∧ xs.length = 2) ∧
    (∃ xs, (onG fun g => { privileged g with em := 1 }).resolveLocal ((onG privileged).unitOf (.stlFb 4 3 6 false)) 0 512 true false
      ((onG fun g => { privileged g with em := 1 }).laneAddrs (.stlFb 4 3 6 false) 3 6 1) = .ok xs ∧ xs.length = 1) ∧
    (∃ xs, base.resolveLocal (base.unitOf (.ldlTouch 3 1 false)) 0 1 false false (base.laneAddrs (.ldlTouch 3 1 false) 3 1 1) = .ok xs ∧
      xs.length = 2) ∧ base.canIssue (.ldlTouch 3 1 false) ∧
    (∃ x, base.localAccess (base.unitOf (.sldL 20 3 0)) 0 8 false false
      [(0, (base.me.sreg 3 + (base.unitOf (.sldL 20 3 0)).simm 0).toNat)] = .ok x ∧ x.2.length = 1) := by
  refine ⟨?_, ?_, ok_of (by decide +kernel), ok_of (by decide +kernel), ok_of (by decide +kernel), ?_, ok_of (by decide +kernel)⟩ <;>
    (simp only [State.canIssue, State.groupRuns]; decide +kernel)
theorem witness_LocalStores : ∀ w ∈ [Width.b8, .b16, .b32, .b64, .b128],
    ∀ i ∈ [Instr.stl w 4 3 1 false, .stlFull w 4 3 1 false, .stlFw w 4 3 1 false], base.canIssue i ∧
    (match base.localAccess (base.unitOf i) 0 (widthBytes w) false true (base.laneAddrs i 3 1 1) with
     | .ok (t, xs) => decide (xs.length = 2 ∧ t.feWaiters = [] ∧ (∀ g ∈ granules xs, t.isFull g = false) ∧
         (t.release 0 (base.unitOf i) (feScope xs)).isSome = true)
     | .error _ => false) = true := by
  simp only [State.canIssue, State.groupRuns]; decide +kernel
theorem witness_LocalStores_scalar : base.canIssue (.sstL 20 3 0) ∧ ∃ x, base.localAccess (base.unitOf (.sstL 20 3 0)) 0 8 false true
    [(0, (base.me.sreg 3 + (base.unitOf (.sstL 20 3 0)).simm 0).toNat)] = .ok x ∧ x.2.length = 1 := by
  refine ⟨?_, ok_of (by decide +kernel)⟩
  simp only [State.canIssue, State.groupRuns]; decide +kernel

theorem witness_Atomics : ∀ x ∈ [(AOp.add, ATy.i32), (.xchg, .i32), (.cas, .i64), (.add, .f32), (.min, .n32)],
    base.canIssue (.atom x.1 2 1 1 x.2) ∧ base.canIssue (.latom x.1 2 3 1 x.2) ∧
    (match base.atomChecks (base.unitOf (.atom x.1 2 1 1 x.2)) 0 false x.1 x.2 (base.laneAddrs (.atom x.1 2 1 1 x.2) 1 1 1) with
     | .ok xs => decide (xs.length = 2 ∧ (∀ x ∈ xs, x.at_.plain = true ∧ x.at_.home = base.device) ∧ linesOf xs ≤ 256)
     | .error _ => false) = true ∧
    (match base.resolveLocal (base.unitOf (.latom x.1 2 3 1 x.2)) 0 (tyBytes x.2) false true (base.laneAddrs (.latom x.1 2 3 1 x.2) 3 1 1) with
     | .ok xs => decide (xs.length = 2)
     | .error _ => false) = true ∧ base.me.det = false := by
  simp only [State.canIssue, State.groupRuns]; decide +kernel
theorem witness_Atomics_red : ∀ x ∈ [(AOp.add, ATy.i32), (.max, .n32)], base.canIssue (.red x.1 2 1 1 x.2) ∧
    (match base.atomChecks (base.unitOf (.red x.1 2 1 1 x.2)) 0 true x.1 x.2 (base.laneAddrs (.red x.1 2 1 1 x.2) 1 1 1) with
     | .ok xs => decide (xs.length = 2 ∧ (∀ x ∈ xs, x.at_.plain = true ∧ x.at_.home = base.device) ∧ linesOf xs ≤ 256)
     | .error _ => false) = true := by
  simp only [State.canIssue, State.groupRuns]; decide +kernel
/-- Lane 0 alone, on the deferred page at 4 MB. -/
theorem witness_DeferredAppends : let s := onG fun g => { g with em := 1 }
    s.canIssue (.red .add 2 4 1 .i32) ∧ s.canIssue (.stg .b32 false 2 4 1 false) ∧ s.canIssue (.atom .add 2 4 1 .i32) ∧
    s.me.flight = [] ∧ s.device < 512 ∧ s.here < 512 ∧ isSteward s.here = false ∧
    (match s.atomChecks (s.unitOf (.red .add 2 4 1 .i32)) 0 true .add .i32 (s.laneAddrs (.red .add 2 4 1 .i32) 4 1 1) with
     | .ok [x] => decide (x.at_.deferred = true ∧ x.at_.home = s.device ∧ x.at_.reduce = false ∧
         redRecord (pteFxa x.at_.leaf) .add .i32 false = some (1, false, false))
     | _ => false) = true ∧
    (match s.resolve 0 1 4 true (s.laneAddrs (.stg .b32 false 2 4 1 false) 4 1 1) with
     | .ok [x] => decide (x.at_.deferred = true ∧ x.at_.home = s.device ∧ x.at_.reduce = false ∧ pteFxa x.at_.leaf = false)
     | _ => false) = true := by
  simp only [State.canIssue, State.groupRuns]; decide +kernel
theorem witness_DeferredAppends_record : ∀ x ∈ [(0, 0, 0, 0, 0), (15, 255, 2 ^ 29 - 1, 511, 2 ^ 13 - 1)],
    x.1 < 16 ∧ x.2.1 < 256 ∧ x.2.2.1 < 2 ^ 29 ∧ x.2.2.2.1 < 512 ∧ x.2.2.2.2 < 2 ^ 13 := by decide +kernel
/-- A store of WD 3, a touch with v1, LDG of Q = 3, LDL.fe of b64, LDG.b64 to v1, LDG.b128 to v2; AND.f32, ATOM.add.i64 of v1,
CAS.i64 of v2, RED.xchg. -/
theorem witness_ReservedWords :
    let m := fun (maj : BitVec 6) (wd : BitVec 3) (q : BitVec 2) (r : BitVec 7) => (maj ++ wd ++ q ++ r ++ 3#6 ++ 1#7 ++ 0#1 : BitVec 32)
    let a := fun (maj : BitVec 6) (op : BitVec 4) (d : BitVec 7) (ty : BitVec 2) => (maj ++ op ++ d ++ 3#6 ++ 1#7 ++ ty : BitVec 32)
    [m 0x1E 3 0 2, m 0x1D 7 0 1, m 0x1D 4 3 2, m 0x1F 5 3 2, m 0x1D 5 0 1, m 0x1D 6 0 2, a 0x21 3 4 2, a 0x21 0 1 3, a 0x21 7 2 3,
      a 0x22 6 4 0].all (fun w => (decode w).isNone) = true ∧
    [m 0x1E 4 0 2, m 0x1D 7 0 0, m 0x1D 4 2 2, m 0x1F 4 3 2, m 0x1D 5 0 2, m 0x1D 6 0 4, a 0x21 3 4 0, a 0x21 0 2 3, a 0x21 7 4 3,
      a 0x22 0 4 0].all (fun w => (decode w).isSome) = true := by decide +kernel
theorem witness_DeferredAppends_quiet : (onG fun g => { g with em := 1 }).quiet := by simp only [State.quiet]; decide +kernel

/-! ### The matrix array and the generators -/

/-- Generator 1 gives e8p4s values. -/
def gened : State := onG fun g => { g with g := [(1, { outfmt := 0x64 })] }
theorem witness_MatrixMultiply : ∀ x ∈ [(false, false, MKind.e8, XSrc.sca 3, XSrc.sca 20), (true, false, .e8, .sca 3, .sca 20),
      (false, false, .e8, .gen 1, .sca 20), (false, true, .bf16, .sca 3, .sca 20)],
    let i := if x.1 then Instr.mmas x.2.1 x.2.2.1 1 x.2.2.2.1 x.2.2.2.2 1 else .mma x.2.1 x.2.2.1 1 x.2.2.2.1 x.2.2.2.2 1
    let js := gened.me.octets (gened.me.active gened.me.pfx)
    js = [0] ∧ gened.me.width ≤ 64 ∧ gened.canIssue i ∧
    (match gened.matrixChecks (gened.unitOf i) x.1 x.2.1 x.2.2.1 1 x.2.2.2.1 x.2.2.2.2 1 js with
     | .ok y => [0, 1].all (fun q => (gened.badBlock y.1 q js).isNone)
     | .error _ => false) = true ∧ gened.tileTaken (gened.unitOf i) (1 : TReg).val = false ∧
    (onG fun g => { g with em := 0 }).canIssue i ∧
    (onG fun g => { g with em := 0 }).me.octets ((onG fun g => { g with em := 0 }).me.active []) = [] := by
  simp only [State.canIssue, State.groupRuns]; decide +kernel
/-- An e8 MMA of a scalar place, one of a generator, and an MMAS. -/
theorem witness_MatrixMultiply_complete : ∀ x ∈ [(false, XSrc.sca 3, 0x8000200), (false, .gen 1, 0), (true, .sca 3, 0x8000200)],
    let g := gened.me
    let js := g.octets (g.active g.pfx)
    let i := if x.1 then Instr.mmas false .e8 1 x.2.1 (.sca 20) 1 else .mma false .e8 1 x.2.1 (.sca 20) 1
    let o : Operands := {
      k := .e8, fa := 0x64, fb := 0x64,
      a := (match x.2.1 with
        | .sca _ => .inl (gened.myInst.localStart gened.here + x.2.2 % 2 ^ 20)
        | .gen r => .inr (g.gen r)),
      b := .inl (gened.here * 2 ^ 22), stride := fld g.mstride.toNat 0 20, sparse := x.1, t := false }
    g.width ≤ 64 ∧ (1 : TReg).val < gened.myInst.acc ∧ kindFmt .e8 (fld g.mfmt.toNat 0 8) = some 0x64 ∧
    kindFmt .e8 (fld g.mfmt.toNat 8 8) = some 0x64 ∧ (g.sreg 3).toNat = 0x8000200 ∧ 0x8000200 / 2 ^ 20 = 128 ∧ (g.sreg 20).toNat = 0 ∧
    0 + (1 + 1) * 64 * kindRow .e8 ≤ 2 ^ 22 ∧ (g.gen 1).outfmt.toNat = 0x64 ∧ g.mkres.getLsbD 4 = false ∧
    (∀ q, q ≤ (1 : Fin 16).val → ∀ r ∈ o.ranges gened.here x.2.2 0 q js, r.2.1 < bstoreBase → gened.myInst.selfRange r.1 r.2.2 = true) ∧
    gened.canIssue i ∧ x.2.2 % 16 = 0 ∧ gened.tileTaken (gened.unitOf i) (1 : TReg).val = false ∧
    (∀ q, q ≤ (1 : Fin 16).val → gened.badBlock o q js = none) := by
  simp only [State.canIssue, State.groupRuns]; decide +kernel
theorem witness_MatrixMultiply_complete_quiet : gened.quiet := by simp only [State.quiet]; decide +kernel
theorem witness_TileMoves : (1 : TReg).val < base.myInst.acc ∧ base.myInst.acc ≤ (2 : TReg).val ∧ base.canIssue (.msta 1 3) ∧
    base.canIssue (.mlda 2 3) ∧ base.myInst.selfRange (base.me.sreg 3).toNat (base.me.width * 256) = true ∧
    (base.me.sreg 3).toNat % 16 = 0 ∧ base.tileTaken (base.unitOf (.mzero 1)) (1 : TReg).val = false ∧
    base.tileTaken (base.unitOf (.mlda 1 3)) (1 : TReg).val = false := by
  simp only [State.canIssue, State.groupRuns]; decide +kernel
/-- MDRAIN of f32 and, transposed, of bf16: to 0x8000200 and 0x8004000, and to 0x200000 and 0x210000. -/
def draining (s : State := base) : State := onG (fun g => { g with
  dfmt := 0x0100, s := put (put g.s 14 0x8004000) 15 0x210000 }) s
theorem witness_TileMoves_drain : ∀ x ∈ [(3, 14, true, false), (1, 15, false, true)],
    let i := Instr.mdrain 1 x.1 x.2.1 x.2.2.1 x.2.2.2 false
    let main := draining.drainOut 1 0 4 (draining.me.sreg x.1).toNat false false
    let tr := if x.2.2.1 then draining.drainOut 1 1 2 (draining.me.sreg x.2.1).toNat true false else ([], [])
    draining.canIssue i ∧ fld draining.me.dfmt.toNat 0 8 = 0 ∧ fld draining.me.dfmt.toNat 8 8 = 1 ∧ drainSize 0 = some 4 ∧
    drainSize 1 = some 2 ∧ (draining.me.sreg x.1).toNat % 16 = 0 ∧ (draining.me.sreg x.2.1).toNat % 16 = 0 ∧
    draining.me.activeRows ≠ [] ∧
    (if x.2.2.2 then (match draining.resolve 0 1 16 true (granulesOf (main.1 ++ tr.1)) with
       | .ok xs => decide ((∀ y ∈ xs, y.at_.plain = true ∧ y.at_.home = base.device) ∧ linesOf xs ≤ 256)
       | .error _ => false)
     else decide (∀ r ∈ main.1 ++ tr.1, draining.myInst.selfRange r.2.1 r.2.2 = true)) = true := by
  simp only [State.canIssue, State.groupRuns]; decide +kernel
theorem witness_Generators :
    let s := onG fun g => { g with s := put g.s 30 0x9000 }
    s.canIssue (.gset 1 30) ∧ (30 : SReg).val ≤ 60 ∧ (genOf (s.me.sreg 30) (s.me.sreg 31) (s.me.sreg 32) (s.me.sreg 33)).good = true ∧
    60 < (61 : SReg).val ∧ base.canIssue (.gset 1 61) ∧ base.canIssue (.gget 1 61) ∧ base.canIssue (.gget 1 60) ∧
    (genOf 0x9004 0 0 0).good = false := by
  simp only [State.canIssue, State.groupRuns]; decide +kernel

/-! ### Windows, barriers, crews, queues, claims and tasks -/

/-- The number that a window record is: source 0x200000, 4 × 4 bytes, the destination and CTL given. -/
def recordNum (dst ctl start : Nat) : Nat :=
  0x200000 + 2 ^ 64 * dst + 2 ^ 128 * (4 + 2 ^ 16 + 2 ^ 32 + 2 ^ 48) + 2 ^ 192 * 4 + (2 ^ 320 + 2 ^ 352 + 2 ^ 384) * 16
    + 2 ^ 416 * ctl + 2 ^ 480 * start
def withRecord (dst ctl start : Nat) : State := { base with
  lm := wrLE [] (4096 + 0x200) 64 (recordNum dst ctl start), mem := wrLE base.mem 0x200000 64 (recordNum dst ctl start) }
theorem witness_Windows_wset : ∀ x ∈ [(0x8000400, 0, 0), (0x8000400, 0, 1), (0x200400, 2, 0), (0x200400, 2, 1), (0, 1, 0)],
    let s := withRecord x.1 x.2.1 x.2.2
    let r := winRec (recordNum x.1 x.2.1 x.2.2)
    s.canIssue (.wset 1 3) ∧ s.canIssue (.wsetG 1 1) ∧ (s.core s.here).engineQueue = [] ∧ s.here < 512 ∧
    (∀ x ∈ s.coreGroups s.here, x.2.flight = []) ∧
    winRec (rdLE s.lm (s.here * 2 ^ 20 + s.myInst.lmbase * 512 + ((s.me.sreg 3).toNat - 2 ^ 27)) 64) = r ∧
    (s.me.sreg 3).toNat + 64 ≤ 2 ^ 27 + s.myInst.spad * 4096 ∧ (s.me.sreg 3).toNat % 64 = 0 ∧ (s.me.sreg 1).toNat % 64 = 0 ∧
    (match s.resolve 0 1 16 false (sixteens (s.me.sreg 1).toNat 4) with
     | .ok xs => decide ((∀ y ∈ xs, y.at_.control = false ∧ y.at_.home = s.device) ∧
         r = winRec (joined (xs.map (fun y => (y.lane, rdLE s.mem y.at_.key 16)))))
     | .error _ => false) = true ∧
    r.noBstore 0 = false ∧ r.total = 16 ∧ s.recordCause 0 s.myInst (s.me.sreg 3).toNat (s.unitOf (.wset 1 3)).word r = none ∧
    s.recordCause 0 s.myInst (s.me.sreg 1).toNat (s.unitOf (.wsetG 1 1)).word r = none := by
  simp only [State.canIssue, State.groupRuns]; decide +kernel
theorem witness_Windows_quiet : (withRecord 0x8000400 0 0).quiet := by simp only [State.quiet]; decide +kernel
/-- Window 1 of 48 bytes in a given state, its mark at 16. -/
def bound (st : WState) (start : Nat := 0) (s : State := base) : State := onI (fun i => { i with
  wins := [(1, { state := st, mark := 16, total := 48, rcd := { winRec (recordNum 0x8000400 0 start) with ext := [12, 1, 1, 1], dstr := [48, 48, 48] } })] }) s
theorem witness_Windows : ∀ st ∈ [WState.empty, .armed, .landing, .frozen, .stranded, .landed],
    (look {} (bound st).myInst.wins (1 : WReg).val).state = st ∧ (bound st).canIssue (.wwait 1) ∧ (bound st).canIssue (.wdrop 1) ∧
    (bound st).canIssue (.wwaitMark 1 2) ∧ (bound st).windowInUse (bound st).myInstKey 1 = false ∧
    ((bound st).me.sreg 2).toNat ≤ 16 ∧ (bound st).canIssue (.wwaitMark 1 1) ∧ 48 < ((bound st).me.sreg 1).toNat ∧
    (onG (fun g => { g with s := put g.s 2 48 }) (bound st)).canIssue (.wwaitMark 1 2) := by
  simp only [State.canIssue, State.groupRuns]; decide +kernel

/-- A barrier of phase 3 and count 2 at 0x8000200, with the arrivals and sectors given. -/
def barrier (arrivals sectors : Nat) : State := { base with lm := wrLE [] (4096 + 0x200) 16 (barrierWord 3 2 arrivals sectors) }
theorem witness_TransactionBarriers : ∀ i ∈ [Instr.txinit 3 2, .txarrive 3, .txexpect 3 2, .txwait 3 2, .txwait 3 20],
    (barrier 2 5).canIssue i ∧
    (match (barrier 2 5).localAccess ((barrier 2 5).unitOf i) 0 16 true true [(0, ((barrier 2 5).me.sreg 3).toNat)] with
     | .ok (t, [x]) => decide (barBad (rdLE t.lm x.at_ 16) = false ∧ 0 < barArrv (rdLE t.lm x.at_ 16) ∧
         barPhase (rdLE t.lm x.at_ 16) = ((barrier 2 5).me.sreg 2).toNat % 16 ∧
         barPhase (rdLE t.lm x.at_ 16) ≠ ((barrier 2 5).me.sreg 20).toNat % 16 ∧
         (t.release 0 ((barrier 2 5).unitOf i) 4).isSome = true)
     | _ => false) = true ∧ 0 < ((barrier 2 5).me.sreg 2).toNat ∧ ((barrier 2 5).me.sreg 2).toNat < 2 ^ 16 ∧ base.me.sreg 20 = 0 := by
  simp only [State.canIssue, State.groupRuns]; decide +kernel

/-- Crew slot 2 with tag 3; and the group in it, alone, with another that has arrived, or that has not. -/
def crewed (members party : List Nat) (arrived : List (Nat × Nat)) (s : State := base) : State :=
  onC (fun c => { c with crews := [(2, { tag := 3, born := 900, phase := 0, members := members, party := party, arrived := arrived })] }) s
def member (s : State) : State := onG (fun g => { g with crew := crewWord 2 0 3 }) s
theorem witness_Crews_join : base.me.inCrew = false ∧ (base.me.sreg 2).toNat % 2 ^ 16 = 3 ∧ (base.core base.here).crewOf 3 = none ∧
    (base.core base.here).freeSlot = some 0 ∧
    (base.core base.here).crews.length + base.joinsAhead base.cur (base.unitOf (.join 2)) < 16 ∧
    ((crewed [1] [1] []).core 0).crewOf 3 = some (2, { tag := 3, born := 900, phase := 0, members := [1], party := [1], arrived := [] }) ∧
    (crewed [1] [1] []).canIssue (.join 2) ∧ (crewed [1] [1] []).cycle = 1000 ∧
    (let s := onC fun c => { c with crews := (List.range 16).map (fun j =>
        (j, { tag := 100 + j, born := 0, phase := 0, members := [1], party := [1], arrived := [] })) }
     s.canIssue (.joinNb 2 1) ∧ (s.core s.here).crewOf 3 = none ∧ (s.core s.here).freeSlot = none) ∧
    (let c : Crew := { tag := 3, born := 900, phase := 1, members := [1], party := [1], arrived := [], closed := some (1000, 0) }
     let s := onC fun x => { x with crews := [(2, c)] }
     s.canIssue (.join 2) ∧ (s.core 0).crewOf 3 = some (2, c) ∧ c.closed = some (s.cycle, c.phase - 1)) := by
  simp only [State.canIssue, State.groupRuns]; decide +kernel
theorem witness_Crews : ∀ s ∈ [member (crewed [0] [0] []), member (crewed [0, 1] [0, 1] [(1, 0)]), member (crewed [0, 1] [0, 1] [])],
    ∀ i ∈ [Instr.cbar, .cbara, .leave, .join 2], s.canIssue i ∧ s.me.inCrew = true ∧ s.me.heldCbar = none ∧ s.me.crewSlot = 2 ∧
    (match find? (s.core s.here).crews 2 with
     | some c => decide (c.arrivalPhase s.me = c.phase ∧ c.phase ≠ c.openIn s.cycle + 2 ∧ s.cur ∈ c.party ∧ c.members ≠ [])
     | none => false) = true ∧ (s.release s.cur (s.unitOf i) s.me.crewScope).isSome = true := by
  simp only [State.canIssue, State.groupRuns]; decide +kernel

/-- Queue 3 of the core: eight items at the start of local memory, the tail and the head given. -/
def queued (tail head : Nat) (s : State := base) : State := onC (fun c => { c with
  qcfg := [(3, BitVec.ofNat 64 (2 ^ 27 + 3 * 2 ^ 28 + head * 2 ^ 32 + tail * 2 ^ 48))], qowner := [(3, 1)] }) s
theorem witness_Queues : ∀ x ∈ [(0, 0), (5, 0), (8, 0), (3, 65534)],
    let s := queued x.1 x.2
    let cfg := look 0 (s.core s.here).qcfg 3
    qLog cfg = 3 ∧ qTail cfg = x.1 ∧ qHead cfg = x.2 ∧
    ∀ i ∈ [Instr.qpush 2 3, .qpushNb 2 3 1, .qpop 2 3, .qpopNb 2 3 1], s.canIssue i ∧ s.queueAhead s.cur 3 (s.unitOf i) = [] ∧ s.sramBad = [] ∧
      (s.release s.cur (s.unitOf i) 4).isSome = true ∧
      (match s.ring365 s.here 3 (s.unitOf i) with
       | .ok b => decide (b = 4096 ∧ (∀ h ∈ [qTail cfg, qHead cfg], (match s.itemAccess (b + 8 * (h % 2 ^ qLog cfg)) with
           | .ok _ => true
           | .error _ => false) = true))
       | .error _ => false) = true := by
  simp only [State.canIssue, State.groupRuns]; decide +kernel
theorem witness_Queues_counts : qCount (look 0 ((queued 0 0).core 0).qcfg 3) = 0 ∧ qCount (look 0 ((queued 8 0).core 0).qcfg 3) = 8 ∧
    qCount (look 0 ((queued 3 65534).core 0).qcfg 3) = 5 ∧ base.canIssue (.qpush 2 16) ∧ qLog (look 0 (base.core 0).qcfg 3) = 0 := by
  simp only [State.canIssue, State.groupRuns]; decide +kernel

theorem witness_RegisterClaims :
    (let s := onG fun g => { g with blocks := 1 }
     s.canIssue (.vclaim 15) ∧ s.canIssue (.vclaimNb 15 1) ∧ s.me.blocks + 15 ≤ 16 ∧ (s.core s.here).claims = [] ∧
       15 * s.me.width / 16 ≤ (s.core s.here).free) ∧
    (let s := onG (fun g => { g with blocks := 8 }) (onC fun c => { c with used := 2048 })
     s.canIssue (.vclaim 1) ∧ s.canIssue (.vclaimNb 1 1) ∧ (s.core s.here).claims = [] ∧ (s.core s.here).free < 1 * s.me.width / 16) ∧
    (base.canIssue (.vgive 15) ∧ 15 < base.me.blocks) ∧ base.canIssue (.vgive 16) ∧ base.canIssue (.vclaim 0) ∧
    (let s := onC fun c => { c with claims := [⟨0, 2⟩] }
     (s.core 0).claims = [⟨0, 2⟩] ∧ coreOf 0 = 0 ∧ 2 * (s.grp 0).width / 16 ≤ (s.core 0).free) ∧
    (let s := onC fun c => { c with claims := [⟨0, 2⟩], used := 2047 }
     (s.core 0).claims = [⟨0, 2⟩] ∧ (s.core 0).free < 2 * (s.grp 0).width / 16) := by
  simp only [State.canIssue, State.groupRuns]; decide +kernel
/-- A template of one group at 0x200080, which s14 names. -/
def templated (s : State := base) : State := onG (fun g => { g with s := put g.s 14 0x200080 }) { s with
  mem := wrLE s.mem 0x200080 24 (0x10000 + 2 ^ 64 * 0x100 + 2 ^ 128) }
theorem witness_Tasks_spawn : templated.canIssue (.spawn 20 14 2) ∧ (templated.me.sreg 14).toNat % 128 = 0 ∧
    (match templated.resolve 0 1 16 false (sixteens (templated.me.sreg 14).toNat 8) with
     | .ok xs => decide ((∀ x ∈ xs, x.at_.control = false ∧ x.at_.home = base.device) ∧
         templateBad (joined (xs.map (fun x => (x.lane, rdLE templated.mem x.at_.key 16)))) (isSteward 0) = false)
     | .error _ => false) = true ∧ 0 < templated.poolSpace (poolOf 0) ∧ templated.canIssue (.spawn 20 2 2) ∧
    (templated.me.sreg 2).toNat % 128 ≠ 0 := by
  simp only [State.canIssue, State.groupRuns]; decide +kernel
theorem witness_Tasks_quiet : templated.quiet ∧ (onI fun i => { i with groups := 2 }).quiet := by
  simp only [State.quiet]; decide +kernel
theorem witness_Tasks_exit : ∀ n ∈ [1, 2], let s := onI fun i => { i with groups := n }
    s.canIssue .exit ∧ s.me.inCrew = false ∧ s.me.reserved = none ∧ s.me.susp = false ∧ (s.core s.here).claims = [] ∧
    s.myInst.exited.length + 1 ≤ s.myInst.groups ∧ s.myInst.suspended = [] ∧ find? s.sets s.myInst.set = some set0 ∧
    s.me.blocks * s.me.width / 16 ≤ s.myInst.held ∧ s.myInst.held ≤ (s.core s.here).used := by
  simp only [State.canIssue, State.groupRuns]; decide +kernel
/-- The group hands its end to set 1, whose counter is 1. -/
def handing : State := onG (fun g => { g with s := [(14, handleOf 1)] }) (onI (fun i => { i with groups := 2 })
  { base with sets := [(1, { set0 with counter := 1, ready := none })] })
theorem witness_Tasks_handle : handing.setOf (handing.me.sreg 14) = some (1, { set0 with counter := 1, ready := none }) ∧
    handing.canIssue (.exitH 14) ∧ (1 : Nat) = handing.graphOf handing.cur := by
  refine ⟨?_, ?_⟩
  · have h : handing.me.sreg 14 = handleOf 1 := rfl
    have g : handing.sets = [(1, { set0 with counter := 1, ready := none })] := rfl
    rw [h, State.setOf, g]; simp
  simp only [State.canIssue, State.groupRuns]; decide +kernel
theorem witness_Tasks_suspended : (onG fun g => { g with susp := true }).canIssue (.exitH 14) := by
  simp only [State.canIssue, State.groupRuns]; decide +kernel
/-- The group and its instance on steward core 256. -/
def onSteward (s : State := base) : State := { s with cur := 256 * 64, groups := [(256 * 64, s.grp 0)], insts := [(256 * 16, s.inst 0)] }
theorem witness_CommitAndWaitx : base.noRecords ∧ base.canIssue (.commit 1) ∧ base.canIssue (.commit 9) ∧ isSteward base.here = false ∧
    onSteward.canIssue (.commit 9) ∧ isSteward onSteward.here = true ∧
    (onSteward.release onSteward.cur (onSteward.unitOf (.commit 9)) 9).isSome = true ∧ base.canIssue (.commit 0) ∧
    base.canIssue (.commit 10) := by
  simp only [State.canIssue, State.groupRuns, State.noRecords]; decide +kernel
theorem witness_CommitAndWaitx_word : ∀ x ∈ [(6, true), (9, false)],
    let s := onG (fun g => { g with s := put g.s 14 (if x.2 then 0x1122334455667788 else 5) }) (withPfx 2 (x.1 * 2 ^ 17))
    s.canIssue (.waitx 20 1 14) ∧ (s.unitOf (.waitx 20 1 14)).modScope = x.1 ∧ (s.core s.here).watch = [] ∧
    (match s.resolve 0 1 8 false [(0, (s.me.sreg 1).toNat)] with
     | .ok [y] => decide (y.at_.control = false ∧ y.at_.home = s.device ∧ y.lane = 0) &&
         ((BitVec.ofNat 64 (rdLE s.mem y.at_.key 8) == s.me.sreg 14) == x.2)
     | _ => false) = true := by
  simp only [State.canIssue, State.groupRuns]; decide +kernel
theorem witness_CommitAndWaitx_scope : ∀ sc ∈ [5, 10], (withPfx 2 (sc * 2 ^ 17)).canIssue (.waitx 20 1 14) ∧
    ((withPfx 2 (sc * 2 ^ 17)).unitOf (.waitx 20 1 14)).modScope = sc := by
  simp only [State.canIssue, State.groupRuns]; decide +kernel
theorem witness_PlacedState : let s := onC fun c => { c with answer := some (1, 0) }
    fld set0.part.toNat 4 2 ≠ 3 ∧ (s.core 0).answer = some (1, 0) ∧ find? s.sets 1 = some set0 ∧ s.fits 0 set0 = true ∧
    s.resv = [] ∧ flagNwin set0.flags = 0 ∧ s.freeTslot 0 = some 1 ∧ s.freeRun 0 (8 * partSpad set0.part) = some 0 ∧
    (s.freeSlots 0).head? = some 1 := by decide +kernel

/-! ### Events -/

/-- The unit that a group of the base state runs, as it waits. -/
def waiter (i : Instr) (w : Wait) : Flight := { group0.unit i with wait := w, since := 900 }
theorem witness_WaitEvents :
    (let u : Flight := { waiter (.ldlFe .b32 4 3 1 false) .fullEmpty with spans := [{ key := localBase + 0x1200, len := 4 }] }
     (onG fun g => { g with pc := 0x10004, flight := [u] }).onlyWaiter
       (fun _ v => v.wait = .fullEmpty && v.granules.any (fun a => a / 2 ^ 16 = 0)) 0 u) ∧
    (waiting (.ldl .b32 4 3 1 false) (.mark true)).onlyWaiter (fun j v => j = 0 && (v.wait = .mark true || v.wait = .mark false)) 0
      (waiter (.ldl .b32 4 3 1 false) (.mark true)) ∧
    (waiting (.ldg .b32 false 4 1 1 false) .home).onlyWaiter (fun j v => j = 0 && v.wait = .home) 0
      (waiter (.ldg .b32 false 4 1 1 false) .home) ∧
    (waiting (.qpop 2 3) .queue).onlyWaiter (fun j v => coreOf j = 0 && v.wait = .queue && (queueOf v.instr).map Prod.fst = some 3) 0
      (waiter (.qpop 2 3) .queue) ∧
    (waiting (.atom .add 2 1 1 .i32) .accept).onlyWaiter (fun j v => j = 0 && v.wait = .accept) 0
      (waiter (.atom .add 2 1 1 .i32) .accept) ∧
    (waiting (.join 2) .join).onlyWaiter (fun j v => coreOf j = 0 && v.wait = .join) 0 (waiter (.join 2) .join) ∧
    (waiting (.waitx 20 1 14) .waitx).onlyWaiter (fun j v => j = 0 && v.wait = .waitx) 0 (waiter (.waitx 20 1 14) .waitx) ∧
    ((waiting (.waitx 20 1 14) .waitx).grp 0).status = .running ∧
    ((waiting (.waitx 20 1 14) .waitx).grp 0).incomplete.find? (fun v => v.wait = .waitx) = some (waiter (.waitx 20 1 14) .waitx) ∧
    (waiter (.waitx 20 1 14) .waitx).instr = .waitx 20 1 14 ∧
    ((waiting (.waitx 20 1 14) .waitx).grp 0).status = .running ∧
    ((waiting (.waitx 20 1 14) .waitx).grp 0).incomplete.find? (fun v => v.wait = .waitx) = some (waiter (.waitx 20 1 14) .waitx) ∧
    (waiter (.waitx 20 1 14) .waitx).instr = .waitx 20 1 14 ∧
    (onC (fun c => { c with watch := [{ grp := 0, line := 0x4000 }] }) (waiting (.waitx 20 1 14) .waitx)).watches 0 = true ∧
    (∀ w ∈ ((onC fun c => { c with watch := [{ grp := 0, line := 0x4000 }] }).core 0).watch, w.grp = 0 → w.leaving = false) ∧
    (waiting (.waitx 20 1 14) .waitx).watches 0 = false ∧ base.waiters (fun _ _ => true) = [] := by
  simp only [State.onlyWaiter]; decide +kernel
theorem witness_WaitEvents_notice : let w : WatchEntry := { grp := 0, line := 0x4000, leaving := true }
    ((onC fun c => { c with watch := [w, { grp := 1, line := 0x4000 }] }).core (coreOf 0)).watch = [w, { grp := 1, line := 0x4000 }] ∧
    w.grp = 0 ∧ w.leaving = true ∧ ∀ x ∈ [({ grp := 1, line := 0x4000 } : WatchEntry)], x.grp ≠ 0 := by decide +kernel
theorem witness_WaitEvents_far : ∀ pa ∈ [0, 0x200008, 2 ^ 52 - 8], let r : FarReq := { module := 3, core := 1, seq := 5, pa := pa }
    r.module ≠ base.device ∧ r.pa < 2 ^ 52 ∧ base.farSeen.find? (sameReq r) = none ∧ base.farQueue = [] ∧ base.pins = [] ∧
    base.refusals = [] ∧ r.pa % tyBytes .i64 = 0 ∧ base.bad = [] ∧ base.held = [] ∧ base.aholds = [] ∧
    (∀ n ∈ [1, 8], r.pa % 128 + n ≤ 128 ∧ base.stranded ((base.farKeys r n).map (fun a => (0, a))) = none ∧
      ∀ a ∈ base.farKeys r n, base.homeBlocked (a / 16 * 16) = false) ∧
    base.homeBlocked (base.device * 2 ^ 52 + r.pa) = false := by decide +kernel
theorem witness_WaitEvents_retry :
    (∃ x, (filled (waiting (.ldlFe .b32 4 3 1 false) .fullEmpty)).localAccess (waiter (.ldlFe .b32 4 3 1 false) .fullEmpty) 0 4 false false
        ((waiter (.ldlFe .b32 4 3 1 false) .fullEmpty).addresses group0 3 1 1) = .ok x ∧
      (x.1.feWaiters = [(900, 0, waiter (.ldlFe .b32 4 3 1 false) .fullEmpty)] ∧ ∀ g ∈ granules x.2, x.1.isFull g = true)) ∧
    (match (waiting (.ldg .b32 false 4 1 1 false) .home).gLoad (waiter (.ldg .b32 false 4 1 1 false) .home) 0 4 false
        ((waiter (.ldg .b32 false 4 1 1 false) .home).addresses group0 1 1 1) with
     | .vals _ vs => decide (vs.length = 2)
     | _ => false) = true ∧
    ((waiting (.join 2) .join).joinCrew 0 3 ((waiting (.join 2) .join).joinsAhead 0 (waiter (.join 2) .join))).isSome = true :=
  ⟨ok_of (by decide +kernel), by decide +kernel, by decide +kernel⟩
theorem witness_WaitEvents_miss : ∀ n ∈ [253, 254], ((onC fun c => { c with rejected := [(0, 3)], missUsed := n }).core 0).rejected = [(0, 3)] := by
  decide +kernel
/-- The group's CBAR waits for its crew's phase 0, which is complete; and its WSET waits for an engine, its record read. -/
def atBarrier : State := member (crewed [0] [0] [(0, 0)] (onG fun g => { g with
  pc := 0x10004, flight := [{ waiter .cbar .crew with arrived := some 0 }] }))
theorem witness_WaitEvents_crew :
    (match find? (atBarrier.core 0).crews 2 with
     | some c => decide (c.members.Nodup ∧ c.members ≠ [] ∧ 0 ∈ c.members ∧ 1 ∉ c.members) &&
         (atBarrier.grp 0).flight.find? (c.settleIn atBarrier.cycle).passes = some { waiter .cbar .crew with arrived := some 0 }
     | none => false) = true := by decide +kernel
def engineRec (start : Nat) : WinRec := { winRec (recordNum 0x8000400 0 start) with ext := [12, 1, 1, 1], dstr := [48, 48, 48] }
def engineUnit (start : Nat) : Flight := { waiter (.wset 1 3) .engine with
  prog := 1, rcd := some (engineRec start) }
def atEngine (start : Nat) : State := onC (fun c => { c with engineQueue := [0] }) (onG (fun g => { g with
  pc := 0x10004, flight := [engineUnit start] }) (bound .empty start))
theorem witness_WaitEvents_engine : ∀ n ∈ [0, 2],
    (atEngine n).onlyWaiter (fun j v => ((atEngine n).core 0).engineQueue.head? = some j && v.wait = .engine) 0 (engineUnit n) ∧
    ((atEngine n).core 0).engineQueue = [0] ∧ (atEngine n).enginesUsed 0 < 16 ∧
    ((atEngine n).grp 0).incomplete = [engineUnit n] ∧ (engineUnit n).instr = .wset 1 3 ∧ (engineUnit n).wait = .engine ∧
    (engineUnit n).prog = 1 ∧ coreOf 0 = 0 ∧ (∀ i < 16, ((atEngine n).inst (0 * 16 + i)).tobind = []) ∧
    (engineUnit n).rcd = some (engineRec n) ∧ (engineRec n).dkind ≠ 2 ∧ (engineRec n).start * 16 < (engineRec n).total := by
  simp only [State.onlyWaiter]; decide +kernel
theorem witness_WaitEvents_noEngine : (base.core 0).engineQueue = [] ∧ ∀ i < 16, (base.inst (0 * 16 + i)).tobind = [] := by decide +kernel

theorem witness_WindowEvents_landing : let s := bound .landing
    let w := look {} (s.inst 0).wins 1
    (s.inst 0).live = true ∧ w.state = .landing ∧ w.mark < w.total ∧ w.freeze = none ∧ w.rcd.red = 0 ∧ w.rcd.setfull = false ∧
    w.rcd.txbOn = false ∧ s.earlier 0 (s.inst 0) w (w.mark / 16) = [] ∧
    (match s.sources 0 1 (w.rcd.elements (w.mark / 16)) with
     | .ok ps => decide (ps.length = 4 ∧ ∀ p ∈ ps, p.at_.control = false ∧ s.homeHolds (.engine 0 1) p.at_ = false ∧ s.covers p.at_.key = [])
     | .error _ => false) = true ∧ s.pins = [] ∧ s.refusals = [] ∧ s.aholds = [] ∧ s.destWaits (w.keyOf 0 (s.inst 0) w.mark) = false ∧ w.mark ≤ 16 * 1 ∧ w.mark ≤ 16 * 2 ∧ 16 * 2 < w.total := by decide +kernel
/-- The source of granule 1 lies on this module, on module 3, or on a page that is not mapped. -/
theorem witness_WindowEvents_fault :
    let from_ := fun (src : Nat) (s : State) => onI (fun i => { i with wins := mapVals i.wins (fun _ w => {
      w with rcd := { w.rcd with src := src } }) }) s
    let s := bound .landing
    let far : State := { s with homes := [{ ctx := 1, va := 0x200000, len := 0x200000, home := 3 }] }
    let found := fun (s : State) => s.sources 0 1 ((look {} (s.inst 0).wins 1).rcd.elements 1)
    (s.inst 0).live = true ∧ (look {} (s.inst 0).wins 1).state = .landing ∧ (look {} (s.inst 0).wins 1).freeze = none ∧
    (match found s with
     | .ok ps => decide (ps ≠ [] ∧ ∀ x ∈ ps, x.at_.home = s.device)
     | .error _ => false) = true ∧
    (match found far with
     | .ok ps => decide (ps ≠ [] ∧ ∃ x ∈ ps, x.at_.home ≠ s.device)
     | .error _ => false) = true ∧
    (match found (from_ 0x5000000 s) with
     | .error c => decide (c.code = 5)
     | .ok _ => false) = true := by decide +kernel
/-- A lazy range of the context, and a cause in it. -/
def lazy1 : Lazy := { va := 0x40000000, len := 0x200000, size := 0x10000, pa := 0x10000000, attr := 4, free := 0x20000000 }
def lazyCause : Cause := ⟨5, 0x40000000, 0⟩
def withLazy (s : State := base) : State := { s with ctxs := [(1, { ctx1 with lazies := [lazy1] })] }
def frozen (c : Cause) : State := onI (fun i => { i with wins := mapVals i.wins (fun _ w => { w with freeze := some (16, c) }) }) (withLazy (bound .frozen))
theorem witness_WindowEvents_frozen : ∀ c ∈ [lazyCause, ⟨9, 0, 0⟩],
    ((frozen c).inst 0).live = true ∧ (look {} ((frozen c).inst 0).wins 1).state = .frozen ∧
    (look {} ((frozen c).inst 0).wins 1).freeze = some (16, c) ∧
    (frozen c).serviceable 1 ((frozen c).trapPolicy 1) c = (if c = lazyCause then some lazy1 else none) ∧
    (frozen c).tablesHeld 1 c.taddr.toNat (c.taddr.toNat + 1) = false := by decide +kernel

/-- What the bins of unit 0 say of the records of core 0's stream 0. -/
def from0 : Summary := { omod := 0, unit := 0, ingress := false, omask := 1, gmask := 0 }
/-- A record that adds 5 to word 0 of channel 3, of core 0's stream 0, of this module and of module 7. -/
def rec1 : Rec := { header := recHeader 1 false 3 0 0 0, value := 5 }
def rec7 : Rec := { header := recHeader 1 false 3 0 7 0, value := 5 }
theorem witness_RecordEvents_bins : base.commits = [] ∧ base.farCommits = [] ∧ base.lostOrigins = [] ∧ rec1.omod = base.device ∧
    ((onC fun c => { c with log := [.rcd 0 rec1 1] }).core 0).log = .rcd 0 rec1 1 :: [] ∧
    (binRecord rec1 ((base.bunit (unitOf 0)).bin rec1.chan)).length ≤ 256 ∧
    (binRecord rec1 ((base.bunit (unitOf 0)).bin (256 + 3))).length ≤ 256 ∧
    (let s := { base with units := [(0, { bins := [(3, List.replicate 256 rec1)] })] }
     ((s.bunit 0).bin 3).length = 256 ∧ (s.bunit 0).staging = [] ∧ s.polderRoom 3 false = true) := by decide +kernel
theorem witness_RecordEvents_module :
    (let o : BinOut := { unit := 1, module := 3, plane := 4, tag := 1, bytes := [], since := 0, failed := false }
     let s := { base with units := [(0, { bins := [(256 + 3, List.replicate 256 rec1)] })], binsOut := [o] }
     ((s.bunit 0).bin (256 + 3)).length = 256 ∧ s.planeFor 3 ((3 + 0) % 18) = some 3 ∧ (s.port 3).noCredit = [] ∧
       (s.port 3).waiting = [] ∧ ∀ x ∈ s.binsOut, x.unit = 0 → x.module = 3 → x.plane = 3 ∧ x.failed = false) ∧
    (3 ≠ base.device ∧ ∀ plane < 18, (base.bunit (base.ingressUnit plane rec1)).staging = [] ∧
      (binRecord rec1 ((base.bunit (base.ingressUnit plane rec1)).bin rec1.chan)).length ≤ 256 ∧
      (∀ x ∈ base.farBins, x.module = 3 → x.tag ≠ 5) ∧
      { module := 3, tag := 5, plane := plane } ∈ ({ base with farBins := [{ module := 3, tag := 5, plane := plane }] } : State).farBins) ∧
    (let p : Packet := { from_ := from0, chan := 3, recs := [rec1], byCommit := false }
     let q : Packet := { from_ := from0, chan := 5, recs := [rec1], byCommit := false }
     ({ base with transit := [q, p] } : State).transit[1]? = some p ∧
       (∀ x ∈ ({ base with transit := [q, p] } : State).transit.take 1, p.ordered x = false) ∧
       ({ base with transit := [q, p] } : State).parkHeld p.chan = false ∧
       ({ base with transit := [p, p] } : State).transit[1]? = some p ∧ p ∈ ({ base with transit := [p, p] } : State).transit.take 1 ∧
       ({ base with transit := [p], chans := [(3, { grant := true })] } : State).parkHeld 3 = true) := by
  decide +kernel
def notice1 : Notice := { module := 0, commit := 1, chan := 3, origins := [0] }
def notice7 : Notice := { module := 7, commit := 1, chan := 3, origins := [0] }
def parked1 : Slot := { seq := 0, from_ := from0, live := 1, recs := [rec1] }
def noticed : State := { base with chans := [(3, { notices := [notice1], grant := true, slots := [parked1], nextSeq := 1 })] }
def commit1 : Commit := { grp := 0, scope := 6, todo := [], origins := [0], pending := [], noticed := true, chans := [3], mods := [3], lost := false }
theorem witness_RecordEvents_notices :
    (notice1 ∈ ({ base with noticesOut := [notice1] } : State).noticesOut) ∧
    (notice7 ∉ base.noticesOut ∧ notice7.module ≠ base.device ∧ base.onTheWay 7 [0] [] = false ∧
      ({ base with transit := [{ from_ := from0, chan := 3, recs := [rec7], byCommit := false }] } : State).onTheWay 7 [0] [] = true ∧
      ({ base with chans := [(3, { slots := [{ parked1 with from_ := { from0 with omod := 7 }, recs := [rec7] }] })] } : State).noticeChans 7 [0] = [3]) ∧
    (∀ last ∈ [none, some 900], let s := { base with chans := [(3, { notices := [notice1], lastGrant := last })] }
     (s.chan 3).notices ≠ [] ∧ (s.chan 3).batch = [] ∧ (s.chan 3).grant = false ∧ (s.pchan 6).own = false ∧ (s.pchan 7).own = false ∧
       (s.chan 3).lastGrant = last) ∧ base.cycle < 900 + 14400 ∧ 900 + 14400 ≤ ({ base with cycle := 15300 } : State).cycle := by decide +kernel
theorem witness_RecordEvents :
    ((noticed.chan 3).notices = [notice1] ∧ (noticed.chan 3).grant = true ∧ (noticed.chan 3).slots = [parked1] ∧ parked1.recs = [rec1] ∧
      parked1.meets notice1 = true ∧ coversRec notice1.module notice1.origins rec1 = true ∧ noticed.bad = [] ∧ notice1.module = noticed.device ∧
      ({ noticed with bad := [noticed.recKey rec1 / 64] } : State).bad.contains (noticed.recKey rec1 / 64) = true) ∧
    (let s := { base with commits := [(1, commit1)], acks := [(1, 3, false)], abroad := [{ module := 3, rcd := rec1, commits := [1] }],
                          graphs := [(1, { ctx := 1, seq := 1, done := false, commit := some 1 })] }
     s.commits = [(1, commit1)] ∧ s.commitHeld 1 = true ∧ commit1.noticed = true ∧ s.farCommits = [] ∧ (1, 3, false) ∈ s.acks ∧
       s.abroad = [{ module := 3, rcd := rec1, commits := [1] }] ∧ s.bad = []) ∧
    (let s := { base with cycle := 16777216, chans := [(3, { fullSince := some 0, polder := 15, parked := 65536 })] }
     s.freeSlotsOf 3 = 0 ∧ (s.chan 3).fullSince = some 0 ∧ 0 + 16777216 ≤ s.cycle ∧ (s.chan 3).grant = false ∧ (s.chan 3).polder < 16) := by
  decide +kernel

def store1 (home : Nat) : StoreEntry := { key := home * 2 ^ 52 + 0x200000, bytes := [1, 2, 3, 4], grp := 0, marked := false }
theorem witness_StoreEvents :
    (let s := onC fun c => { c with stores := [store1 0] }
     (s.core 0).stores = store1 0 :: [] ∧ s.pins = [] ∧ s.refusals = [] ∧ s.siblingWaits 0 0 (store1 0) = false ∧ (store1 0).key / 2 ^ 52 = s.device ∧
       s.stranded [((store1 0).va, (store1 0).key)] = none ∧ s.storeBlocked (store1 0).key (store1 0).bytes.length = false ∧
       { store1 0 with marked := true }.grp ≠ noGroup ∧ coreOf (store1 0).grp = 0 ∧ find? s.groups (store1 0).grp ≠ none) ∧
    (let s := onC fun c => { c with stores := [store1 3] }
     (s.core 0).stores = store1 3 :: [] ∧ s.siblingWaits 0 0 (store1 3) = false ∧ (store1 3).key / 2 ^ 52 ≠ s.device ∧ s.remote = [] ∧
       s.planeFor ((store1 3).key / 2 ^ 52) (store1 3).first = some (store1 3).first) ∧
    (∀ pa ∈ [0, 0x20000C, 2 ^ 52 - 4], let r : FarReq := { module := 3, core := 1, seq := 5, pa := pa }
     r.module ≠ base.device ∧ r.pa < 2 ^ 52 ∧ [(1 : Byte), 2, 3, 4] ≠ [] ∧ r.pa % 16 + [(1 : Byte), 2, 3, 4].length ≤ 16 ∧
      base.storeBlocked (base.device * 2 ^ 52 + r.pa) 4 = false ∧ base.farSeen.find? (sameReq r) = none ∧ base.farQueue = [] ∧
      base.stranded ((base.farKeys r 4).map (fun a => (0, a))) = none) ∧
    (∀ q ∈ [none, some 5], let h : HeldStore := {
       module := if q = none then 0 else 3, core := 0, key := 0x200000, bytes := [1], grp := 0, marked := false, window := 14, seq := q }
     let s := { base with held := [h] }
     s.held = [h] ∧ h.window < s.cycle / 64 ∧ s.xfers = [] ∧ s.conns = []) ∧
    ((((onG fun g => { g with marked := [0x4000] }).coreGroups 0).filter (fun x => x.2.marked.contains 0x4000)).map Prod.fst = [0]) ∧
    (∀ c ∈ [1000, 65536], let p : Pin := { core := 1, scope := 4, groups := [64] }
     let s := { onC (fun c => { c with stores := [store1 0] }) with
       pins := [(0x4000, p)], refusals := [{ line := 0x4000, req := .store 0, since := 0 }], cycle := c }
     find? s.pins 0x4000 = some p ∧ p.admits s.device s.device 0 = false ∧ store1 0 ∈ (s.core 0).stores ∧ (store1 0).key / 128 = 0x4000 ∧
       (c = 65536 → 0 + 65536 ≤ s.cycle) ∧ (c = 1000 → ∀ x ∈ s.refusals, s.cycle < x.since + 65536)) ∧
    (find? base.ctxs 1 = some ctx1 ∧ (base.core 0).tlb = [] ∧ (match base.walkFrom 0x200000 3 ctx1.root with
      | .leaf w l => base.leafOk 1 w l (ptePa w + 0x200000 % pageSize l)
      | _ => false) = true) ∧
    (let r : RemoteReq := { core := 0, tag := 1, key := 3 * 2 ^ 52, bytes := [1], plane := 17, grp := 0, marked := false, since := 0, failed := true }
     let s := { base with remote := [r], cycle := 36000 }
     s.remote[0]? = some r ∧ s.planeFor (r.key / 2 ^ 52) r.first = some 0 ∧ r.failed = true ∧ r.cause = none ∧ r.since + 36000 ≤ s.cycle) := by decide +kernel

theorem witness_Detectors :
    (let s := onC fun c => { c with watchdog := [(1, 0x80000000)] }
     s.watchdogLimit 0 1 = some 0x80000000 ∧ look 0 (s.core 0).watchdog 1 = 0x80000000 ∧ (s.core 0).deadlock < 65536 ∧
       (s.groups.filter (fun x => coreOf x.1 = 0 && x.2.live && x.2.ctx = 1)) = [(0, s.grp 0)] ∧ (s.grp 0).priv = false) ∧
    (let s := onC fun c => { c with deadlock := 65536 }
     65536 ≤ (s.core 0).deadlock ∧ (s.groups.filter (fun x => coreOf x.1 = 0 && x.2.live)) = [(0, s.grp 0)] ∧ (s.grp 0).priv = false) ∧
    ((base.grp 0).live = true ∧ (base.grp 0).status = .running ∧
      base.serviceable (base.grp 0).ctx (base.grp 0).pol ((base.grp 0).atPage { code := 0x12, taddr := 0, tinfo := 0 }) = none) ∧
    (∀ c ∈ [lazyCause, ⟨9, 0, 0⟩], ((onG (fun g => { g with status := .service c }) withLazy).grp 0).status = .service c ∧
      withLazy.serviceable 1 false ((withLazy.grp 0).atPage c) = (if c = lazyCause then some lazy1 else none) ∧
      withLazy.tablesHeld 1 ((withLazy.grp 0).atPage c).taddr.toNat (((withLazy.grp 0).atPage c).taddr.toNat + 1) = false) := by decide +kernel

def ready1 : TaskSet := { set0 with next := 0 }
/-- Set 1 waits in a pool; no instance is placed. -/
def pooled (t : TaskSet := ready1) (cycle : Nat := 1000) : State := { base with sets := [(1, t)], insts := [], groups := [], cycle := cycle }
theorem witness_PoolEvents :
    (pooled.mayAsk 0 = true ∧ pooled.answerFor 0 (poolOf 0) = some (1, 0)) ∧
    (pooled.mayAsk 128 = true ∧ pooled.maySteal 128 = true ∧ pooled.answerFor 128 (otherPool (poolOf 128)) = some (1, 0)) ∧
    (let s := pooled { ready1 with pool := 2 }
     s.mayAsk 256 = true ∧ s.maySteal 256 = false ∧ s.answerFor 256 (poolOf 256) = some (1, 0) ∧ s.mayAsk 258 = true ∧
       s.maySteal 258 = true ∧ s.answerFor 258 (otherPool (poolOf 258)) = some (1, 0)) ∧
    (find? pooled.sets 1 = some ready1) ∧
    (let t := { ready1 with level := 0, pool := 2 }
     let s := { pooled t 1800000 with cores := [(256, { limCourses := 768, limTslots := 4, limGslots := 16, used := 768 }),
       (257, { limCourses := 768, limTslots := 4, limGslots := 16, used := 768 })] }
     s.resv = [] ∧ s.starving 2 = some (1, t) ∧ (∀ c ∈ poolCores 2, (s.core c).couldHold t = true) ∧ ∃ c ∈ poolCores 2, t.allows c = true) ∧
    (259 < 260 ∧ isSteward 259 = true ∧ isSteward 0 = false ∧ (base.core 259).claims = []) ∧
    (let t := { ready1 with spilled := true }
     let s := { pooled t with spill := [1] }
     s.spill = [1] ∧ find? s.sets 1 = some t ∧ t.pool = 0 ∧ 512 ≤ s.poolSpace 0) ∧
    (let s := pooled { set0 with ended := 1 }
     s.graphOver 1 = true ∧ find? s.graphs 1 = some { ctx := 1, seq := 1, done := false, commit := none }) ∧
    (let s := { pooled { set0 with ended := 1 } with graphs := [(1, { ctx := 1, seq := 1, done := false, commit := some 1 })] }
     s.graphOver 1 = true ∧ find? s.commits 1 = none ∧ s.bad = [] ∧ (s.commitsStep.serviceReads (s.commitsStep.outPlaces 1)).endWaits 1 = false) := by decide +kernel
theorem witness_SetAgeing : let s := pooled ready1 1800000
    find? s.sets 1 = some ready1 ∧ ready1.ready.isSome = true ∧ 0 < ready1.level ∧ ready1.since + 1800000 ≤ s.cycle ∧
    s.hasEntry 1 ready1 = true ∧ ready1.lowest.isSome = true ∧ (pooled ready1 1799999).cycle < ready1.since + 1800000 := by decide +kernel

/-- Connection 1 of endpoint 0, which has every right. -/
def hdr (opc ctx len : Nat) : ReqHdr := {
  conn := 1, bytes := bytesLE 2 opc ++ bytesLE 2 0 ++ bytesLE 4 7 ++ bytesLE 8 ctx ++ bytesLE 4 len ++ bytesLE 4 0 ++ bytesLE 8 0 }
theorem test_header : (hdr 4 1 20).opc = 4 ∧ (hdr 4 1 20).tag = 7 ∧ (hdr 4 1 20).ctx = 1 ∧ (hdr 4 1 20).bodyLen = 20 := by decide +kernel
theorem witness_ServiceRequests_reply : let r := replyTo (hdr 4 1 20) 1 8 1 [5]
    r.opc < 2 ^ 16 ∧ r.flags < 2 ^ 16 ∧ r.tag < 2 ^ 32 ∧ r.ctx < 2 ^ 64 ∧ r.body.length < 2 ^ 32 ∧ r.status < 256 ∧ r.cause < 2 ^ 24 := by
  decide +kernel
def served (s : State := base) : State := { s with access := [(0, { operate := true, steward := true, maintain := true })] }
def busyConn (n : Nat) : State := { served with conns := [(1, { queue := List.replicate n .nop })] }
def launchBody : List Byte := bytesLE 8 0x200080 ++ List.replicate 40 0
def mapBody : List Byte := bytesLE 8 0x10000 ++ bytesLE 8 0 ++ bytesLE 8 0x10000 ++ bytesLE 4 0 ++ bytesLE 4 4
def rangeBody (len : Nat) : List Byte := bytesLE 8 0x200000 ++ bytesLE 8 len ++ bytesLE 4 7
theorem witness_ServiceRequests :
    (served.booted = true ∧ served.outstanding 1 = 0 ∧ hdrBad (hdr 3 1 16) [] 16 = true ∧
      hdrBad (hdr 3 1 16) (List.replicate 16 0) 16 = false ∧ (busyConn 63).outstanding 1 = 63 ∧ (busyConn 64).outstanding 1 = 64) ∧
    served.preempting 1 = false ∧ (served (onG fun g => { g with priv := true, tcause := 0x0E })).preempting 1 = true := by decide +kernel
theorem witness_ServiceRequests_launch :
    ((served templated).takes 1 0x30 (hdr 1 1 48) launchBody ∧ (served templated).ownCtx (hdr 1 1 48) = true ∧
      ((served templated).rights 1).operate = true ∧ field launchBody 0x20 4 / 4 % 2 = 0 ∧
      (let r := (served templated).serviceReads ((served templated).rangePlaces 1 (field launchBody 0 8) 128)
       r.launchCause (hdr 1 1 48) launchBody = none ∧ r.launchWaits (hdr 1 1 48) launchBody = false) ∧ (served templated).ringBusy = false ∧
      (served templated).preempting 1 = false ∧ find? (served templated).ctxs 1 = some ctx1 ∧ 0 < (served templated).poolSpace 0) ∧
    (served.takes 2 0x20 (hdr 2 0 32) mapBody ∧ (mapReq mapBody 0x10000).control = false ∧ 0x20000 % 4096 = 0 ∧
      served.mapBad 0 mapBody (mapReq mapBody 0x10000) = false ∧ served.bothMaps 0 0 (mapReq mapBody 0x10000) = false ∧
      served.mapmemWaits (hdr 2 0 32) mapBody = false) := by
  simp only [State.takes]; decide +kernel
/-- Window 1 over global bytes 0x200000 to 0x20002F. -/
def overGet (st : WState) : State := onI (fun i => { i with wins := [(1, {
  state := st, mark := 0, total := 48, lines := [0x4000],
  rcd := { winRec (recordNum 0x200000 2 0) with ext := [12, 1, 1, 1], dstr := [48, 48, 48] } })] })
theorem witness_ServiceRequests_unmap :
    (served.takes 3 0x10 (hdr 3 1 16) ((rangeBody 0x10000).take 16) ∧ served.ownCtx (hdr 3 1 16) = true ∧
      field (rangeBody 0x10000) 0 8 + field (rangeBody 0x10000) 8 8 ≤ 2 ^ 48 ∧ served.preempting 1 = false ∧
      served.unmapWaits (hdr 3 1 16) ((rangeBody 0x10000).take 16) = false) ∧
    (served.takes 4 0x14 (hdr 4 1 20) (rangeBody 16) ∧ served.rangeCause 1 0x200000 16 true = none ∧ 0 < field (rangeBody 16) 8 8 ∧
      served.xfers = [] ∧ (look ({} : Conn) served.conns 1).early = [] ∧ served.takes 5 0x14 (hdr 5 1 20) (rangeBody 16) ∧
      served.rangeCause 1 0x200000 16 false = none) ∧
    (∀ st ∈ [WState.empty, .armed, .stranded], let s := served (overGet st)
     let ps := s.rangePlaces 1 0x200000 16
     ((s.serviceReads ps).stranded (ps.map (fun p => (0, p.key)))).isSome = decide (st = .stranded) ∧
       (st ≠ .stranded → (s.serviceReads ps).rangeHeld ps = decide (st = .armed)) ∧ s.badCodewords (ps.map Place.key) = [] ∧
       ({ s with bad := [0x8000] } : State).badCodewords (ps.map Place.key) ≠ []) := by
  simp only [State.takes]; decide +kernel
theorem witness_ServiceRequests_preempt :
    (∀ r ∈ [0, 1, 2], served.takes 6 8 (hdr 6 1 8) (bytesLE 4 r ++ bytesLE 4 (2 ^ 32 - 1)) ∧
      field (bytesLE 4 r ++ bytesLE 4 (2 ^ 32 - 1)) 0 4 = r ∧ field (bytesLE 4 r ++ bytesLE 4 (2 ^ 32 - 1)) 4 4 = 2 ^ 32 - 1 ∧
      served.preempting 1 = false ∧ served.groupsOf 1 (2 ^ 32 - 1) = [0] ∧ (served.grp 0).priv = false ∧
      (served.grp 0).status ≠ .starting ∧ (served.grp 0).flight.any Flight.leaving = false ∧ (served.grp 0).skip.head? ≠ some true) := by
  simp only [State.takes]; decide +kernel
theorem witness_ServiceRequests_others :
    (served.takes 7 32 (hdr 7 0 32) (List.replicate 32 0) ∧ (∀ n ∈ [0, 1], served.takes 8 4 (hdr 8 0 4) (bytesLE 4 n) ∧
      field (bytesLE 4 n) 0 4 = n) ∧ (served.rights 1).maintain = true ∧ (∀ n ∈ [0, 2], served.takes 9 12 (hdr 9 0 12) (bytesLE 8 n ++ bytesLE 4 7) ∧
      field (bytesLE 8 n ++ bytesLE 4 7) 0 8 = n)) ∧
    (let x : Xfer := { opc := 4, hdr := hdr 4 1 20, ctx := 1, va := 0x200000, len := 2, got := [], late := [] }
     let s := { served with xfers := [(xferKey 1 7, x)] }
     s.xfers = [(xferKey 1 7, x)] ∧ 1 < x.len ∧ find? s.xfers (xferKey 1 8) = none ∧ (look ({} : Conn) s.conns 1).names 8 = false) ∧
    (look ({} : Conn) ({ served with conns := [(1, { queue := [.put (hdr 4 1 20) (rangeBody 16)] })] } : State).conns 1).names 7 = true ∧
    (let x : Xfer := { opc := 9, hdr := hdr 9 0 12, ctx := 0, va := 0, len := 1, got := [] }
     ∀ w ∈ [none, some (xferKey 1 7, [(5 : Byte)])], let s := { served with xfers := [(xferKey 1 7, x)], writing := w }
     s.xfers = [(xferKey 1 7, x)] ∧ x.opc = 9 ∧ x.len = 1 ∧ x.got = [] ∧ s.booted = true ∧ find? s.xfers (xferKey 1 7) = some x) := by
  simp only [State.takes]; decide +kernel
theorem witness_ServiceRequests_place : ∃ q, served.svcPlace 1 0x200000 = .ok q ∧ q.key = 0x200000 := ok_of (by decide +kernel)

def susp1 : SuspInst := { set := 1, taskix := 0, suspended := [0], images := [], saved := {}, lm := [], full := [] }
theorem witness_ModuleEvents :
    (base.throttleOf 0 < 16 ∧ (let s := { base with cores := (List.range 260).map (fun c => (c, { throttle := 3 })) }
      0 < s.throttleOf 1)) ∧ ((base.core 259).mappedOut = false ∧ base.resv = []) ∧
    (let s := { base with suspd := [(9, susp1)] }
     find? s.suspd 9 = some susp1 ∧ find? s.sets 1 = some set0 ∧ partGroups set0.part = 1 ∧ s.freeTslot 5 = some 0 ∧ susp1.images = [] ∧
       susp1.queues = [] ∧ s.suspBatch susp1 9 = [9] ∧ s.saving susp1 = false ∧ demand set0.part ≤ (s.core 5).free ∧
       s.freeRun 5 (8 * partSpad set0.part) = some 0 ∧ s.fits 5 set0 = true ∧ set0.allows 5 = true ∧
       isSteward 5 = s.isStewardCtx set0.ctx ∧ s.enginesUsed 5 ≤ 16 ∧ (s.freeSlots 5).head? = some 0) := by decide +kernel

def row0 : RowAct := let io := interleave false 0; rowOf io.1 io.2 false
theorem witness_HbmEvents_batch : let reqs : List MemReq := [
      { core := some 3, cls := 2, acts := [⟨511, 63, 12287, false⟩], corrected := 1 },
      { core := some 4, cls := 0, acts := [⟨510, 3, 5, true⟩, ⟨510, 3, 6, false⟩], corrected := 0 },
      { core := some 4, cls := 1, acts := [⟨511, 63, 5, false⟩], corrected := 0 }]
    (base.chan 255).grant = false ∧ (base.chan 255).batch = [] ∧ (base.chan 255).opens = [] ∧ reqs.length ≤ 768 ∧
    (∀ r ∈ reqs, (reqs.filter (fun x => x.core = r.core)).length ≤ 8 ∧ r.core.isSome = true ∧ r.cls < 6 ∧ r.acts ≠ []) ∧
    (∀ r ∈ reqs, ∀ a ∈ r.acts, a.pch / 2 = 255 ∧ a.bank < 64 ∧ a.row < 12288 ∧ (base.pchan a.pch).own = false) ∧
    (reqs.find? (hitsRow [(511 * 64 + 63, 5)])).isSome = true ∧ (∀ x ∈ reqs, hitsRow [] x = false) ∧
    (nextReq [] (0, 0, 0) reqs).isSome = true ∧ (∃ x ∈ reqs, x.cls = 0) ∧ (∀ r ∈ reqs, r.bad = []) ∧ (∀ r ∈ reqs, r.bad = []) ∧ (∀ x ∈ reqs.drop 2, x.cls ≠ 0) ∧ ∃ x ∈ reqs.drop 2, x.cls = 1 := by
  decide +kernel
theorem witness_HbmEvents :
    (let s := { base with pchans := [(511, { owed := [(63, 7)] })] }
     (s.pchan 511).holdsRefresh 63 = false) ∧
    (let s := { base with pchans := [(511, { owed := [(63, 8)] })] }
     (∃ p ∈ [2 * 255, 2 * 255 + 1], ∃ o ∈ (s.pchan p).owed, 8 ≤ o.2) ∧ (s.chan 255).grant = false ∧ (s.chan 255).batch = []) ∧
    (row0.pch < 512 ∧ row0.bank < 64 ∧ row0.row < 12288 ∧ row0.parityFails = false ∧ (base.chan (row0.pch / 2)).grant = false ∧
      (base.pchan row0.pch).own = false ∧ (∀ b ∈ (base.chan (row0.pch / 2)).batch, ¬(b.pch = row0.pch ∧ b.bank = row0.bank ∧ b.row = row0.row)) ∧ (base.pchan row0.pch).hasScrubbed row0 = false ∧ [0].all (inRow row0) = true) ∧
    (let s := { base with pchans := [(511, { own := true, trcmd := 1 })] }
     (s.pchan 511).check = none ∧ (s.pchan 511).own = true ∧
       (s.pchan 511).ctlGood 0x18 (0x8182 : Word64).toNat = true) ∧
    (let s := { base with pchans := [(511, { own := true, check := some ⟨3, 1000⟩ })] }
     (s.pchan 511).check = some ⟨3, 1000⟩ ∧ 1000 ≤ s.cycle ∧ fld (s.pchan 511).lrep.toNat 7 1 = 0) ∧
    ((base.pchan 511).bistctl.getLsbD 0 = false ∧ 3072 ≤ base.freeSlotsOf 255 ∧
      ({ base with chans := [(255, { parked := base.freeSlotsOf 255 - 3071 })] } : State).freeSlotsOf 255 < 3072) ∧
    (let s := { base with pchans := [(511, { bistres := BitVec.ofNat 64 (2 ^ 63), bistctl := BitVec.ofNat 64 (63 * 2 ^ 16 + 2 * 2 + 1) })] }
     (s.pchan 511).bistState = 2) ∧
    (∀ st ∈ [1, 3], ∀ n ∈ [0, 12286, 12287], let s := { base with pchans := [(511, { bistres := BitVec.ofNat 64 (st * 2 ^ 62), copyRow := n })] }
     (s.pchan 511).bistState = st ∧ (s.pchan 511).copyRow = n ∧ (s.chan (511 / 2)).grant = false  ∧
       (({ s with pchans := [(511, { s.pchan 511 with own := true })] } : State).pchan 511).own = true) := by decide +kernel
theorem witness_HbmEvents_own (pch n : Nat) (p : PChan) (h : p.own = false) : let s := { base with pchans := [(511, p)] }
    ((s.pchan pch).own || (s.pchan (s.copyAct pch (s.pchan pch).bistBank n).pch).own) = false := by
  have each : ∀ q, (({ base with pchans := [(511, p)] } : State).pchan q).own = false := by
    intro q
    simp only [State.pchan, look, find?]
    split <;> first | exact h | rfl
  simp only [each, Bool.or_self]
theorem witness_HbmEvents_copies : ∀ st ∈ [0, 1, 2, 3],
    let p : PChan := { bistres := BitVec.ofNat 64 (st * 2 ^ 62), bistctl := BitVec.ofNat 64 (63 * 2 ^ 16), copyRow := 6000 }
    63 ∉ p.retired ∧ p.bistBank = 63 ∧ p.bistState = st ∧ p.inCopy 63 5999 = decide (st ∈ [1, 2]) ∧
    p.inCopy 63 6000 = decide (st ∈ [2, 3]) ∧ p.inCopy 62 0 = false := by decide +kernel

def round1 : Round := { key := 0x200000, mset := 1, parts := [(0, 0x3F800000)], start := 1000, launch := some 1 }
theorem witness_FabricEvents :
    (let f := base.mkFlit 0 0 0 [1, 2]
     (base.port 17).step ≠ 3 ∧ f.length = 128 ∧ flitGood f = true ∧ flitSeq f = (base.port 17).rxSeq ∧ flitVc f ≠ 1 ∧
       (List.replicate 128 (0 : Byte)).length = 128 ∧ flitGood (List.replicate 128 0) = false) ∧
    (∀ n ∈ [7, 8], let s := { base with ports := [(17, { kept := [(5, [])], failed := [(4, 3), (5, n)], step := 2 })] }
     (s.port 17).step ≠ 3 ∧ (s.port 17).kept.any (fun k => k.1 = 5) = true ∧ look 0 (s.port 17).failed 5 = n) ∧
    (∀ ps ∈ [[], round1.parts], let s := { base with rounds := [(1, { round1 with parts := ps })], msets := [(1, [0, 3])], cycle := 181000 }
     s.rounds = [(1, { round1 with parts := ps })] ∧ s.keyHeld round1.key = false ∧ s.keyHeld round1.key = false ∧ look [] s.msets round1.mset = [s.device, 3] ∧ 3 ≠ s.device ∧
       round1.start + 180000 ≤ s.cycle ∧ round1.parts = [(s.device, 0x3F800000)]) ∧ base.cycle < round1.start + 180000 := by decide +kernel

/-! ### The further cases of some statements -/

theorem witness_Divergence_traps : (stacked 2 0).canIssue (.brx 1 4) ∧
    (let s := stacked 1 0
     s.canIssue (.brx 2 4) ∧ s.me.depth ≠ s.me.limit ∧ s.me.em ≠ 0 ∧ (s.me.lanesOf s.me.em).head? = some 0 ∧
       (s.me.pc + BitVec.ofInt 64 (4 * (s.unitOf (.brx 2 4)).imm 19 (4 : BitVec 19).toNat) + (s.me.vreg 2 0).signExtend 64) &&& 3 ≠ 0) ∧
    (∀ ctl ∈ [1 + 2 * 256, 2, 8, 1 + 20 * 256], let s := onG (fun g => { g with blocks := 1 }) (stacked 1 ctl)
     s.canIssue .merge ∧ s.me.depth ≠ 0 ∧
     (match s.stackAccess (s.unitOf .merge) (s.me.depth - 1) true with
      | .ok (t, at_) =>
        let w := t.stackWord at_ 3
        if ctl = 1 + 2 * 256 then
          decide (ctlMalformed w = false ∧ ctlKind w = 1 ∧ ctlVa w = 2 ∧ 2 < s.me.vcount ∧
            (s.me.lanesOf (t.stackWord at_ 1 &&& s.me.lanesMask)).head? = some 1 ∧
            (t.stackWord at_ 0 + (s.me.vreg 2 1).signExtend 64) &&& 3 ≠ 0)
        else decide (ctlMalformed w = true ∨ (ctlKind w = 1 ∧ t.stackWord at_ 1 &&& s.me.lanesMask ≠ 0 ∧ s.me.vcount ≤ ctlVa w))
      | .error _ => false) = true) := by
  simp only [State.canIssue, State.groupRuns]; decide +kernel
theorem witness_LocalAddresses_causes :
    let bad := fun (self : Bool) (y : Nat × Nat) =>
      (base.localPlace 0 (base.inst (instKey 0 (base.grp 0))) y.2).isNone || (self && decide (y.2 / 2 ^ 27 ≠ 1))
    [(0, 2 ^ 27), (1, 4096)].find? (bad true) = some (1, 4096) ∧ [(0, 2 ^ 27), (1, 4096)].find? (bad false) = none ∧
    [(0, 2 ^ 27), (1, 2 ^ 27 + 2)].find? (bad true) = none ∧
    [(0, 2 ^ 27), (1, 2 ^ 27 + 2)].find? (fun y : Nat × Nat => y.2 % 4 ≠ 0) = some (1, 2 ^ 27 + 2) ∧
    (∃ c, base.resolveLocal (base.unitOf (.ldlTouch 3 1 false)) 0 4 false false [(1, 2 ^ 27 + 2)] = .error c ∧ c.code = 4) :=
  ⟨by decide +kernel, by decide +kernel, by decide +kernel, by decide +kernel, err_of (by decide +kernel)⟩

/-- A generator of each kind, in each of the wide formats, in the byte formats and in a binary8 format; NaN and infinite scales. -/
def genIn (kind : BitVec 4) (fmt : Byte) (scale : Word32) : Gen := { kind := kind, outfmt := fmt, scale := scale }
theorem witness_Generators_kinds :
    (∀ k ∈ [(0 : BitVec 4), 1, 2, 3], (genIn k 0 0x3F800000).kind = k ∧ (genIn k 0 0).param0.toNat ≤ 3) ∧
    (genIn 3 0 0).param2.toInt = 0 ∧
    (∀ x ∈ [((0 : Byte), f32), (1, bf16), (2, f16)], (genIn 0 x.1 0).outfmt = x.1 ∧
      (((genIn 0 x.1 0x7FC00000).exact 0 0).mul (f32.toNum 0x7FC00000)).1.isNan = true ∧
      (((genIn 0 x.1 0x7F800000).exact 0 0).mul (f32.toNum 0x7F800000)).1 = .inf false) ∧
    (b8Of 0x64).isSome = true ∧ 4 < (0x64 : Byte).toNat := by decide +kernel
theorem witness_Generators_fin : ∃ m e, (((genIn 0 0 0x3F800000).exact 0 0).mul (f32.toNum 0x3F800000)).1 = .fin false m e :=
  ⟨_, _, rfl⟩

theorem witness_Windows_marks : ∀ st ∈ [WState.armed, .landing, .stranded], ∀ n ∈ [16, 17, 48],
    let s := onG (fun g => { g with s := put g.s 2 (BitVec.ofNat 64 n) }) (bound st)
    let w := look {} s.myInst.wins (1 : WReg).val
    s.canIssue (.wwaitMark 1 2) ∧ w.state = st ∧ (s.me.sreg 2).toNat ≤ w.total ∧ w.mark ≤ w.total ∧
    decide ((s.me.sreg 2).toNat ≤ w.mark) = decide (n = 16) := by
  simp only [State.canIssue, State.groupRuns]; decide +kernel
theorem witness_Windows_release : ∀ i ∈ [Instr.wwait 1, .wwaitMark 1 2],
    let s := waiting i (.mark false) (bound .landing)
    let u := waiter i (.mark false)
    (s.grp 0).flight = [u] ∧ u.awaits 1 = true ∧ u.awaits 0 = false ∧
    s.groups.filter (fun x => x.2.live && decide (instKey x.1 x.2 = 0)) = [(0, s.grp 0)] := by decide +kernel

/-- A second group on the core that waits at its QPOP. -/
def besideQueue : State := let s := queued 5 0
  { s with groups := [(0, group0), (1, { group0 with pc := 0x10004, flight := [waiter (.qpop 2 3) .queue] })] }
theorem witness_Queues_older : let s := besideQueue
    let v := waiter (.qpop 2 3) .queue
    s.canIssue (.qpop 4 3) ∧ s.queueAhead s.cur 3 (s.unitOf (.qpop 4 3)) = [(1, v)] ∧ coreOf 1 = s.here ∧ 1 ≠ s.cur ∧
    (s.grp 1).incomplete.find? (fun x => x.first = v.first) = some v ∧ s.sramBad = [] ∧ 0 < qCount (look 0 (s.core s.here).qcfg 3) ∧
    (match ({ s with cur := 1 } : State).ring365 s.here 3 v with
     | .ok b => decide (b = 4096)
     | .error _ => false) = true ∧
    (match ({ s with cur := 1 } : State).itemAccess 4096 with
     | .ok _ => true
     | .error _ => false) = true := by
  simp only [State.canIssue, State.groupRuns]; decide +kernel

theorem witness_CommitAndWaitx_log : ∀ sc ∈ [1, 2, 3], let s := onC fun c => { c with log := [.rcd 0 rec1 1] }
    s.canIssue (.commit sc) ∧ isSteward s.here = false ∧ s.commits = [] ∧ s.farCommits = [] ∧ s.units = [] ∧
    (s.core s.here).log = [.rcd s.device rec1 1] ∧ rec1.omod = s.device ∧ rec1.origin / 2 = s.here * 8 + s.me.stream := by
  simp only [State.canIssue, State.groupRuns]; decide +kernel
theorem witness_CommitAndWaitx_quiet : base.quiet ∧ onSteward.quiet := by simp only [State.quiet]; decide +kernel
theorem find?_mem {α : Type} {m : SMap α} {k : Nat} {v : α} (h : find? m k = some v) : (k, v) ∈ m := by
  induction m with
  | nil => cases h
  | cons x t ih =>
    simp only [find?] at h
    split at h
    · next e => cases h; exact List.mem_cons.2 (.inl (by rw [← e]))
    · exact List.mem_cons.2 (.inr (ih h))
theorem witness_CommitAndWaitx_streams (c : Nat) : (base.core c).prevGraphs = [] ∧ (base.core c).prevOverflow = [] := by
  have all : ∀ x ∈ base.cores, x.2.prevGraphs = [] ∧ x.2.prevOverflow = [] := by decide +kernel
  cases h : find? base.cores c with
  | none => simp [State.core, look, h]
  | some v => simpa [State.core, look, h] using all _ (find?_mem h)

theorem witness_StoreEvents_refused : let e : StoreEntry := { store1 0 with va := 0x200000, entered := 900 }
    let s := onC (fun c => { c with stores := [e, { e with key := 0x300000 }, store1 0] }) (overGet .stranded)
    (s.core 0).stores = e :: [{ e with key := 0x300000 }, store1 0] ∧ s.siblingWaits 0 0 e = false ∧ s.pins = [] ∧ s.refusals = [] ∧
    e.key / 2 ^ 52 = s.device ∧ (s.stranded [(e.va, e.key)]).isSome = true ∧ e.grp ≠ noGroup ∧ s.takesRefusal e.grp = true ∧
    (s.grp e.grp).skip.head? ≠ some true := by decide +kernel
theorem witness_StoreEvents_others : (∀ home ∈ [3, 287], home ≠ base.device ∧ home < 288) ∧ (∀ pa ∈ [0, 2 ^ 52 - 4],
      pa < 2 ^ 52 ∧ pa % 16 + [(1 : Byte), 2, 3, 4].length ≤ 16) ∧
    (∀ line ∈ [0, 0x4000], 3 ≠ base.device ∧ line * 128 / 2 ^ 52 = base.device) := by decide +kernel

theorem witness_ServiceRequests_data : dataHeader 7 2 = bytesLE 8 ((7 : Word32).setWidth 64 : Word64).toNat ++ bytesLE 8 2 ∧
    2 ^ 32 ≤ (0x100000000 : Word64).toNat := by decide +kernel
/-- Every pseudo-channel is with software: the page tables cannot be read. -/
def trained : State := { served with pchans := (List.range 512).map (fun p => (p, { own := true })) }
theorem witness_ServiceRequests_late : let x : Xfer := { opc := 4, hdr := hdr 4 1 20, ctx := 1, va := 0x200000, len := 2, got := [], late := [] }
    let s := { trained with xfers := [(xferKey 1 7, x)] }
    s.xfers = [(xferKey 1 7, x)] ∧ x.opc = 4 ∧ 1 < x.len ∧ (match s.svcPlace x.ctx x.va with
      | .ok _ => false
      | .error c => decide (c = 0)) = true := by decide +kernel

theorem witness_FabricEvents_nak : let s := { base with ports := [(17, { rxSeq := 2, kept := [(5, [])] })] }
    let f := s.mkFlit 3 2 0 (bytesLE 2 5)
    flitGood f = true ∧ flitSeq f = (s.port 17).rxSeq ∧ flitVc f ≠ 1 ∧ flitVc f = 3 ∧ flitDest f = s.device ∧ field f 10 1 = 0 ∧
    (s.port 17).kept.any (fun k => k.1 = field f 8 2) = true ∧ (s.port 17).step ≠ 3 := by decide +kernel
theorem witness_FloatArithmetic_prefix : ∀ x ∈ [(0, 0), (7, 3), (5, 2)],
    let s := withPfx 2 (x.1 * 2 ^ 10 + x.2 * 2 ^ 8)
    s.me.pfx = [{ addr := 0xFFFC, word := (0x06#8 ++ 0#3 ++ 0#4 ++ 0#2 ++ 0#2 ++ BitVec.ofNat 3 x.1 ++ BitVec.ofNat 2 x.2 ++ 0#8 : BitVec 32) }] ∧
    (s.unitOf (.faddF32 1 2 (.vec 3))).neg = x.1 ∧ (s.unitOf (.faddF32 1 2 (.vec 3))).abs = x.2 := by decide +kernel
theorem witness_ringByte : ¬ base.ringByte 0 := by
  rintro ⟨b, h, -⟩
  cases h
end Sys2Proof.Tests
end

section
/-! PROOFS. The execution mask (R29): what EMGET, EMSET and MERGE do to EM, with the equations of the divergence stack's access
that they rest on. -/

namespace Sys2Proof.Machine
open Sys2Proof

/-! ## What exec does with the instructions of the mask -/

theorem exec_emget (d : SReg) (s : State) : exec (.emget d) s = execEmget d s := rfl
theorem exec_emset (a : SReg) (s : State) : exec (.emset a) s = execEmset a s := rfl
theorem exec_merge (s : State) : exec .merge s = issue .merge runMerge s := rfl

/-! ## The acting group of a completed unit -/

/-- The acting group of a completed unit, where its effect keeps which group acts. -/
theorem State.completed_me (s t : State) (i : Instr) (h : t.cur = s.cur) :
    (s.completed i t).me = t.me.advance (s.unitOf i) s.cycle ((s.unitOf i).pc + 4) true := by
  simp only [State.me, State.completed_cur, h, State.completed_grp]

/-- The same for a unit that goes on at `pc`. -/
theorem State.completedAt_me (s t : State) (i : Instr) (pc : Word64) (h : t.cur = s.cur) :
    (s.completedAt i t pc).me = t.me.advance (s.unitOf i) s.cycle pc true := by
  have hcur : (s.completedAt i t pc).cur = s.cur := h
  simp only [State.me, hcur, h, State.completedAt_grp]

@[simp] theorem State.onMe_cur (s : State) (f : Group → Group) : (s.onMe f).cur = s.cur := rfl
@[simp] theorem State.onMe_me (s : State) (f : Group → Group) : (s.onMe f).me = f s.me := State.grp_onGrp_same s s.cur f

@[simp] theorem Group.advance_em (g : Group) (u : Flight) (cycle : Nat) (pc : Word64) (done : Bool) :
    (g.advance u cycle pc done).em = g.em := rfl
@[simp] theorem Group.advance_dsb (g : Group) (u : Flight) (cycle : Nat) (pc : Word64) (done : Bool) :
    (g.advance u cycle pc done).dsb = g.dsb := rfl
@[simp] theorem Group.advance_dsd (g : Group) (u : Flight) (cycle : Nat) (pc : Word64) (done : Bool) :
    (g.advance u cycle pc done).dsd = g.dsd := rfl

/-- The width mask has the bits below the width (R26). -/
theorem Group.getLsbD_lanesMask (g : Group) (k : Nat) :
    g.lanesMask.getLsbD k = (decide (k < 64) && decide (k < g.width)) := by
  rw [Group.lanesMask, BitVec.getLsbD_ofNat, Nat.testBit_two_pow_sub_one]

/-- A mask within the width: a scalar's bits below it, and no other. -/
theorem Group.getLsbD_and_lanesMask (g : Group) (w : Word64) (k : Nat) :
    (w &&& g.lanesMask).getLsbD k = (decide (k < g.width) && w.getLsbD k) := by
  rw [BitVec.getLsbD_and, Group.getLsbD_lanesMask]
  by_cases hk : k < 64
  · simp [hk, Bool.and_comm]
  · simp [BitVec.getLsbD_of_ge w k (by omega)]

/-! ## What a local access that may act leaves -/

/-- A part of the state that no change of a window touches is as it was after a first touch (R119). -/
theorem State.touch_keeps {β : Type} (part : State → β)
    (h : ∀ (t : State) (k n : Nat) (f : Window → Window), part (t.onWin k n f) = part t) (s : State) (ks : List Nat) :
    part (s.touch ks) = part s := by
  have start_keeps : ∀ (cs : List Cover) (t : State),
      part (cs.foldl (fun t c => if c.w.state = .armed then t.onWin c.inst c.win Window.start else t) t) = part t := by
    intro cs
    induction cs with
    | nil => intro t; rfl
    | cons c cs ih =>
      intro t
      rw [List.foldl_cons, ih]
      split
      · exact h ..
      · rfl
  induction ks generalizing s with
  | nil => rfl
  | cons k ks ih => rw [State.touch, ih, start_keeps]

@[simp] theorem State.touch_groups (s : State) (ks : List Nat) : (s.touch ks).groups = s.groups :=
  State.touch_keeps State.groups (fun _ _ _ _ => rfl) s ks
@[simp] theorem State.touch_cur (s : State) (ks : List Nat) : (s.touch ks).cur = s.cur :=
  State.touch_keeps State.cur (fun _ _ _ _ => rfl) s ks
@[simp] theorem State.touch_me (s : State) (ks : List Nat) : (s.touch ks).me = s.me := by
  simp only [State.me, State.grp, State.touch_groups, State.touch_cur]

/-- A local access that may act has touched the windows over its bytes, and nothing else. -/
theorem State.localAccess_ok {s t : State} {u : Flight} {k n : Nat} {self write : Bool} {ls : List (Nat × Nat)}
    {xs : List LLane} (h : s.localAccess u k n self write ls = .ok (t, xs)) :
    t = s.touch (xs.flatMap (fun x => granuleKeys (localKey x.at_) n)) := by
  dsimp only [State.localAccess] at h
  repeat' split at h
  all_goals cases h
  rfl

/-- An access to the divergence stack that may act has touched windows, and nothing else. -/
theorem State.stackAccess_ok {s t : State} {u : Flight} {idx at_ : Nat} {write : Bool}
    (h : s.stackAccess u idx write = .ok (t, at_)) : ∃ ks, t = s.touch ks := by
  dsimp only [State.stackAccess] at h
  split at h
  · cases h
  · next e => cases h; exact ⟨_, State.localAccess_ok e⟩

/-! ## MERGE of an entry that is popped -/

/-- MERGE pops an entry that is not of BRX, or is of BRX with no lane left, and puts back its OUTER within the width (R34). -/
theorem runMerge_pop {s t : State} {u : Flight} {at_ : Nat} (hd : s.me.depth ≠ 0)
    (ha : s.stackAccess u (s.me.depth - 1) true = .ok (t, at_)) (hw : ctlMalformed (t.stackWord at_ 3) = false)
    (hk : ¬(ctlKind (t.stackWord at_ 3) = 1 ∧ t.stackWord at_ 1 &&& s.me.lanesMask ≠ 0)) :
    runMerge u s = .jump (t.onMe (fun g =>
      { g.setDepth (g.depth - 1) with em := t.stackWord at_ 2 &&& g.lanesMask })) (u.pc + 4) := by
  simp only [runMerge, ha, hw, if_neg hd, if_neg hk, Bool.false_eq_true, if_false]

/-! ## EMGET and EMSET -/

theorem completes_emget (d : SReg) : Completes (.emget d) (fun s => s.withS d s.me.em) := by
  intro s h
  rw [exec_emget, execEmget]
  exact issue_done h rfl

theorem completes_emset (a : SReg) :
    Completes (.emset a) (fun s => s.onMe (fun g => { g with em := g.sreg a &&& g.lanesMask })) := by
  intro s h
  rw [exec_emset, execEmset]
  exact issue_done h rfl

/-- EMSET sets EM alone, to the scalar's bits within the width: not the stack's registers, and no memory. -/
theorem exec_emset_frame (a : SReg) (s : State) (h : s.canIssue (.emset a)) :
    ∃ t, exec (.emset a) s = .next t ∧ t.me.dsb = s.me.dsb ∧ t.me.dsd = s.me.dsd ∧ t.lm = s.lm ∧ t.mem = s.mem ∧
      ∀ k, t.me.em.getLsbD k = (decide (k < s.me.width) && (s.me.sreg a).getLsbD k) := by
  refine ⟨_, completes_emset a s h, ?_⟩
  rw [State.completed_me _ _ _ (State.onMe_cur ..), State.onMe_me]
  exact ⟨rfl, rfl, rfl, rfl, Group.getLsbD_and_lanesMask s.me (s.me.sreg a)⟩

/-- A MERGE of an entry that is not of BRX leaves in EM the entry's OUTER, within the width of the group (R34). -/
theorem exec_merge_em {s t : State} {at_ : Nat} (h : s.canIssue .merge) (hd : s.me.depth ≠ 0)
    (ha : s.stackAccess (s.unitOf .merge) (s.me.depth - 1) true = .ok (t, at_))
    (hw : ctlMalformed (t.stackWord at_ 3) = false) (hk : ctlKind (t.stackWord at_ 3) ≠ 1) :
    ∃ t', exec .merge s = .next t' ∧ t'.me.em = t.stackWord at_ 2 &&& s.me.lanesMask := by
  obtain ⟨ks, ht⟩ := State.stackAccess_ok ha
  have hcur : t.cur = s.cur := by rw [ht, State.touch_cur]
  have hme : t.me = s.me := by rw [ht, State.touch_me]
  rw [exec_merge]
  refine ⟨_, issue_jump h (runMerge_pop hd ha hw (fun hbrx => hk hbrx.1)), ?_⟩
  rw [State.completedAt_me _ _ _ _ ((State.onMe_cur ..).trans hcur), Group.advance_em, State.onMe_me, hme]

/-- Settles O21: EMGET and EMSET complete with what R29 gives, and a MERGE takes its mask from the entry, not from EM. -/
theorem emAccess : Obligations.EmAccess := by
  unfold Obligations.EmAccess
  exact ⟨completes_emget, completes_emset, exec_emset_frame,
    fun _ _ _ _ h hd ha hw hk _ => exec_merge_em h hd ha hw hk⟩

end Sys2Proof.Machine
end

section
/-! PROOFS. Division (R64): the words that `divide` gives, as the rule words them, and what SDIV, SREM, VDIV and VREM do with
them. -/

namespace Sys2Proof.Machine
open Sys2Proof

/-! ## Changes of the acting group -/

theorem State.onMe_onMe (s : State) (f g : Group → Group) : (s.onMe f).onMe g = s.onMe (fun x => g (f x)) :=
  State.onGrp_onGrp s s.cur f g

/-- A change of the acting group is given by what it makes of that group. -/
theorem State.onMe_congr {s : State} {f g : Group → Group} (h : f s.me = g s.me) : s.onMe f = s.onMe g :=
  congrArg (s.setGrp s.cur) h

@[simp] theorem Group.raise_none (g : Group) : g.raise {} = g := by
  simp [Group.raise]

@[simp] theorem State.withS_withFlags_none (s : State) (d : SReg) (x : Word64) :
    (s.withS d x).withFlags {} = s.withS d x := by
  simp only [State.withS, State.withFlags, State.onMe_onMe, Group.raise_none]

@[simp] theorem State.withV_withFlags_none (s : State) (i : Instr) (d : VReg) (f : Nat → Word32) :
    (s.withV i d f).withFlags {} = s.withV i d f := by
  simp only [State.withV, State.withFlags, State.onMe_onMe, Group.raise_none]

/-- An effect may be said in other words where `p` holds. -/
theorem Completes.when {i : Instr} {p : State → Prop} {t t' : State → State} (h : Completes i t)
    (e : ∀ s, p s → t s = t' s) : CompletesWhen i p t' :=
  fun s hs hp => e s hp ▸ h s hs

/-! ## Quotient, remainder and flags -/

section
variable {w : Nat} (a b : BitVec w)

/-- Signed division (R64): the truncated quotient and its remainder, modulo 2^w, so that the most negative value divided by −1
wraps to itself. -/
theorem divide_signed : divide false a b =
    if b = 0 then (BitVec.allOnes w, a, { dz := true })
    else (BitVec.ofInt w (Int.tdiv a.toInt b.toInt), BitVec.ofInt w (Int.tmod a.toInt b.toInt), {}) := by
  have hq : a.sdiv b = BitVec.ofInt w (Int.tdiv a.toInt b.toInt) :=
    BitVec.eq_of_toInt_eq (by rw [BitVec.toInt_sdiv, BitVec.toInt_ofInt])
  have hr : a.srem b = BitVec.ofInt w (Int.tmod a.toInt b.toInt) := by rw [← BitVec.toInt_srem, BitVec.ofInt_toInt]
  rw [divide, if_neg Bool.false_ne_true, hq, hr]

theorem divide_unsigned : divide true a b =
    if b = 0 then (BitVec.allOnes w, a, { dz := true })
    else (BitVec.ofNat w (a.toNat / b.toNat), BitVec.ofNat w (a.toNat % b.toNat), {}) := by
  have hr : a % b = BitVec.ofNat w (a.toNat % b.toNat) := by
    rw [← BitVec.toNat_umod, BitVec.ofNat_toNat, BitVec.setWidth_eq]
  rw [divide, if_pos rfl, BitVec.udiv_def, hr]

theorem divide_signed_quotient : (divide false a b).1 =
    if b = 0 then BitVec.allOnes w else BitVec.ofInt w (Int.tdiv a.toInt b.toInt) := by
  rw [divide_signed, apply_ite Prod.fst]

theorem divide_signed_remainder : (divide false a b).2.1 =
    if b = 0 then a else BitVec.ofInt w (Int.tmod a.toInt b.toInt) := by
  rw [divide_signed, apply_ite (fun r : BitVec w × BitVec w × Flags => r.2.1)]

theorem divide_unsigned_quotient : (divide true a b).1 =
    if b = 0 then BitVec.allOnes w else BitVec.ofNat w (a.toNat / b.toNat) := by
  rw [divide_unsigned, apply_ite Prod.fst]

theorem divide_unsigned_remainder : (divide true a b).2.1 =
    if b = 0 then a else BitVec.ofNat w (a.toNat % b.toNat) := by
  rw [divide_unsigned, apply_ite (fun r : BitVec w × BitVec w × Flags => r.2.1)]

/-- A division raises DZ for a zero divisor, and no other flag. -/
theorem divide_flags (uns : Bool) : (divide uns a b).2.2 = if b = 0 then { dz := true } else {} := by
  cases uns with
  | false => rw [divide_signed, apply_ite (fun r : BitVec w × BitVec w × Flags => r.2.2)]
  | true => rw [divide_unsigned, apply_ite (fun r : BitVec w × BitVec w × Flags => r.2.2)]

end

/-! ## SDIV and SREM -/

section
variable {d a b : SReg} {uns : Bool} {pick : Word64 × Word64 × Flags → Word64} {i : Instr}

/-- A scalar division writes what it picks of the quotient and the remainder, and raises the division's flags. -/
theorem completes_of_scalarDivide (hi : ∀ s, exec i s = issue i (scalarDivide d a b uns pick) s) :
    Completes i (fun s => (s.withS d (pick (divide uns (s.me.sreg a) (s.me.sreg b)))).withFlags
      (divide uns (s.me.sreg a) (s.me.sreg b)).2.2) := by
  intro s h
  have heffect : scalarDivide d a b uns pick (s.unitOf i) s =
      .done ((s.withS d (pick (divide uns (s.me.sreg a) (s.me.sreg b)))).withFlags
        (divide uns (s.me.sreg a) (s.me.sreg b)).2.2) := by
    rw [State.withS, State.withFlags, State.onMe_onMe]
    rfl
  exact (hi s).trans (issue_done h heffect)

/-- With a zero divisor DZ is raised, once. -/
theorem completesWhen_scalarDivide_zero (hi : ∀ s, exec i s = issue i (scalarDivide d a b uns pick) s)
    {r : Word64 → Word64} (hr : ∀ x, pick (divide uns x 0) = r x) :
    CompletesWhen i (fun s => s.me.sreg b = 0) (fun s => (s.withS d (r (s.me.sreg a))).withFlags { dz := true }) :=
  (completes_of_scalarDivide hi).when fun s hb => by rw [hb, hr, divide_flags, if_pos rfl]

/-- With another divisor no flag is raised. -/
theorem completesWhen_scalarDivide_ne_zero (hi : ∀ s, exec i s = issue i (scalarDivide d a b uns pick) s)
    {p : State → Prop} (hp : ∀ s, p s → s.me.sreg b ≠ 0) {r : State → Word64}
    (hr : ∀ s, p s → pick (divide uns (s.me.sreg a) (s.me.sreg b)) = r s) :
    CompletesWhen i p (fun s => s.withS d (r s)) :=
  (completes_of_scalarDivide hi).when fun s hs => by
    rw [hr s hs, divide_flags, if_neg (hp s hs), State.withS_withFlags_none]

end

theorem exec_sdiv (d a b : SReg) (uns : Bool) (s : State) :
    exec (.sdiv d a b uns) s = issue (.sdiv d a b uns) (scalarDivide d a b uns (fun r => r.1)) s := rfl
theorem exec_srem (d a b : SReg) (uns : Bool) (s : State) :
    exec (.srem d a b uns) s = issue (.srem d a b uns) (scalarDivide d a b uns (fun r => r.2.1)) s := rfl

theorem divide_zero_quotient (uns : Bool) (x : Word64) : (divide uns x 0).1 = 0xFFFFFFFFFFFFFFFF := rfl
theorem divide_zero_remainder (uns : Bool) (x : Word64) : (divide uns x 0).2.1 = x := rfl

/-- The most negative scalar divided by −1: itself, with remainder 0 (R64). -/
theorem divide_signed_overflow : divide false (0x8000000000000000 : Word64) 0xFFFFFFFFFFFFFFFF =
    (0x8000000000000000, 0, {}) := by decide

/-! ## VDIV and VREM -/

@[simp] theorem Flags.or_none (f : Flags) : f.or {} = f := by simp [Flags.or]
theorem Flags.or_assoc (f g h : Flags) : (f.or g).or h = f.or (g.or h) := by simp [Flags.or, Bool.or_assoc]
@[simp] theorem Flags.none_or (f : Flags) : Flags.or {} f = f := by simp [Flags.or]

/-- The flags of a list of lanes: those of the first, and those of the rest. -/
theorem orFlags_cons (f : Nat → Flags) (k : Nat) (ks : List Nat) : orFlags f (k :: ks) = (f k).or (orFlags f ks) := by
  have start_or : ∀ (ks : List Nat) (x : Flags), ks.foldl (fun a i => a.or (f i)) x = x.or (orFlags f ks) := by
    intro ks
    induction ks with
    | nil => intro x; exact (Flags.or_none x).symm
    | cons k ks ih => intro x; rw [orFlags, List.foldl_cons, List.foldl_cons, ih, ih, Flags.none_or, Flags.or_assoc]
  rw [orFlags, List.foldl_cons, start_or, Flags.none_or]

/-- Lanes that raise one set of flags where `p` holds, and none elsewhere, raise it together where `p` holds of one. -/
theorem orFlags_ite (p : Nat → Prop) [DecidablePred p] (x : Flags) (hx : x.or x = x) (ks : List Nat) :
    orFlags (fun k => if p k then x else {}) ks = if ∃ k ∈ ks, p k then x else {} := by
  induction ks with
  | nil => simp [orFlags]
  | cons k ks ih =>
    rw [orFlags_cons, ih]
    by_cases hk : p k
    · by_cases hks : ∃ j ∈ ks, p j <;> simp [hk, hks, hx]
    · simp [hk]

/-- A vector division writes what it picks of each active lane's quotient and remainder, and raises DZ where an active lane
divides by zero. -/
theorem completes_of_vectorDivide {d a : VReg} {b : VSrc} {uns : Bool} {pick : Word32 × Word32 × Flags → Word32} {i : Instr}
    (hi : ∀ s, exec i s = issue i (vectorDivide d a b uns pick) s) {r : State → Nat → Word32}
    (hr : ∀ s k, pick (divide uns (s.me.vreg a k) (srcVal b s.me k)) = r s k) :
    Completes i (fun s =>
      if ∃ k ∈ s.lanesOf i, srcVal b s.me k = 0 then (s.withV i d (r s)).withFlags { dz := true } else s.withV i d (r s)) := by
  intro s h
  have hflags : orFlags (fun k => (divide uns (s.me.vreg a k) (srcVal b s.me k)).2.2) (s.lanesOf i) =
      if ∃ k ∈ s.lanesOf i, srcVal b s.me k = 0 then { dz := true } else {} := by
    simp only [divide_flags]
    exact orFlags_ite _ _ rfl _
  have heffect : vectorDivide d a b uns pick (s.unitOf i) s =
      .done ((s.withV i d (r s)).withFlags
        (orFlags (fun k => (divide uns (s.me.vreg a k) (srcVal b s.me k)).2.2) (s.lanesOf i))) := by
    rw [← funext (hr s), State.withV, State.withFlags, State.onMe_onMe]
    rfl
  refine (hi s).trans (issue_done h ?_)
  rw [heffect, hflags, apply_ite (s.withV i d (r s)).withFlags, State.withV_withFlags_none]

theorem exec_vdivI32 (d a : VReg) (b : VSrc) (s : State) :
    exec (.vdivI32 d a b) s = issue (.vdivI32 d a b) (vectorDivide d a b false (fun r => r.1)) s := rfl
theorem exec_vdivN32 (d a : VReg) (b : VSrc) (s : State) :
    exec (.vdivN32 d a b) s = issue (.vdivN32 d a b) (vectorDivide d a b true (fun r => r.1)) s := rfl
theorem exec_vremI32 (d a : VReg) (b : VSrc) (s : State) :
    exec (.vremI32 d a b) s = issue (.vremI32 d a b) (vectorDivide d a b false (fun r => r.2.1)) s := rfl
theorem exec_vremN32 (d a : VReg) (b : VSrc) (s : State) :
    exec (.vremN32 d a b) s = issue (.vremN32 d a b) (vectorDivide d a b true (fun r => r.2.1)) s := rfl

/-! ## The words of VDIV and VREM -/

theorem vsrc_code_lt (b : VSrc) : b.code < 256 := by
  cases b with
  | vec r => have := r.isLt; simp only [VSrc.code]; omega
  | sca r => have := r.isLt; simp only [VSrc.code]; omega

/-- A word of the V form has its major opcode in bits 31 to 26 and its function in bits 25 to 22 (R284). -/
theorem vWord_fields (major : Nat) {fn : Nat} (hf : fn < 16) (d a : VReg) (b : VSrc) :
    let w := BitVec.ofNat 32 (major * 2 ^ 26 + fn * 2 ^ 22 + d.val * 32768 + a.val * 256 + b.code)
    w.extractLsb' 26 6 = BitVec.ofNat 6 major ∧ w.extractLsb' 22 4 = BitVec.ofNat 4 fn := by
  have hd := d.isLt
  have ha := a.isLt
  have hb := vsrc_code_lt b
  constructor <;>
  · apply BitVec.eq_of_toNat_eq
    rw [BitVec.extractLsb'_toNat, BitVec.toNat_ofNat, BitVec.toNat_ofNat, Nat.shiftRight_eq_div_pow]
    omega

theorem vectorDivision_words (d a : VReg) (b : VSrc) :
    ∀ x ∈ [(Instr.vdivI32 d a b, 0), (.vdivN32 d a b, 1), (.vremI32 d a b, 2), (.vremN32 d a b, 3)],
      ∃ w, encode x.1 = some w ∧ w.extractLsb' 26 6 = 0x13 ∧ w.extractLsb' 22 4 = BitVec.ofNat 4 x.2 := by
  have word (fn : Nat) (hf : fn < 16) := vWord_fields 0x13 hf d a b
  simp only [List.forall_mem_cons]
  exact ⟨⟨_, rfl, word 0 (by decide)⟩, ⟨_, rfl, word 1 (by decide)⟩, ⟨_, rfl, word 2 (by decide)⟩,
    ⟨_, rfl, word 3 (by decide)⟩, List.forall_mem_nil _⟩

/-! ## R64 for every division -/

theorem tmod_eq_sub_tdiv_mul (a b : Int) : Int.tmod a b = a - Int.tdiv a b * b := by
  rw [Int.tmod_def, Int.mul_comm]

/-- Settles O15: each division is `divide` of its operands, whose quotient, remainder and flags are those of R64. -/
theorem division : Obligations.Division := by
  unfold Obligations.Division
  have allOnes_ne_zero : (0xFFFFFFFFFFFFFFFF : Word64) ≠ 0 := by decide
  refine ⟨fun d a b => ⟨?_, ?_, ?_, ?_, ?_, ?_, ?_, ?_⟩, fun d a b => ⟨?_, ?_, ?_, ?_⟩, tmod_eq_sub_tdiv_mul, by decide,
    vectorDivision_words⟩
  · exact fun u => completesWhen_scalarDivide_zero (exec_sdiv d a b u) (divide_zero_quotient u)
  · exact fun u => completesWhen_scalarDivide_zero (exec_srem d a b u) (divide_zero_remainder u)
  · exact completesWhen_scalarDivide_ne_zero (exec_sdiv d a b false) (fun _ hb => hb)
      (fun _ hb => (divide_signed_quotient _ _).trans (if_neg hb))
  · exact completesWhen_scalarDivide_ne_zero (exec_srem d a b false) (fun _ hb => hb)
      (fun _ hb => (divide_signed_remainder _ _).trans (if_neg hb))
  · exact completesWhen_scalarDivide_ne_zero (exec_sdiv d a b true) (fun _ hb => hb)
      (fun _ hb => (divide_unsigned_quotient _ _).trans (if_neg hb))
  · exact completesWhen_scalarDivide_ne_zero (exec_srem d a b true) (fun _ hb => hb)
      (fun _ hb => (divide_unsigned_remainder _ _).trans (if_neg hb))
  · exact completesWhen_scalarDivide_ne_zero (exec_sdiv d a b false) (fun _ ⟨_, hb⟩ => hb ▸ allOnes_ne_zero)
      (fun _ ⟨ha, hb⟩ => by rw [ha, hb, divide_signed_overflow])
  · exact completesWhen_scalarDivide_ne_zero (exec_srem d a b false) (fun _ ⟨_, hb⟩ => hb ▸ allOnes_ne_zero)
      (fun _ ⟨ha, hb⟩ => by rw [ha, hb, divide_signed_overflow])
  · exact completes_of_vectorDivide (exec_vdivI32 d a b) (fun _ _ => divide_signed_quotient _ _)
  · exact completes_of_vectorDivide (exec_vdivN32 d a b) (fun _ _ => divide_unsigned_quotient _ _)
  · exact completes_of_vectorDivide (exec_vremI32 d a b) (fun _ _ => divide_signed_remainder _ _)
  · exact completes_of_vectorDivide (exec_vremN32 d a b) (fun _ _ => divide_unsigned_remainder _ _)

end Sys2Proof.Machine
end

section
/-! PROOFS. Votes (R71): a vote's masks read lane by lane. -/

namespace Sys2Proof.Machine
open Sys2Proof

theorem exec_voteAny (d a : PReg) (s : State) : exec (.voteAny d a) s = execVoteAny d a s := rfl
theorem exec_voteAll (d a : PReg) (s : State) : exec (.voteAll d a) s = execVoteAll d a s := rfl
theorem exec_voteBallot (d : SReg) (a : PReg) (s : State) : exec (.voteBallot d a) s = execVoteBallot d a s := rfl

/-! ## Active lanes -/

/-- The guard of a unit lies within the width of the group, whether or not it names a predicate (R291). -/
theorem Group.lt_width_of_guardMask {g : Group} {pfx : List PfxWord} {k : Nat} (h : (g.guardMask pfx).getLsbD k = true) :
    k < g.width := by
  have lanes_lt (hk : g.lanesMask.getLsbD k = true) : k < g.width := by
    rw [Group.getLsbD_lanesMask, Bool.and_eq_true, decide_eq_true_eq, decide_eq_true_eq] at hk
    exact hk.2
  rw [Group.guardMask] at h
  split at h
  · exact lanes_lt h
  · dsimp only at h
    split at h
    · exact lanes_lt h
    · rw [BitVec.getLsbD_and, Bool.and_eq_true] at h
      exact lanes_lt h.2

/-- The active lanes of a unit are the bits of its active mask (R28). -/
theorem State.mem_lanesOf (s : State) (i : Instr) (k : Nat) :
    k ∈ s.lanesOf i ↔ (s.me.active (s.unitOf i).pfx).getLsbD k = true := by
  rw [State.lanesOf, Flight.lanes, Group.mem_lanesOf, and_iff_right_iff_imp, Group.active, BitVec.getLsbD_and, Bool.and_eq_true]
  exact fun h => Group.lt_width_of_guardMask h.2

/-! ## Masks -/

/-- A word has a bit within a mask. -/
theorem mask_and_ne_zero_iff {w : Nat} (x m : BitVec w) :
    x &&& m ≠ 0 ↔ ∃ k, m.getLsbD k = true ∧ x.getLsbD k = true := by
  constructor
  · intro h
    refine Classical.byContradiction fun hnone => h (BitVec.eq_of_getLsbD_eq fun k _ => ?_)
    rw [BitVec.getLsbD_and, BitVec.ofNat_eq_ofNat, BitVec.getLsbD_zero, ← Bool.not_eq_true, Bool.and_eq_true]
    exact fun ⟨hx, hm⟩ => hnone ⟨k, hm, hx⟩
  · rintro ⟨k, hm, hx⟩ h
    have hk : (x &&& m).getLsbD k = true := by rw [BitVec.getLsbD_and, hx, hm, Bool.and_self]
    rw [h, BitVec.ofNat_eq_ofNat, BitVec.getLsbD_zero] at hk
    exact Bool.false_ne_true hk

/-- A word has every bit of a mask. -/
theorem mask_and_eq_iff {w : Nat} (x m : BitVec w) :
    x &&& m = m ↔ ∀ k, m.getLsbD k = true → x.getLsbD k = true := by
  constructor
  · intro h k hm
    rw [← h, BitVec.getLsbD_and, Bool.and_eq_true] at hm
    exact hm.1
  · intro h
    refine BitVec.eq_of_getLsbD_eq fun k _ => ?_
    rw [BitVec.getLsbD_and, Bool.and_eq_right_iff_imp]
    exact h k

/-! ## The votes -/

section
variable (s : State) (i : Instr) (a : PReg)

/-- Some active lane has the predicate: its bits within the active mask are not all zero. -/
theorem vote_any_iff : s.me.preg a &&& s.me.active (s.unitOf i).pfx ≠ 0 ↔
    ∃ k ∈ s.lanesOf i, (s.me.preg a).getLsbD k = true := by
  simp only [mask_and_ne_zero_iff, State.mem_lanesOf]

/-- Every active lane has the predicate: it has every bit of the active mask, also where that is empty. -/
theorem vote_all_iff : s.me.preg a &&& s.me.active (s.unitOf i).pfx = s.me.active (s.unitOf i).pfx ↔
    ∀ k ∈ s.lanesOf i, (s.me.preg a).getLsbD k = true := by
  simp only [mask_and_eq_iff, State.mem_lanesOf]

/-- The bits of a ballot are the active lanes that have the predicate. -/
theorem vote_ballot_iff (k : Nat) : (s.me.preg a &&& s.me.active (s.unitOf i).pfx).getLsbD k = true ↔
    k ∈ s.lanesOf i ∧ (s.me.preg a).getLsbD k = true := by
  rw [BitVec.getLsbD_and, Bool.and_eq_true, State.mem_lanesOf, and_comm]

end

theorem completes_voteAny (d a : PReg) : Completes (.voteAny d a) (fun s => s.onMe (fun g => g.setP d
    (if ∃ k ∈ s.lanesOf (.voteAny d a), (s.me.preg a).getLsbD k = true then g.lanesMask else 0))) := by
  intro s h
  rw [exec_voteAny, execVoteAny, issue_done h rfl]
  refine congrArg (fun t => Host.Outcome.next (s.completed _ t)) (State.onMe_congr ?_)
  simp only [Group.setPAll, bne_iff_ne, vote_any_iff s (.voteAny d a) a]

theorem completes_voteAll (d a : PReg) : Completes (.voteAll d a) (fun s => s.onMe (fun g => g.setP d
    (if ∀ k ∈ s.lanesOf (.voteAll d a), (s.me.preg a).getLsbD k = true then g.lanesMask else 0))) := by
  intro s h
  rw [exec_voteAll, execVoteAll, issue_done h rfl]
  refine congrArg (fun t => Host.Outcome.next (s.completed _ t)) (State.onMe_congr ?_)
  simp only [Group.setPAll, beq_iff_eq, vote_all_iff s (.voteAll d a) a]

theorem completes_voteBallot (d : SReg) (a : PReg) : Completes (.voteBallot d a)
    (fun s => s.withS d (s.me.preg a &&& s.me.active (s.unitOf (.voteBallot d a)).pfx)) := by
  intro s h
  rw [exec_voteBallot, execVoteBallot]
  exact issue_done h rfl

/-- Settles O20: each vote asks its question of the predicate's bits within the active mask, whose bits are the active lanes. -/
theorem votes : Obligations.Votes := by
  unfold Obligations.Votes
  exact ⟨completes_voteAny, completes_voteAll, completes_voteBallot,
    fun d a s k => vote_ballot_iff s (.voteBallot d a) a k⟩

end Sys2Proof.Machine
end

section
/-! PROOFS. Ageing of sets (R78): what SET_AGEING does to a set that is due, and that otherwise nothing changes. -/

namespace Sys2Proof.Machine
open Sys2Proof

theorem exec_setAgeing (h : Nat) (s : State) : exec (.setAgeing h) s = execSetAgeing h s := rfl

/-- The set one level higher, its age counted on from the cycle in which the wait at the old level was over. -/
def TaskSet.aged (x : TaskSet) : TaskSet := { x with level := x.level - 1, since := x.since + Config.ageing }

/-- What a ready set needs to move up: a level above it, the whole wait behind it, and instances that are not placed yet. -/
def State.ageingDue (s : State) (h : Nat) (x : TaskSet) : Prop :=
  0 < x.level ∧ x.since + Config.ageing ≤ s.cycle ∧ s.hasEntry h x = true

/-- A set keeps its entry, and with it its ageing, while any of its instances is in the pool. -/
theorem State.hasEntry_of_lowest {x : TaskSet} (s : State) (h : Nat) (hl : x.lowest.isSome = true) :
    s.hasEntry h x = true := by
  rw [State.hasEntry, hl, Bool.true_or]

section
variable {h : Nat} {x : TaskSet} {s : State} (hx : find? s.sets h = some x)
include hx

/-- A ready set that is due moves up, and nothing but that set changes. -/
theorem exec_setAgeing_of_due (hr : x.ready.isSome = true) (hd : s.ageingDue h x) :
    exec (.setAgeing h) s = .next { s with sets := put s.sets h x.aged } := by
  simp only [exec_setAgeing, execSetAgeing, hx]
  exact if_pos ⟨hr, hd⟩

/-- A set that is not due leaves the state as it is. -/
theorem exec_setAgeing_of_not_due (hd : ¬ s.ageingDue h x) : exec (.setAgeing h) s = .next s := by
  simp only [exec_setAgeing, execSetAgeing, hx]
  exact if_neg fun hc => hd hc.2

end

/-- Level 0, a shorter wait and a set without an entry are the three ways not to be due. -/
theorem State.not_ageingDue_iff {s : State} {h : Nat} {x : TaskSet} : ¬ s.ageingDue h x ↔
    x.level = 0 ∨ s.cycle < x.since + Config.ageing ∨ s.hasEntry h x = false := by
  rw [State.ageingDue, Classical.not_and_iff_not_or_not, Classical.not_and_iff_not_or_not, Nat.not_lt, Nat.le_zero, Nat.not_le,
    Bool.not_eq_true]

/-- Settles O56: a ready set moves up exactly when it is due, and has an entry while any of its instances is in the pool. -/
theorem setAgeing : Obligations.SetAgeing := by
  unfold Obligations.SetAgeing
  intro h x s hx hr
  refine ⟨fun hlevel hwait hentry => ?_, fun hnot => ?_, s.hasEntry_of_lowest h⟩
  · have hd : s.ageingDue h x := ⟨hlevel, hwait, hentry⟩
    exact ⟨_, exec_setAgeing_of_due hx hr hd, find?_put_same .., fun g hg => find?_put_other _ _ hg, rfl, rfl⟩
  · exact exec_setAgeing_of_not_due hx (State.not_ageingDue_iff.mpr hnot)

end Sys2Proof.Machine
end

section
/-! PROOFS. The order of numbers (R223, R225): what a comparison of two numbers says of them, and what FMIN, FMAX, the f32
reductions and the records make of it. -/

namespace Sys2Proof.Machine
open Sys2Proof

/-! ## Comparison of numbers -/

/-- A signalling NaN is a NaN. -/
theorem Num.isSnan_of_not_isNan {a : Num} (h : a.isNan = false) : a.isSnan = false := by
  cases a with
  | nan sig => cases h
  | inf neg => rfl
  | fin neg m e => rfl

/-- Two numbers have no order exactly where one of them is a NaN. -/
theorem Num.compare?_eq_none_iff (a b : Num) : a.compare? b = none ↔ a.isNan = true ∨ b.isNan = true := by
  cases a with
  | nan sig => simp [Num.compare?, Num.isNan]
  | inf x => cases b <;> simp [Num.compare?, Num.isNan]
  | fin x m e => cases b <;> simp [Num.compare?, Num.isNan]

/-- Numbers that have an order are no NaN. -/
theorem Num.not_isNan_of_compare? {a b : Num} {v : Int} (h : a.compare? b = some v) :
    a.isNan = false ∧ b.isNan = false := by
  have hnone : ¬(a.isNan = true ∨ b.isNan = true) := by
    rw [← Num.compare?_eq_none_iff, h]
    exact Option.some_ne_none v
  rwa [not_or, Bool.not_eq_true, Bool.not_eq_true] at hnone

/-- Two finite numbers compare as the sign of their exact difference. -/
theorem Num.compare?_fin (x y : Bool) (m n : Nat) (e g : Int) :
    (Num.fin x m e).compare? (.fin y n g) = some (scaled x m e (min e g) - scaled y n g (min e g)).sign := by
  rw [Num.compare?]
  refine congrArg some ?_
  rcases Int.lt_trichotomy (scaled x m e (min e g) - scaled y n g (min e g)) 0 with h | h | h
  · rw [if_pos h, Int.sign_eq_neg_one_of_neg h]
  · rw [if_neg (by omega), if_pos h, h, Int.sign_zero]
  · rw [if_neg (by omega), if_neg (by omega), Int.sign_eq_one_of_pos h]

/-- The other way round, the order is the opposite. -/
theorem Num.compare?_swap (a b : Num) : b.compare? a = (a.compare? b).map Neg.neg := by
  cases a with
  | nan sig => cases b <;> rfl
  | inf x =>
    cases b with
    | nan sig => rfl
    | inf y => revert x y; decide
    | fin y n g => cases x <;> rfl
  | fin x m e =>
    cases b with
    | nan sig => rfl
    | inf y => cases y <;> rfl
    | fin y n g =>
      rw [Num.compare?_fin, Num.compare?_fin, Option.map_some, Int.min_comm g e, ← Int.sign_neg, Int.neg_sub]

/-- Of two numbers that differ, the one that compares below the other is below it. -/
theorem Num.below_of_compare? {a b : Num} {v : Int} (h : a.compare? b = some v) (hv : v ≠ 0) :
    a.below b = decide (v < 0) := by
  simp only [Num.below, h, if_neg hv]

/-- The same for the second of the two. -/
theorem Num.below_swap_of_compare? {a b : Num} {v : Int} (h : a.compare? b = some v) (hv : v ≠ 0) :
    b.below a = decide (0 < v) := by
  have hswap : b.compare? a = some (-v) := by rw [Num.compare?_swap, h, Option.map_some]
  rw [Num.below_of_compare? hswap (Int.neg_ne_zero.mpr hv)]
  exact decide_eq_decide.mpr Int.neg_neg_iff_pos

/-! ## minimumNumber and maximumNumber -/

section
variable {f : FFmt} {up : Bool} {x y : Nat}

/-- One NaN, on the left: the result is the other operand, with IV for a signalling NaN. -/
theorem FFmt.minmax_nan_left (hx : (f.toNum x).isNan = true) (hy : (f.toNum y).isNan = false) :
    f.minmax up x y = (y, { iv := (f.toNum x).isSnan }) := by
  simp [FFmt.minmax, hx, hy, Num.isSnan_of_not_isNan hy]

theorem FFmt.minmax_nan_right (hx : (f.toNum x).isNan = false) (hy : (f.toNum y).isNan = true) :
    f.minmax up x y = (x, { iv := (f.toNum y).isSnan }) := by
  simp [FFmt.minmax, hx, hy, Num.isSnan_of_not_isNan hx]

theorem FFmt.minmax_nan_both (hx : (f.toNum x).isNan = true) (hy : (f.toNum y).isNan = true) :
    (f.minmax up x y).1 = f.nanCode := by
  simp [FFmt.minmax, hx, hy]

/-- No NaN: the first operand where it is the one below, or for the maximum the one above, with no flag. -/
theorem FFmt.minmax_of_compare? {v : Int} (h : (f.toNum x).compare? (f.toNum y) = some v) :
    f.minmax up x y =
      if (if up then (f.toNum y).below (f.toNum x) else (f.toNum x).below (f.toNum y)) then (x, {}) else (y, {}) := by
  obtain ⟨hx, hy⟩ := Num.not_isNan_of_compare? h
  simp [FFmt.minmax, hx, hy]

/-- The first operand is the lesser. -/
theorem FFmt.minmax_of_lt {v : Int} (h : (f.toNum x).compare? (f.toNum y) = some v) (hv : v < 0) :
    f.minmax false x y = (x, {}) ∧ f.minmax true x y = (y, {}) := by
  have hne : v ≠ 0 := by omega
  have hnot : ¬ 0 < v := by omega
  simp [FFmt.minmax_of_compare? h, Num.below_of_compare? h hne, Num.below_swap_of_compare? h hne, hv, hnot]

/-- The first operand is the greater. -/
theorem FFmt.minmax_of_gt {v : Int} (h : (f.toNum x).compare? (f.toNum y) = some v) (hv : 0 < v) :
    f.minmax false x y = (y, {}) ∧ f.minmax true x y = (x, {}) := by
  have hne : v ≠ 0 := by omega
  have hnot : ¬ v < 0 := by omega
  simp [FFmt.minmax_of_compare? h, Num.below_of_compare? h hne, Num.below_swap_of_compare? h hne, hv, hnot]

end

/-! ## Lane-wise operations and reductions with flags -/

/-- A vector instruction with flags writes its active lanes, and raises the flags of them all. -/
theorem completes_of_vectorFlagOp {i : Instr} {d : VReg} {f : Group → Flight → Nat → Word32 × Flags}
    (hi : ∀ s, exec i s = issue i (vectorFlagOp d f) s) :
    Completes i (fun s => (s.withV i d (fun k => (f s.me (s.unitOf i) k).1)).withFlags
      (orFlags (fun k => (f s.me (s.unitOf i) k).2) (s.lanesOf i))) := by
  intro s h
  refine (hi s).trans (issue_done h ?_)
  dsimp only
  rw [State.withV, State.withFlags, State.onMe_onMe]
  exact congrArg Res.done (State.onMe_congr rfl)

/-- The leaves of a reduction: the values of the active lanes, and its identity elsewhere (R73). -/
theorem State.leaf_eq (s : State) (i : Instr) (a : VReg) (one : Nat) :
    s.me.leaf (s.me.active (s.unitOf i).pfx) a one =
      fun k => if k ∈ s.lanesOf i then (s.me.vreg a k).toNat else one := by
  funext k
  simp only [Group.leaf, State.mem_lanesOf]

/-- An f32 reduction writes the root of its tree, and raises the flags of every node (R73). -/
theorem completes_of_reduceF32 {i : Instr} {d : SReg} {a : VReg} {one : Nat} {op : Nat → Nat → Nat × Flags}
    (hi : ∀ s, exec i s = issue i (reduceF32 d a one op) s) :
    Completes i (fun s =>
      let r := treeNode op (fun k => if k ∈ s.lanesOf i then (s.me.vreg a k).toNat else one) (Nat.log2 s.me.width) 0
      (s.withS d (BitVec.ofNat 64 r.1)).withFlags r.2) := by
  intro s h
  refine (hi s).trans (issue_done h ?_)
  dsimp only
  rw [← State.leaf_eq, State.withS, State.withFlags, State.onMe_onMe]
  exact congrArg Res.done (State.onMe_congr rfl)

/-- An FALU instruction in f32 works on the words of its operands under the negate and abs fields (R222, R328). -/
theorem completes_of_faluF32 {i : Instr} {d a : VReg} {b : VSrc} {f : Nat → Nat → Nat × Flags}
    (hi : ∀ s, exec i s = issue i (faluF32 d a b (fun _ x y _ => f x y)) s) :
    Completes i (fun s =>
      let u := s.unitOf i
      let r := fun k => f (u.opA 0x80000000 (s.me.vreg a k)).toNat (u.opB 0x80000000 (srcVal b s.me k)).toNat
      (s.withV i d (fun k => BitVec.ofNat 32 (r k).1)).withFlags (orFlags (fun k => (r k).2) (s.lanesOf i))) := by
  have hlanes := completes_of_vectorFlagOp hi
  exact hlanes

theorem exec_fmin (d a : VReg) (b : VSrc) (s : State) :
    exec (.fmin d a b) s = issue (.fmin d a b) (faluF32 d a b (fun _ x y _ => f32.minmax false x y)) s := rfl
theorem exec_fmax (d a : VReg) (b : VSrc) (s : State) :
    exec (.fmax d a b) s = issue (.fmax d a b) (faluF32 d a b (fun _ x y _ => f32.minmax true x y)) s := rfl
theorem exec_lredMinF32 (d : SReg) (a : VReg) (s : State) :
    exec (.lredMinF32 d a) s = issue (.lredMinF32 d a) (reduceF32 d a f32.nanCode (f32.minmax false)) s := rfl
theorem exec_lredMaxF32 (d : SReg) (a : VReg) (s : State) :
    exec (.lredMaxF32 d a) s = issue (.lredMaxF32 d a) (reduceF32 d a f32.nanCode (f32.minmax true)) s := rfl

theorem f32_nanCode : f32.nanCode = 0x7FC00000 := by decide

/-- The records MIN.f32 and MAX.f32 leave the minimum or the maximum of the word and their value (R154). -/
theorem recApply_f32_minmax (o y : Nat) :
    recApply 6 4 o y = ((f32.minmax false o y).1, false) ∧ recApply 9 4 o y = ((f32.minmax true o y).1, false) :=
  ⟨rfl, rfl⟩

/-- −0 is below +0, whichever comes first. -/
theorem f32_minmax_zeros :
    f32.minmax false 0x80000000 0 = (0x80000000, {}) ∧ f32.minmax false 0 0x80000000 = (0x80000000, {}) ∧
    f32.minmax true 0x80000000 0 = (0, {}) ∧ f32.minmax true 0 0x80000000 = (0, {}) := by decide

/-- Settles O24: FMIN, FMAX, the reductions and the records all apply `f32.minmax`, which takes the operand that is no NaN, and
of two numbers the one that their order names. -/
theorem floatMinMax : Obligations.FloatMinMax := by
  unfold Obligations.FloatMinMax
  rw [← f32_nanCode]
  refine ⟨fun d a b => ?_, fun d a => completes_of_reduceF32 (exec_lredMinF32 d a),
    fun d a => completes_of_reduceF32 (exec_lredMaxF32 d a), recApply_f32_minmax, fun x y _ _ up =>
    ⟨FFmt.minmax_nan_left, FFmt.minmax_nan_right, FFmt.minmax_nan_both, fun _ => FFmt.minmax_of_lt,
      fun _ => FFmt.minmax_of_gt, f32_minmax_zeros⟩⟩
  simp only [List.forall_mem_cons]
  exact ⟨completes_of_faluF32 (exec_fmin d a b), completes_of_faluF32 (exec_fmax d a b), List.forall_mem_nil _⟩

end Sys2Proof.Machine
end

section
/-! PROOFS. Comparisons (R223): what FCMP writes and raises, and that an integer comparison raises nothing. -/

namespace Sys2Proof.Machine
open Sys2Proof

theorem exec_fcmp (c : FCond) (p : PReg) (m : Cmb) (a : VReg) (b : VSrc) (s : State) :
    exec (.fcmp c p m a b) s = execFcmp c p m a b s := rfl
theorem exec_vcmp (c : SCond) (p : PReg) (m : Cmb) (a : VReg) (b : VSrc) (s : State) :
    exec (.vcmp c p m a b) s = execVcmp c p m a b s := rfl
theorem exec_scmp (c : SCond) (p : PReg) (a b : SReg) (s : State) : exec (.scmp c p a b) s = execScmp c p a b s := rfl
theorem exec_scmpImm (c : SCond) (p : PReg) (a : SReg) (imm : BitVec 6) (s : State) :
    exec (.scmpImm c p a imm) s = execScmpImm c p a imm s := rfl

/-! ## FCMP -/

/-- FCMP combines the comparisons of its active lanes into the predicate, and raises their flags. -/
theorem completes_fcmp (c : FCond) (p : PReg) (m : Cmb) (a : VReg) (b : VSrc) : Completes (.fcmp c p m a b) (fun s =>
    let r := fun k => fcmpLane c (s.me.vreg a k) (srcVal b s.me k)
    (s.withP (.fcmp c p m a b) p (fun k => match m with
      | .set => (r k).1
      | .and => (s.me.preg p).getLsbD k && (r k).1
      | .or => (s.me.preg p).getLsbD k || (r k).1)).withFlags
        (orFlags (fun k => (r k).2) (s.lanesOf (.fcmp c p m a b)))) := by
  intro s h
  rw [exec_fcmp, execFcmp]
  refine issue_done h ?_
  dsimp only
  rw [State.withP, State.withFlags, State.onMe_onMe]
  exact congrArg Res.done (State.onMe_congr rfl)

section
variable {a b : Word32}

/-- A comparison of a NaN: the conditions that hold, and that the four of order raise IV for a quiet NaN too. -/
theorem fcmpLane_of_nan (h : (f32.toNum a.toNat).isNan = true ∨ (f32.toNum b.toNat).isNan = true) :
    let sig := (f32.toNum a.toNat).isSnan || (f32.toNum b.toNat).isSnan
    fcmpLane .eq a b = (false, { iv := sig }) ∧ fcmpLane .ne a b = (true, { iv := sig }) ∧
    fcmpLane .un a b = (true, { iv := sig }) ∧ fcmpLane .ord a b = (false, { iv := sig }) ∧
    ∀ c ∈ [FCond.lt, .le, .gt, .ge], fcmpLane c a b = (false, { iv := true }) := by
  have hnone := (Num.compare?_eq_none_iff _ _).mpr h
  simp [fcmpLane, hnone]

/-- A comparison of two numbers asks the condition of their order, and raises nothing. -/
theorem fcmpLane_of_compare? {v : Int} (h : (f32.toNum a.toNat).compare? (f32.toNum b.toNat) = some v) :
    fcmpLane .eq a b = (decide (v = 0), {}) ∧ fcmpLane .ne a b = (decide (v ≠ 0), {}) ∧
    fcmpLane .lt a b = (decide (v < 0), {}) ∧ fcmpLane .le a b = (decide (v ≤ 0), {}) ∧
    fcmpLane .gt a b = (decide (0 < v), {}) ∧ fcmpLane .ge a b = (decide (0 ≤ v), {}) ∧
    fcmpLane .un a b = (false, {}) ∧ fcmpLane .ord a b = (true, {}) := by
  simp [fcmpLane, h]

end

/-- −0 = +0. -/
theorem fcmpLane_eq_zeros : fcmpLane .eq 0x80000000 0 = (true, {}) := by decide

/-! ## Integer comparisons -/

@[simp] theorem Group.advance_gstat (g : Group) (u : Flight) (cycle : Nat) (pc : Word64) (done : Bool) :
    (g.advance u cycle pc done).gstat = g.gstat := rfl
@[simp] theorem Group.writeP_gstat (g : Group) (r : Nat) (mask : Word64) (f : Nat → Bool) :
    (g.writeP r mask f).gstat = g.gstat := Group.setP_gstat ..

/-- A unit whose effect on the acting group keeps its flags leaves GSTAT as it was. -/
theorem exec_keeps_gstat {i : Instr} {s : State} {run : Flight → State → Res} {f : Group → Group}
    (hi : exec i s = issue i run s) (h : s.canIssue i) (hrun : run (s.unitOf i) s = .done (s.onMe f))
    (hf : (f s.me).gstat = s.me.gstat) : ∃ t, exec i s = .next t ∧ t.me.gstat = s.me.gstat := by
  refine ⟨_, hi.trans (issue_done h hrun), ?_⟩
  rw [State.completed_me _ _ _ (State.onMe_cur ..), Group.advance_gstat, State.onMe_me, hf]

/-- VCMP and both forms of SCMP write a predicate, and no flag. -/
theorem integer_comparison_keeps_gstat (c : SCond) (p : PReg) (m : Cmb) (a : VReg) (b : VSrc) (x y : SReg) (n : BitVec 6)
    (s : State) : ∀ i ∈ [Instr.vcmp c p m a b, .scmp c p x y, .scmpImm c p x n], s.canIssue i →
      ∃ t, exec i s = .next t ∧ t.me.gstat = s.me.gstat := by
  simp only [List.forall_mem_cons]
  exact ⟨fun h => exec_keeps_gstat (exec_vcmp c p m a b s) h rfl (Group.writeP_gstat ..),
    fun h => exec_keeps_gstat (exec_scmp c p x y s) h rfl (Group.setP_gstat ..),
    fun h => exec_keeps_gstat (exec_scmpImm c p x n s) h rfl (Group.setP_gstat ..), List.forall_mem_nil _⟩

/-- Settles O25: FCMP writes and raises what each lane's comparison says, a NaN being one that has no order, and the integer
comparisons write a predicate alone. -/
theorem floatCompare : Obligations.FloatCompare := by
  unfold Obligations.FloatCompare
  exact ⟨completes_fcmp, fun _ _ => fcmpLane_of_nan, fun _ _ _ => fcmpLane_of_compare?, fcmpLane_eq_zeros,
    integer_comparison_keeps_gstat⟩

end Sys2Proof.Machine
end
